-- ==== Sys2Proof/Word.lean ====
section
/-! DEFINITION. The word types of the X16 and the shape of its keyed stores. -/

namespace Sys2Proof

/-- One byte of memory (R4: memory is little-endian). -/
abbrev Byte := BitVec 8

/-- A lane register (R7) or an f32 bit pattern. -/
abbrev W32 := BitVec 32

/-- A sequencer scalar register (R7), a virtual address, or a word of code (R232). -/
abbrev W64 := BitVec 64

/-- A keyed store: pairs of key and value, keys strictly rising. Memory is `Tab Byte`, a list of `Host.Cell`. -/
abbrev Tab (α : Type) := List (Nat × α)

/-- A decoded floating value of any format of R183: the sign is `true` for minus, a finite value is `m * 2^e`. -/
inductive Fp where
  | nan (neg : Bool) (frac : Nat) (signalling : Bool)
  | inf (neg : Bool)
  | fin (neg : Bool) (m : Nat) (e : Int)
  deriving DecidableEq, Repr

/-- An exact dyadic number `m * 2^e` (R8: arithmetic is exact until a named rounding). -/
structure Dyadic where
  m : Int
  e : Int
  deriving DecidableEq, Repr

/-- A positive real known by its floor at scale `2^e`; `sticky` says that it exceeds `n * 2^e` (by less than `2^e`). -/
structure Mag where
  n : Nat
  e : Int
  sticky : Bool
  deriving DecidableEq, Repr

end Sys2Proof
end

