-- ==== Sys2Proof/Syntax.lean ====
section
/-! DEFINITION. The steps of the X16: one constructor of `Instr` per row of spec/opcode_table.json. The instruction rows
carry the fields of their encodings (14_encodings.md); the event rows carry what names the event. -/

namespace Sys2Proof

/-- A lane register field (R248). -/
abbrev VReg := Fin 256
/-- A predicate (R7). -/
abbrev PReg := Fin 8
/-- A lane mask: the values 12 to 15 raise ILLEGAL (R298). -/
abbrev MReg := Fin 12
/-- A queue (R141). -/
abbrev QReg := Fin 8
/-- A numbered barrier or an address generator (R143, R140). -/
abbrev Nib := Fin 16
/-- A sequencer scalar register (R253). -/
abbrev SReg := Fin 64
/-- An accumulator tile (R7). -/
abbrev ZReg := Fin 8

/-- R249: type codes. -/
inductive Ty where
  | i8 | i16 | i32 | i64 | n8 | n16 | n32 | n64 | x32 | f32 | f16 | bf16 | e4m3 | e5m2 | ue4m3 | cf32
  deriving DecidableEq, Repr

/-- R187: rounding modes. -/
inductive Rm where
  | rne | rtz | rup | rdn
  deriving DecidableEq, Repr

/-- R151: request types. -/
inductive ReqTy where
  | own | wt | si | nc
  deriving DecidableEq, Repr

/-- R152: scopes. -/
inductive Scope where
  | warp | block | cluster | die | pkg | dom | sys
  deriving DecidableEq, Repr

/-- R251: full-empty qualifiers. -/
inductive Fe where
  | none | keep | take | fill
  deriving DecidableEq, Repr

/-- R251: access sizes 0 to 6. -/
inductive Size where
  | n8 | i8 | n16 | i16 | b32 | b64 | b128
  deriving DecidableEq, Repr

/-- R252: atomic operations 0 to 10. -/
inductive Aop where
  | add | minN | maxN | minI | maxI | and | or | xor | exch | cas | addF32
  deriving DecidableEq, Repr

/-- R271: ICMP conditions. -/
inductive ICond where
  | eq | ne | lt | le | gt | ge
  deriving DecidableEq, Repr

/-- R285: FCMP conditions. -/
inductive FCond where
  | eq | ne | lt | le | gt | ge | un | or
  deriving DecidableEq, Repr

/-- R339: SCMP conditions 0 to 9. -/
inductive SCond where
  | eq | ne | lt | le | gt | ge | ltu | leu | gtu | geu
  deriving DecidableEq, Repr

/-- R302: MOP operations. -/
inductive MopOp where
  | and | or | xor | andn | act
  deriving DecidableEq, Repr

/-- R305: VOTE kinds. -/
inductive VoteOp where
  | every | some | none | agree
  deriving DecidableEq, Repr

/-- R306: SHFL modes. -/
inductive ShflOp where
  | idx | up | down | xor
  deriving DecidableEq, Repr

/-- R307: REDUX and SCAN operations. -/
inductive RedOp where
  | add | min | max | and | or | xor
  deriving DecidableEq, Repr

/-- R257: special registers 0 to 12. -/
inductive SpecReg where
  | laneid | warpid | blockid | clusterid | dieid | coreid | tmask | tpc | tcause | tdst | stklim | ccount | fflags
  deriving DecidableEq, Repr

/-- R331: what a FENCE performs. -/
inductive FenceOp where
  | rel | acq | ar
  deriving DecidableEq, Repr

/-- R333: CCTL operations. -/
inductive CctlOp where
  | wb | wbdrop | wball | wbdropall
  deriving DecidableEq, Repr

/-- R338: the three forms of SMOV. -/
inductive SmovOp where
  | copy | readFlags | writeFlags
  deriving DecidableEq, Repr

/-- R338: the three forms of SMOVI. -/
inductive SmoviOp where
  | sx | zx | hi
  deriving DecidableEq, Repr

/-- R254: SBRA's condition. -/
inductive SbraOp where
  | always | z | nz
  deriving DecidableEq, Repr

/-- R340: SLD and SST sizes. -/
inductive SSize where
  | n64 | n32 | i32
  deriving DecidableEq, Repr

/-- R341: the part of a generator that ADEF writes. -/
inductive AdefPart where
  | base | stride | ext | idx
  deriving DecidableEq, Repr

/-- R341: what ASTEP reads. -/
inductive AstepOp where
  | addr | done | idx
  deriving DecidableEq, Repr

/-- R342: LDQ and STQ forms. -/
inductive QForm where
  | line | gather | sline | sgather
  deriving DecidableEq, Repr

/-- R361: the spaces of ZLD, ZST and ZDRAIN. -/
inductive Space where
  | sp | cp | mem | row
  deriving DecidableEq, Repr

/-- R361: the formats of ZDRAIN. -/
inductive DrainFmt where
  | f32 | bf16 | f16
  deriving DecidableEq, Repr

/-- R361: the formats of SAADD and SAREAD. -/
inductive RowFmt where
  | f32 | bf16 | e4m3
  deriving DecidableEq, Repr

/-- R247: the guard; `(p7)` is no guard. -/
structure Guard where
  neg : Bool
  pred : PReg
  deriving DecidableEq, Repr

/-- R144, R247, R248: lookahead and dependence counter of a long-latency instruction. -/
structure Lat where
  la : Fin 16
  ctr : Option (Fin 8)
  deriving DecidableEq, Repr

/-- R339: the last operand of a scalar instruction. -/
inductive SOpd where
  | reg (r : SReg)
  | imm (v : BitVec 11)
  deriving DecidableEq, Repr

/-- R139, R136: a stream of a block: one warp's lanes, or the sequencer. -/
inductive Stream where
  | warp (w : Nat)
  | seq
  deriving DecidableEq, Repr

/-- A neighbour of a route engine, or the engine itself (R37 NHOP, R9, R10, R21). -/
inductive Hop where
  | here
  | die (n : Nat)
  | iod
  | port (p : Nat)
  deriving DecidableEq, Repr

/-- R41: an Ifemer message. `pfx` is the 42-bit PFX, `path` its elements (device, die), element 0 first. -/
structure Msg where
  op : Nat
  pfx : Nat
  len : Nat
  home : Bool
  lock : Bool
  holder : Nat
  ver : Nat
  ctx : Nat
  cost : Nat
  path : List (Nat × Nat)
  rsv : Nat
  deriving DecidableEq, Repr

/-- R46, R168: a store that a holder `src` of a peer device propagates to one here: the context (by its number in the routing domain),
the bytes from an RA on, and their poison (R103). -/
structure PeerStore where
  src : Nat
  ctx : Nat
  ra : Nat
  bytes : List (BitVec 8)
  poison : Nat
  deriving DecidableEq, Repr

/-- R46: the store that is applied at one more holder: a write that a holder here has sent on, by its number, or one that arrives
from a peer. -/
inductive Propagated where
  | own (write : Nat)
  | peer (store : PeerStore)
  deriving DecidableEq, Repr

/-- R31: what GET_MEASUREMENTS asks for: one measurement, or with index 0xFF all; signed over the nonce where it gives one. -/
structure MeasureReq where
  index : Nat
  nonce : Option Nat
  deriving DecidableEq, Repr

/-- R24: an access of a function before the package is ready. -/
structure EarlyAccess where
  fn : Nat
  isWrite : Bool
  deriving DecidableEq, Repr

/-- R30: what the verification of a firmware image depends on. -/
structure FwImage where
  sigOk : Bool
  keySlot : Option (Fin 4)
  secVer : Nat
  digest : Nat
  deriving DecidableEq, Repr

/-- R27: what the physical tests of one start find. `stackBest` gives, per package stack, the highest rate code (R25
STACKRATE) at which it trains; absent stacks train at 3. `hostWidth` and `hostGen` are the lanes and the PCIe generation that the
host port trains at (R20), `badLanes` the lanes that fail in step 6, by stack, channel and lane (R109), and `portCosts` the link
costs that the firmware sets, 16 for a port without one (R11). -/
structure BootEnv where
  fuseOk : Bool
  hostWidth : Nat
  hostGen : Nat
  badSublinks : List (Nat × Nat)
  badDies : List Nat
  badCores : List (Nat × Nat)
  stackBest : List (Nat × Nat)
  routesOk : Bool
  badPorts : List Nat
  badLanes : List (Nat × Nat × Nat)
  portCosts : List (Nat × Nat)
  device : Nat
  deriving DecidableEq, Repr

/-- R99: the location of a memory error: STORE code, the die, core, HBM channel and symbol, and the address. -/
structure ErrLoc where
  store : Nat
  die : Nat
  core : Nat
  channel : Nat
  symbol : Nat
  addr : Nat
  ctx : Nat
  deriving DecidableEq, Repr

/-- R69: a host access of a BAR4 window. -/
inductive HostAcc where
  | read (n : Nat)
  | write (bytes : List Byte)
  deriving DecidableEq, Repr

/-- R361, R371: the modifiers of ZDRAIN. -/
structure Drain where
  space : Space
  add : Bool
  fmt : DrainFmt
  req : ReqTy
  clr : Bool
  rel : Bool
  scope : Scope
  deriving DecidableEq, Repr

/-- One constructor per row of the opcode table: instructions and the machine's own events first, and at the end the
events that come from outside (the host, the links, power, clocks and timers). -/
inductive Instr where
  -- Mailbox
  | ctxnew (fn idx : Nat) (rq : BitVec 512)
  | ctxfree (fn idx : Nat) (rq : BitVec 512)
  | grant (fn idx : Nat) (rq : BitVec 512)
  | revoke (fn idx : Nat) (rq : BitVec 512)
  | xlate (fn idx : Nat) (rq : BitVec 512)
  | winmap (fn idx : Nat) (rq : BitVec 512)
  | winunmap (fn idx : Nat) (rq : BitVec 512)
  | qnew (fn idx : Nat) (rq : BitVec 512)
  | qdestroy (fn idx : Nat) (rq : BitVec 512)
  | qabort (fn idx : Nat) (rq : BitVec 512)
  | vfcfg (fn idx : Nat) (rq : BitVec 512)
  | pwrlim (fn idx : Nat) (rq : BitVec 512)
  | badop (fn idx : Nat) (rq : BitVec 512)
  -- Packets
  | packetRead (q : Nat)
  | launchPacket (q idx : Nat)
  | graphPacket (q idx : Nat)
  | waitValuePacket (q idx : Nat)
  | signalPacket (q idx : Nat)
  | barrierAndPacket (q idx : Nat)
  | packetCompletion (q idx : Nat)
  -- Requests and routes
  | requestHoldRelease (req : Nat)
  | requestBounce (req : Nat)
  | unrouted (req : Nat)
  | announceMessage (eng : Nat) (hop : Hop) (m : Msg)
  | fill (eng : Nat) (hop : Hop) (m : Msg)
  | drain (eng : Nat) (hop : Hop) (m : Msg)
  | final (eng : Nat) (hop : Hop) (m : Msg)
  | fail (eng : Nat) (hop : Hop) (m : Msg)
  | homemove (eng : Nat) (hop : Hop) (m : Msg)
  | fqry (eng : Nat) (hop : Hop) (m : Msg)
  | fack (eng : Nat) (hop : Hop) (m : Msg)
  | regen (eng : Nat) (hop : Hop) (m : Msg)
  | recost (eng : Nat) (hop : Hop) (m : Msg)
  | ifemerMessageDiscard (eng : Nat) (m : Msg)
  | lockedWrite (line : Nat)
  | lockAcknowledgement (line holder : Nat)
  | propagatedStore (store : Propagated) (holder : Nat)
  | holderFailure (eng pfx len holder : Nat)
  | authorityTakeover (eng pfx len : Nat)
  | tombstone (eng pfx len holder : Nat)
  | replicateCopyComplete (rop : Nat)
  | drainAcknowledged (rop : Nat)
  | handoverMarker (rop : Nat)
  | regenf (req : Nat)
  | regenerationComplete (pfx len : Nat)
  | cowf (req : Nat)
  | promote (req : Nat)
  | tableWalk (die ctx va : Nat)
  | shootDown (die sd : Nat)
  | requestReplay (req : Nat)
  | blockRestore (cluster : Nat)
  -- Errors
  | contextLoss (ctx cause : Nat)
  | errorRecordWrite (ctx : Nat)
  -- Scheduling
  | dispatchDecision
  | preemptionTrap (uid : Nat) (st : Stream)
  | streamSuspend (uid : Nat) (st : Stream)
  | blockCompletion (uid : Nat)
  | recordCountedFilled (node slot : Nat)
  -- Inside a core
  | clauseFetch (uid : Nat) (st : Stream) (lane : Nat)
  | clauseStart (uid : Nat) (st : Stream) (lane : Nat)
  | longLatencyCompletion (op : Nat)
  | fullEmptyRelease (uid : Nat) (st : Stream)
  | queueWaitRelease (uid : Nat) (st : Stream)
  | ldqEntryFilled (op : Nat)
  | releaseQueryReply (die core round : Nat)
  | sawaitRelease (uid : Nat)
  | redcContribution (rc : Nat)
  | collectiveCompletion (key : Nat)
  | copy (uid slot : Nat)
  | quant (uid slot : Nat)
  | loop (uid slot : Nat)
  | cond (uid slot : Nat)
  | signal (uid slot : Nat)
  | chainEnd (uid slot : Nat)
  | sequencerTrapDelivery (uid : Nat)
  -- Integer, bit and conversion instructions
  | iadd (g : Guard) (t : Ty) (sat : Bool) (d a b : VReg)
  | isub (g : Guard) (t : Ty) (sat : Bool) (d a b : VReg)
  | iaddc (g : Guard) (sub : Bool) (pi : Option PReg) (po : PReg) (d a b : VReg)
  | imul (g : Guard) (t : Ty) (d a b : VReg)
  | imulh (g : Guard) (t : Ty) (d a b : VReg)
  | imad (g : Guard) (t : Ty) (d a b c : VReg)
  | imadw (g : Guard) (t : Ty) (d a b c : VReg)
  | imin (g : Guard) (t : Ty) (d a b : VReg)
  | imax (g : Guard) (t : Ty) (d a b : VReg)
  | iabs (g : Guard) (t : Ty) (sat : Bool) (d a : VReg)
  | ineg (g : Guard) (t : Ty) (sat : Bool) (d a : VReg)
  | and (g : Guard) (t : Ty) (d a b : VReg)
  | or (g : Guard) (t : Ty) (d a b : VReg)
  | xor (g : Guard) (t : Ty) (d a b : VReg)
  | not (g : Guard) (t : Ty) (d a : VReg)
  | lop3 (g : Guard) (lut : BitVec 8) (d a b : VReg)
  | shl (g : Guard) (t : Ty) (d a b : VReg)
  | shr (g : Guard) (t : Ty) (d a b : VReg)
  | sar (g : Guard) (t : Ty) (d a b : VReg)
  | fshl (g : Guard) (clamp : Bool) (d a b c : VReg)
  | fshr (g : Guard) (clamp : Bool) (d a b c : VReg)
  | bfe (g : Guard) (t : Ty) (d a f : VReg)
  | bfi (g : Guard) (t : Ty) (d a b f : VReg)
  | popc (g : Guard) (t : Ty) (d a : VReg)
  | clz (g : Guard) (t : Ty) (d a : VReg)
  | brev (g : Guard) (t : Ty) (d a : VReg)
  | icmp (g : Guard) (c : ICond) (t : Ty) (p : PReg) (a b : VReg)
  | sel (g : Guard) (t : Ty) (d a b : VReg) (p : PReg)
  | mov (g : Guard) (t : Ty) (d a : VReg)
  | movi (g : Guard) (t : Ty) (d : VReg) (imm : W32)
  | lea (g : Guard) (t : Ty) (d a b : VReg) (sh : Fin 32)
  | vrd (g : Guard) (d a : VReg)
  | vwr (g : Guard) (a b : VReg)
  -- Floating-point and special-function instructions
  | fadd (g : Guard) (rm : Rm) (d a b : VReg)
  | fsub (g : Guard) (rm : Rm) (d a b : VReg)
  | fmul (g : Guard) (rm : Rm) (d a b : VReg)
  | ffma (g : Guard) (rm : Rm) (d a b c : VReg)
  | fmin (g : Guard) (prop : Bool) (d a b : VReg)
  | fmax (g : Guard) (prop : Bool) (d a b : VReg)
  | fcmp (g : Guard) (c : FCond) (p : PReg) (a b : VReg)
  | fclass (g : Guard) (t : Ty) (d a : VReg)
  | frnd (g : Guard) (rm : Rm) (d a : VReg)
  | fscale (g : Guard) (rm : Rm) (d a b : VReg)
  | hadd2 (g : Guard) (t : Ty) (rm : Rm) (sat : Bool) (d a b : VReg)
  | hmul2 (g : Guard) (t : Ty) (rm : Rm) (sat : Bool) (d a b : VReg)
  | hfma2 (g : Guard) (t : Ty) (rm : Rm) (sat : Bool) (d a b c : VReg)
  | cmul (g : Guard) (rm : Rm) (d a b : VReg)
  | cfma (g : Guard) (rm : Rm) (d a b c : VReg)
  | rcp (g : Guard) (l : Lat) (rm : Rm) (d a : VReg)
  | rsq (g : Guard) (l : Lat) (rm : Rm) (d a : VReg)
  | sqrt (g : Guard) (l : Lat) (rm : Rm) (d a : VReg)
  | exp2 (g : Guard) (l : Lat) (rm : Rm) (d a : VReg)
  | log2 (g : Guard) (l : Lat) (rm : Rm) (d a : VReg)
  | sinpi (g : Guard) (l : Lat) (rm : Rm) (d a : VReg)
  | cospi (g : Guard) (l : Lat) (rm : Rm) (d a : VReg)
  | sincospi (g : Guard) (l : Lat) (rm : Rm) (d a : VReg)
  | tanh (g : Guard) (l : Lat) (rm : Rm) (d a : VReg)
  | cvt (g : Guard) (l : Lat) (t src : Ty) (rm : Rm) (sat : Bool) (d a : VReg)
  | pack (g : Guard) (l : Lat) (t src : Ty) (rm : Rm) (sat : Bool) (h : Bool) (d a b : VReg)
  | unpack (g : Guard) (l : Lat) (t src : Ty) (e : Fin 4) (d a : VReg)
  -- Control, masks, cross-lane, traps and system
  | bra (g : Guard) (off : W32)
  | brx (g : Guard) (a : VReg)
  | call (g : Guard) (d : VReg) (off : W32)
  | ret (g : Guard) (a : VReg)
  | exit (g : Guard)
  | join (g : Guard) (m : MReg)
  | leave (g : Guard) (m : MReg)
  | waitm (g : Guard) (m : MReg) (lv : Bool)
  | mset (g : Guard) (m : MReg) (a : VReg)
  | mop (g : Guard) (op : MopOp) (d a b : MReg)
  | mget (g : Guard) (d : VReg) (m : MReg)
  | ballot (g : Guard) (l : Lat) (inv : Bool) (d : VReg) (p : PReg)
  | vote (g : Guard) (l : Lat) (op : VoteOp) (pd ps : PReg)
  | matchLanes (g : Guard) (l : Lat) (t : Ty) (d a : VReg)
  | shfl (g : Guard) (l : Lat) (op : ShflOp) (logw : Fin 6) (d a b : VReg)
  | redux (g : Guard) (l : Lat) (op : RedOp) (t : Ty) (rm : Rm) (d a : VReg)
  | scan (g : Guard) (l : Lat) (op : RedOp) (t : Ty) (excl : Bool) (rm : Rm) (d a : VReg)
  | trap (g : Guard) (code : W32)
  | tret (g : Guard)
  | bkpt (g : Guard)
  | srd (g : Guard) (r : SpecReg) (d : VReg)
  | swr (g : Guard) (r : SpecReg) (b : VReg)
  | nop (g : Guard)
  | yield (g : Guard)
  | pdone (g : Guard)
  | fetchb (g : Guard) (wide : Bool)
  | icinv (g : Guard) (all : Bool) (a : VReg)
  -- Memory, atomic and fence instructions
  | ld (g : Guard) (l : Lat) (sz : Size) (rt : ReqTy) (sc : Scope) (fe : Fe) (d a : VReg) (off : BitVec 16)
  | st (g : Guard) (l : Lat) (sz : Size) (rt : ReqTy) (sc : Scope) (fe : Fe) (d a : VReg) (off : BitVec 16)
  | lds (g : Guard) (l : Lat) (sz : Size) (fe : Fe) (d a : VReg) (off : BitVec 16)
  | sts (g : Guard) (l : Lat) (sz : Size) (fe : Fe) (d a : VReg) (off : BitVec 16)
  | ldc (g : Guard) (l : Lat) (sz : Size) (fe : Fe) (d a : VReg) (off : BitVec 16)
  | stc (g : Guard) (l : Lat) (sz : Size) (fe : Fe) (d a : VReg) (off : BitVec 16)
  | ldp (g : Guard) (l : Lat) (sz : Size) (fe : Fe) (d a : VReg) (off : BitVec 16)
  | stp (g : Guard) (l : Lat) (sz : Size) (fe : Fe) (d a : VReg) (off : BitVec 16)
  | atom (g : Guard) (l : Lat) (op : Aop) (sz : Size) (sc : Scope) (d a b : VReg)
  | atoms (g : Guard) (l : Lat) (op : Aop) (sz : Size) (d a b : VReg)
  | red (g : Guard) (l : Lat) (op : Aop) (sz : Size) (sc : Scope) (a b : VReg)
  | fence (g : Guard) (op : FenceOp) (sc : Scope)
  | cctl (g : Guard) (l : Lat) (op : CctlOp) (sc : Scope) (a : VReg) (off : BitVec 16)
  | pref (g : Guard) (l : Lat) (l2 : Bool) (rt : ReqTy) (sc : Scope) (a : VReg) (off : BitVec 16)
  | ldPriv (g : Guard) (l : Lat) (d a : VReg) (off : BitVec 16)
  | stPriv (g : Guard) (l : Lat) (d a : VReg) (off : BitVec 16)
  | popq (g : Guard) (l : Lat) (d : VReg) (q : QReg)
  | pushq (g : Guard) (l : Lat) (q : QReg) (a : VReg)
  -- Matrix and stream accumulator instructions
  | tfetch (l : Lat) (rt : ReqTy) (sc : Scope) (pin : Nib) (a b : SReg)
  | trel (l : Lat) (all : Bool) (pin : Nib)
  | mmaBf16 (l : Lat) (z : Bool) (zd : ZReg) (a b : SReg)
  | mmaF16 (l : Lat) (z : Bool) (zd : ZReg) (a b : SReg)
  | mmaF32 (l : Lat) (z : Bool) (zd : ZReg) (a b : SReg)
  | mmacCf32 (l : Lat) (z : Bool) (zd : ZReg) (a b : SReg)
  | mmasE4m3E4m3 (l : Lat) (z : Bool) (zd : ZReg) (a b : SReg) (sel : BitVec 8) (vw : Fin 32)
  | mmasE4m3E5m2 (l : Lat) (z : Bool) (zd : ZReg) (a b : SReg) (sel : BitVec 8) (vw : Fin 32)
  | mmasE5m2E4m3 (l : Lat) (z : Bool) (zd : ZReg) (a b : SReg) (sel : BitVec 8) (vw : Fin 32)
  | mmasE5m2E5m2 (l : Lat) (z : Bool) (zd : ZReg) (a b : SReg) (sel : BitVec 8) (vw : Fin 32)
  | zclr (l : Lat) (zd : ZReg)
  | zld (l : Lat) (space : Space) (rt : ReqTy) (sc : Scope) (zd : ZReg) (a b : SReg)
  | zst (l : Lat) (space : Space) (rt : ReqTy) (sc : Scope) (zd : ZReg) (a b : SReg)
  | zdrain (l : Lat) (m : Drain) (zd : ZReg) (a b c : SReg)
  | saalloc (l : Lat) (tiles : Bool) (st res par : SReg)
  | safree (l : Lat) (tiles : Bool) (st h : SReg)
  | saadd (l : Lat) (fmt : RowFmt) (sp rel : Bool) (sc : Scope) (st h r src : SReg)
  | saread (l : Lat) (layer : Bool) (fmt : RowFmt) (sp acq : Bool) (sc : Scope) (e h r dst : SReg)
  | sawait (l : Lat) (st h r : SReg)
  | saseal (l : Lat) (st h r : SReg)
  | saevict (l : Lat) (narrow : Bool) (st h r img : SReg)
  | saload (l : Lat) (st h r img : SReg)
  -- Sequencer, queue, engine and route instructions
  | smov (op : SmovOp) (d a : SReg)
  | smovi (op : SmoviOp) (d : SReg) (imm : W32)
  | sadd (d a : SReg) (b : SOpd)
  | ssub (d a : SReg) (b : SOpd)
  | smul (d a : SReg) (b : SOpd)
  | sand (d a : SReg) (b : SOpd)
  | sor (d a : SReg) (b : SOpd)
  | sxor (d a : SReg) (b : SOpd)
  | sshl (d a : SReg) (b : SOpd)
  | sshr (arith : Bool) (d a : SReg) (b : SOpd)
  | scmp (c : SCond) (d a : SReg) (b : SOpd)
  | sbra (op : SbraOp) (a : SReg) (off : W32)
  | sld (l : Lat) (sz : SSize) (rt : ReqTy) (sc : Scope) (d a : SReg) (off : BitVec 8)
  | sst (l : Lat) (sz : SSize) (rt : ReqTy) (sc : Scope) (a b : SReg) (off : BitVec 8)
  | sexit
  | adef (part : AdefPart) (k : Nib) (a b : SReg)
  | astep (op : AstepOp) (k : Nib) (d : SReg) (n : BitVec 11)
  | ldq (l : Lat) (form : QForm) (tk : Bool) (rt : ReqTy) (sc : Scope) (q : QReg) (gen : Nib) (tag : Fin 64)
  | stq (l : Lat) (form : QForm) (fl : Bool) (rt : ReqTy) (sc : Scope) (q : QReg) (gen : Nib) (sel : Fin 64)
  | qpush (l : Lat) (iota : Bool) (q : QReg) (a b : SReg) (tag : Fin 64)
  | qpop (l : Lat) (d : SReg) (q : QReg) (sel : Fin 64) (j : Nib)
  | bara (exp : Bool) (k : Nib) (a : SReg)
  | barw (k : Nib)
  | chain (l : Lat) (a : SReg) (slot : Nib)
  | cwait (l : Lat) (all : Bool) (d : SReg) (slot : Nib)
  | coll (l : Lat) (a : SReg) (slot : Fin 4)
  | ctwait (l : Lat) (d : SReg) (slot : Fin 4)
  | redc (l : Lat) (spad : Bool) (n a b c : SReg)
  | launch (l : Lat) (d a : SReg)
  | rqpush (l : Lat) (d a b c : SReg) (q : QReg) (sel : Fin 64)
  | rqpop (l : Lat) (free : Bool) (d a : SReg)
  | announce (l : Lat) (replica locked : Bool) (d a b : SReg) (len : Fin 64)
  | withdraw (l : Lat) (d a b : SReg) (len : Fin 64)
  | replicate (l : Lat) (d a b : SReg) (len : Fin 64)
  | migrate (l : Lat) (d a b : SReg) (len : Fin 64)
  | rfence (l : Lat) (sc : Scope) (d a : SReg)
  | fenceSequencer (l : Lat) (op : FenceOp) (sc : Scope)
  | trapSequencer (code : W32)
  | tretSequencer
  | pdoneSequencer
  -- One more event of the machine itself
  | illegal
  -- Events that only the world outside the machine, or its clocks, start: no step of the model makes one
  | powerOn (env : BootEnv)
  | sublinkFailure (edge sub : Nat)
  | flitReplay (port attempts : Nat)
  | deviceNumberConflict (port : Nat)
  | thermalStepDown (die : Nat)
  | junction110 (die : Nat)
  | thermalPowerDown (die : Nat)
  | powerLimitStep (watts : Nat)
  | frequencyChange (island mhz mv : Nat)
  | getVersion
  | getCapabilities
  | negotiateAlgorithms
  | getDigests
  | getCertificate (offset length : Nat)
  | challenge (nonce : Nat)
  | getMeasurements (req : MeasureReq)
  | notReadyResponse (access : EarlyAccess)
  | registerWrite (fn off : Nat) (val : W32)
  | bootclrWrite (fn : Nat) (val : W32)
  | nrdycntWrite (fn : Nat) (val : W32)
  | hosterrWrite (fn : Nat) (val : W32)
  | mbxRingBaseWrite (fn off : Nat) (val : W32)
  | mbxtail (fn : Nat) (val : W32)
  | mbxvec (fn : Nat) (val : W32)
  | errvec (fn : Nat) (val : W32)
  | hostAccessDiscarded (fn : Nat) (isWrite : Bool)
  | bar4Access (fn win off : Nat) (acc : HostAcc)
  | qtail (fn win : Nat) (val : W32)
  | functionLevelReset (fn : Nat)
  | waitValueReevaluate (q : Nat)
  | waitto (q : Nat)
  | holdTimeout (req : Nat)
  | recostRefresh (eng : Nat)
  | retiredRecordExpiry (eng pfx len holder : Nat)
  | lockAckTimeout (line holder : Nat)
  | eccCorrection (loc : ErrLoc)
  | correctionMergeFlush (loc : ErrLoc)
  | uncorrectableError (loc : ErrLoc) (dirty : Bool)
  | deadlineExpiry (cluster : Nat)
  | blockStall (uid : Nat)
  | flushTimerExpiry (node : Nat)
  | issueGroupRegroup (die core quadrant : Nat)
  | l1Eviction (die core line : Nat)
  | collectiveTimeout (key rank : Nat)
  | condReevaluate (uid slot : Nat) (expired : Bool)
  | powerLoss (torn : Bool)
  | channelResume (stack channel : Nat)
  deriving DecidableEq, Repr

end Sys2Proof
end

