-- ==== Sys2Proof/Config.lean ====
section
/-! DEFINITION. What the spec leaves to the part or to chance: constants without a body, so no proof can see a value. -/

namespace Sys2Proof.Config

/-- R32: a byte of a routed store that the reader's context has not written there. Indexed by the byte's place and what the place
held before (host memory's is its bus address), and the reader's key number. Free value. -/
opaque freshByte (key keyNo : Nat) : Byte

/-- R16, R313: arithmetic-clock cycles that passed on a die since %ccount was last read there. Free value. -/
opaque elapsed (n : Nat) : Nat

/-- R25: fused silicon stepping. -/
opaque idStep : W32
/-- R25: fused serial number. -/
opaque serial : W64
/-- R25, R28: the detail code of a failed or limited step, by step, unit and start. Free value. -/
opaque detailCode (step unit n : Nat) : W32
/-- R28: what a torn boot-record entry holds in place of its last written bits. Free value. -/
opaque tornBits (n : Nat) : BitVec 32
/-- R99: the on-chip address that a record gives for a location of L2 or L1, by core (or die), store and RA (the spec gives no
layout). -/
opaque onChipAddr (unit store ra : Nat) : W64
/-- R36, R54: whether a peer device can be reached over the ports that are up. Free value. -/
opaque peerReachable (dev n : Nat) : Bool
/-- R53, R58: the route engines of the routing domain on other devices, each as device * 16 + die. Free value. -/
opaque peerEngines (n : Nat) : List Nat
/-- R36: whether a holder of a peer device is one: its die live, its stack announced. Free value. -/
opaque peerHolder (holder n : Nat) : Bool
/-- R42, R50: whether the authority of a prefix, on a peer device, has an operation of another device under way on it. Free value. -/
opaque peerBusy (pfx len n : Nat) : Bool
/-- R36, R50: whether a store of a peer device has room for a prefix. Free value. -/
opaque peerRoom (holder len n : Nat) : Bool
/-- R156, R159, R381: whether a scratchpad bank takes the bytes that a store puts in a granule later than the store issues. Free value. -/
opaque padLate (granule n : Nat) : Bool
/-- R353: whether a collective's state does not yet fit its root's store, so that its parts are held there. Free value. -/
opaque collHeld (root n : Nat) : Bool
/-- R398: whether the memory processor of the device whose part a prefix's RA lies in had taken another announcement of it first.
Free value. -/
opaque peerCreated (pfx len n : Nat) : Bool
/-- R33: whether an L2 slice still holds a line, so that its owner tag decides what a reader of another tag finds there. Free value. -/
opaque l2Holds (line n : Nat) : Bool
/-- R129: the pending statuses in a frame, and R128: the image of a held request, in a form that only the memory processor and the die
schedulers read (the spec gives none). Free values. -/
opaque frameStatus (uid i : Nat) : Byte
opaque heldImage (req i : Nat) : Byte
/-- R31: the identity certificate chain, byte by byte. -/
opaque certByte (i : Nat) : Byte
/-- R31: length of the certificate chain. -/
opaque certLength : Nat
/-- R31: the ECDSA P-384 signature by the device identity key over a transcript. -/
opaque identitySign (xs : List Nat) : Nat
/-- R32: the AES-256-XTS key pair drawn for a context, byte by byte: the data key, then the tweak key. Free value. -/
opaque xtsKey (keyNo i : Nat) : Byte
/-- R96: the tag key drawn with it, byte by byte. Free value. -/
opaque tagKey (keyNo i : Nat) : Byte
/-- R105: the wrong bits that a faulty physical lane gives when no shadow issue compares them (the spec gives no value). -/
opaque faultyResult (n : Nat) : W32
/-- R217: how many line states, less one, the 1 MiB of a die's store holds (the spec gives no size of a line state). -/
opaque lineStates : Nat

/-- R68: what the memory processor of another device says of a context that a SPAN names: bit 0 that it is an origin in use, then
its ceiling and its modes. Free value. -/
opaque peerContext (dev ctx n : Nat) : Nat
/-- R84: whether a peer device has granted a range to a context. Free value. -/
opaque peerGranted (dev base len n : Nat) : Bool

/-- How many turns of streams pass before a running timer runs out beside them, where no schedule says otherwise. -/
def patience : Nat := 16384

end Sys2Proof.Config
end

