-- ==== Sys2Proof/WellFormed.lean ====
section
/-! DEFINITION. The static conditions of R258, R259 and the instruction chapters: which operands an encoding admits.
What depends on the launch (the VREGS bound, tiles held) is checked when the instruction runs. -/

namespace Sys2Proof

/-- R249: width in bits of a type's value. -/
def Ty.width : Ty → Nat
  | .i8 | .n8 | .e4m3 | .e5m2 | .ue4m3 => 8
  | .i16 | .n16 | .f16 | .bf16 => 16
  | .i32 | .n32 | .x32 | .f32 => 32
  | .i64 | .n64 | .cf32 => 64

/-- R258: lane registers an operand of the type takes. -/
def Ty.regs (t : Ty) : Nat := if t.width = 64 then 2 else 1

/-- R182: the signed integer types. -/
def Ty.signed : Ty → Bool
  | .i8 | .i16 | .i32 | .i64 => true
  | _ => false

/-- R249: the floating types of one value. -/
def Ty.isFloat : Ty → Bool
  | .f32 | .f16 | .bf16 | .e4m3 | .e5m2 | .ue4m3 => true
  | _ => false

/-- R182: the integer types that CVT accepts. -/
def Ty.isInt : Ty → Bool
  | .i8 | .i16 | .i32 | .i64 | .n8 | .n16 | .n32 | .n64 => true
  | _ => false

/-- R261: the types whose conversions are long-latency. -/
def Ty.isNarrow : Ty → Bool
  | .f16 | .bf16 | .e4m3 | .e5m2 | .ue4m3 => true
  | _ => false

/-- R251: bytes of an access. -/
def Size.bytes : Size → Nat
  | .n8 | .i8 => 1
  | .n16 | .i16 => 2
  | .b32 => 4
  | .b64 => 8
  | .b128 => 16

/-- R258: lane registers of an access. -/
def Size.regs : Size → Nat
  | .b64 => 2
  | .b128 => 4
  | _ => 1

/-- R258: the first register of an operand of `n` registers. -/
def regOk (n : Nat) (r : VReg) : Bool := r.val % n == 0

/-- R262: the operand of a type starts at a register that type allows. -/
def tyOk (t : Ty) (r : VReg) : Bool := regOk t.regs r

/-- R144: no lookahead and no counter. -/
def Lat.isShort (l : Lat) : Bool := l.la.val == 0 && l.ctr.isNone

/-- R277: types of CVT and where a rounding mode or .sat is refused. -/
def cvtOk (t s : Ty) (rm : Rm) (sat : Bool) : Bool :=
  (t.isInt || t.isFloat) && (s.isInt || s.isFloat) && t != s &&
  (rm == .rne || !((t.isInt && s.isInt) || (t == .f32 && s.isFloat))) &&
  (!sat || !((t.isInt && s.isFloat) || t == .e4m3 || t == .ue4m3))

/-- R279: the pairings of PACK. -/
def packOk (t s : Ty) (rm : Rm) (sat h : Bool) : Bool :=
  ([Ty.i8, .n8, .i16, .n16].contains t && (s == .i32 || s == .n32) && rm == .rne ||
    [Ty.f16, .bf16, .e4m3, .e5m2].contains t && s == .f32) &&
  (!sat || t != .e4m3) && (!h || t.width == 8)

/-- R280: the pairings of UNPACK. -/
def unpackOk (t s : Ty) (e : Fin 4) : Bool :=
  ((s == .i8 || s == .i16) && t == .i32 || (s == .n8 || s == .n16) && t == .n32 || s.isNarrow && t == .f32) &&
  (s.width == 8 || e.val < 2)

/-- R307: the combinations of REDUX and SCAN. -/
def redOk (op : RedOp) (t : Ty) (rm : Rm) : Bool :=
  (match op with
    | .add | .min | .max => t == .n32 || t == .i32 || t == .f32
    | .and | .or | .xor => t == .x32) && (rm == .rne || (op == .add && t == .f32))

/-- R252: sizes an atomic operation accepts. -/
def aopOk (op : Aop) (sz : Size) : Bool :=
  match sz with
  | .b32 => true
  | .b64 => op != .addF32
  | .b128 => op == .exch || op == .cas
  | _ => false

/-- R252, R258: the operand of an atomic, with the swap value of .cas directly after the compare value. -/
def aopOpd (op : Aop) (sz : Size) (b : VReg) : Bool :=
  regOk sz.regs b && (op != .cas || b.val + 2 * sz.regs ≤ 256)

/-- R141, R342: tags and selectors that an encoding admits. -/
def tagOk (t : Fin 64) : Bool := t.val < 32 || t.val == 63

/-- R361: the combinations of ZDRAIN. -/
def drainOk (m : Drain) (c : SReg) : Bool :=
  (m.space != .row || m.add) && (!m.rel || m.add) && (!m.add || m.fmt == .f32) &&
  (m.req == .own || (m.space == .mem && !m.add)) &&
  (m.scope == .warp || (m.space == .mem && !m.add) || m.rel) && (c.val == 0 || m.space == .row)

def Ty.i8Set (t : Ty) : Bool := t.isInt
def Ty.w32Set (t : Ty) : Bool := t == .n32 || t == .i32 || t == .n64 || t == .i64
def Ty.xSet (t : Ty) : Bool := t == .x32 || t == .n64
def Ty.nSet (t : Ty) : Bool := t == .n32 || t == .n64

/-- R363 apart: a store accepts no sign-extending size (R251). -/
def Size.storeOk : Size → Bool
  | .i8 | .i16 => false
  | _ => true

/-- The conditions of the encoding tables (R262, R281, R299, R317, R336, R361) beyond the fields' own types. -/
def Instr.wf : Instr → Bool
  | .iadd _ t _ d a b | .isub _ t _ d a b => t.i8Set && tyOk t d && tyOk t a && tyOk t b
  | .iaddc _ _ _ po _ _ _ => po != 7
  | .imul _ t d a b | .imin _ t d a b | .imax _ t d a b => t.i8Set && tyOk t d && tyOk t a && tyOk t b
  | .imulh _ t d a b => t.w32Set && tyOk t d && tyOk t a && tyOk t b
  | .imad _ t d a b c => t.i8Set && tyOk t d && tyOk t a && tyOk t b && tyOk t c
  | .imadw _ t d _ _ c => (t == .n32 || t == .i32) && regOk 2 d && regOk 2 c
  | .iabs _ t _ d a | .ineg _ t _ d a => t.signed && tyOk t d && tyOk t a
  | .and _ t d a b | .or _ t d a b | .xor _ t d a b => t.xSet && tyOk t d && tyOk t a && tyOk t b
  | .not _ t d a | .mov _ t d a | .brev _ t d a => t.xSet && tyOk t d && tyOk t a
  | .shl _ t d a _ | .shr _ t d a _ => t.nSet && tyOk t d && tyOk t a
  | .sar _ t d a _ => (t == .i32 || t == .i64) && tyOk t d && tyOk t a
  | .bfe _ t d a _ => t.w32Set && tyOk t d && tyOk t a
  | .bfi _ t d a b _ => t.xSet && tyOk t d && tyOk t a && tyOk t b
  | .popc _ t _ a | .clz _ t _ a => t.xSet && tyOk t a
  | .icmp _ _ t p a b => t.w32Set && p != 7 && tyOk t a && tyOk t b
  | .sel _ t d a b _ => t.xSet && tyOk t d && tyOk t a && tyOk t b
  | .movi _ t d _ => [Ty.x32, .i32, .n32, .f32, .i64, .n64].contains t && tyOk t d
  | .lea _ t d a _ _ => (t == .n32 || t == .i32) && regOk 2 d && regOk 2 a
  | .fcmp _ _ p _ _ => p != 7
  | .fclass _ t _ _ => t == .f32 || t == .f16 || t == .bf16
  | .hadd2 _ t _ _ _ _ _ | .hmul2 _ t _ _ _ _ _ | .hfma2 _ t _ _ _ _ _ _ => t == .f16 || t == .bf16
  | .cmul _ _ d a b => regOk 2 d && regOk 2 a && regOk 2 b
  | .cfma _ _ d a b c => regOk 2 d && regOk 2 a && regOk 2 b && regOk 2 c
  | .sincospi _ _ _ d _ => regOk 2 d
  | .cvt _ l t s rm sat d a => cvtOk t s rm sat && (t.isNarrow || s.isNarrow || l.isShort) && tyOk t d && tyOk s a
  | .pack _ l t s rm sat h _ _ _ => packOk t s rm sat h && (t.isNarrow || l.isShort)
  | .unpack _ l t s e _ _ => unpackOk t s e && (s.isNarrow || l.isShort)
  | .brx _ a | .ret _ a => regOk 2 a
  | .call _ d _ => regOk 2 d
  | .mop _ op _ a b => op != .act || (a.val == 0 && b.val == 0)
  | .vote _ _ _ pd _ => pd != 7
  | .matchLanes _ _ t _ a => t.xSet && tyOk t a
  | .redux _ _ op t rm _ _ | .scan _ _ op t _ rm _ _ => redOk op t rm
  | .srd _ r d => !([SpecReg.blockid, .clusterid, .tpc, .ccount].contains r) || regOk 2 d
  | .swr _ r b => [SpecReg.fflags, .stklim, .tpc, .tcause].contains r && (r != .tpc || regOk 2 b)
  | .icinv _ all a => if all then a.val == 0 else regOk 2 a
  | .ld _ _ sz _ _ _ d a _ => regOk sz.regs d && regOk 2 a
  | .st _ _ sz _ _ _ d a _ => sz.storeOk && regOk sz.regs d && regOk 2 a
  | .lds _ _ sz fe d _ _ | .ldc _ _ sz fe d _ _ | .ldp _ _ sz fe d _ _ => fe != .fill && regOk sz.regs d
  | .sts _ _ sz fe d _ _ | .stc _ _ sz fe d _ _ | .stp _ _ sz fe d _ _ =>
    sz.storeOk && (fe == .none || fe == .fill) && regOk sz.regs d
  | .atom _ _ op sz _ d a b => aopOk op sz && regOk sz.regs d && regOk 2 a && aopOpd op sz b
  | .atoms _ _ op sz d _ b => aopOk op sz && regOk sz.regs d && aopOpd op sz b
  | .red _ _ op sz _ a b => aopOk op sz && regOk 2 a && aopOpd op sz b
  | .cctl _ _ op _ a off => if op == .wball || op == .wbdropall then a.val == 0 && off == 0 else regOk 2 a
  | .pref _ _ l2 rt _ a _ => regOk 2 a && (rt != .nc || l2)
  | .trel _ all pin => !all || pin.val == 0
  | .mmacCf32 _ _ zd _ _ => zd.val % 2 == 0
  | .zld _ s rt sc _ _ _ | .zst _ s rt sc _ _ _ => s != .row && (s == .mem || (rt == .own && sc == .warp))
  | .zdrain _ m _ _ _ c => drainOk m c
  | .saadd _ _ _ rel sc _ _ _ _ => rel || sc == .warp
  | .saread _ _ _ _ acq sc e _ _ _ => (acq || sc == .warp) && e.val != 63
  | .smov op d a =>
    match op with
    | .copy => true
    | .readFlags => a.val == 0
    | .writeFlags => d.val == 0
  | .sbra op a _ => op != .always || a.val == 0
  | .adef part _ _ b => part == .stride || b.val == 0
  | .ldq _ form tk rt sc _ _ tag | .stq _ form tk rt sc _ _ tag =>
    tagOk tag && (if form == .line || form == .gather then !tk else rt == .own && sc == .warp)
  | .qpush _ iota _ _ b tag => tagOk tag && (iota || b.val == 0)
  | .qpop _ _ _ sl _ => tagOk sl
  | .bara exp _ a => exp || a.val == 0
  | .cwait _ all _ slot => !all || slot.val == 0
  | .rqpush _ _ _ _ _ _ sl => tagOk sl
  | _ => true

end Sys2Proof
end

