-- ==== Sys2Proof/Decode.lean ====
section
/-! DEFINITION. The decoder of clause headers and instruction words (14_encodings.md and the encoding tables R262, R281,
R299, R317, R336, R344 and R361), total on any word and rejecting by name; and, after it, the encoder. -/

namespace Sys2Proof

/-- Field of `n` bits at bit `lo` of a word read as a number. -/
def fld (w lo n : Nat) : Nat := w / 2 ^ lo % 2 ^ n

/-- R249. -/
def tyCode : Ty → Nat
  | .i8 => 0
  | .i16 => 1
  | .i32 => 2
  | .i64 => 3
  | .n8 => 4
  | .n16 => 5
  | .n32 => 6
  | .n64 => 7
  | .x32 => 8
  | .f32 => 9
  | .f16 => 10
  | .bf16 => 11
  | .e4m3 => 12
  | .e5m2 => 13
  | .ue4m3 => 14
  | .cf32 => 15

/-- R249: the inverse of `tyCode`. -/
def tyOf : Nat → Option Ty
  | 0 => some .i8
  | 1 => some .i16
  | 2 => some .i32
  | 3 => some .i64
  | 4 => some .n8
  | 5 => some .n16
  | 6 => some .n32
  | 7 => some .n64
  | 8 => some .x32
  | 9 => some .f32
  | 10 => some .f16
  | 11 => some .bf16
  | 12 => some .e4m3
  | 13 => some .e5m2
  | 14 => some .ue4m3
  | 15 => some .cf32
  | _ => none

/-- R248. -/
def rmCode : Rm → Nat
  | .rne => 0
  | .rtz => 1
  | .rup => 2
  | .rdn => 3

/-- R248: the inverse of `rmCode`. -/
def rmOf : Nat → Option Rm
  | 0 => some .rne
  | 1 => some .rtz
  | 2 => some .rup
  | 3 => some .rdn
  | _ => none

/-- R151. -/
def reqTyCode : ReqTy → Nat
  | .own => 0
  | .wt => 1
  | .si => 2
  | .nc => 3

/-- R151: the inverse of `reqTyCode`. -/
def reqTyOf : Nat → Option ReqTy
  | 0 => some .own
  | 1 => some .wt
  | 2 => some .si
  | 3 => some .nc
  | _ => none

/-- R152; code 7 is ILLEGAL. -/
def scopeCode : Scope → Nat
  | .warp => 0
  | .block => 1
  | .cluster => 2
  | .die => 3
  | .pkg => 4
  | .dom => 5
  | .sys => 6

/-- R152; code 7 is ILLEGAL: the inverse of `scopeCode`. -/
def scopeOf : Nat → Option Scope
  | 0 => some .warp
  | 1 => some .block
  | 2 => some .cluster
  | 3 => some .die
  | 4 => some .pkg
  | 5 => some .dom
  | 6 => some .sys
  | _ => none

/-- R251. -/
def feCode : Fe → Nat
  | .none => 0
  | .keep => 1
  | .take => 2
  | .fill => 3

/-- R251: the inverse of `feCode`. -/
def feOf : Nat → Option Fe
  | 0 => some .none
  | 1 => some .keep
  | 2 => some .take
  | 3 => some .fill
  | _ => none

/-- R251; code 7 is never valid. -/
def sizeCode : Size → Nat
  | .n8 => 0
  | .i8 => 1
  | .n16 => 2
  | .i16 => 3
  | .b32 => 4
  | .b64 => 5
  | .b128 => 6

/-- R251; code 7 is never valid: the inverse of `sizeCode`. -/
def szOf : Nat → Option Size
  | 0 => some .n8
  | 1 => some .i8
  | 2 => some .n16
  | 3 => some .i16
  | 4 => some .b32
  | 5 => some .b64
  | 6 => some .b128
  | _ => none

/-- R252. -/
def aopCode : Aop → Nat
  | .add => 0
  | .minN => 1
  | .maxN => 2
  | .minI => 3
  | .maxI => 4
  | .and => 5
  | .or => 6
  | .xor => 7
  | .exch => 8
  | .cas => 9
  | .addF32 => 10

/-- R252: the inverse of `aopCode`. -/
def aopOf : Nat → Option Aop
  | 0 => some .add
  | 1 => some .minN
  | 2 => some .maxN
  | 3 => some .minI
  | 4 => some .maxI
  | 5 => some .and
  | 6 => some .or
  | 7 => some .xor
  | 8 => some .exch
  | 9 => some .cas
  | 10 => some .addF32
  | _ => none

/-- R271. -/
def iCondCode : ICond → Nat
  | .eq => 0
  | .ne => 1
  | .lt => 2
  | .le => 3
  | .gt => 4
  | .ge => 5

/-- R271: the inverse of `iCondCode`. -/
def iCondOf : Nat → Option ICond
  | 0 => some .eq
  | 1 => some .ne
  | 2 => some .lt
  | 3 => some .le
  | 4 => some .gt
  | 5 => some .ge
  | _ => none

/-- R285. -/
def fCondCode : FCond → Nat
  | .eq => 0
  | .ne => 1
  | .lt => 2
  | .le => 3
  | .gt => 4
  | .ge => 5
  | .un => 6
  | .or => 7

/-- R285: the inverse of `fCondCode`. -/
def fCondOf : Nat → Option FCond
  | 0 => some .eq
  | 1 => some .ne
  | 2 => some .lt
  | 3 => some .le
  | 4 => some .gt
  | 5 => some .ge
  | 6 => some .un
  | 7 => some .or
  | _ => none

/-- R339. -/
def sCondCode : SCond → Nat
  | .eq => 0
  | .ne => 1
  | .lt => 2
  | .le => 3
  | .gt => 4
  | .ge => 5
  | .ltu => 6
  | .leu => 7
  | .gtu => 8
  | .geu => 9

/-- R339: the inverse of `sCondCode`. -/
def sCondOf : Nat → Option SCond
  | 0 => some .eq
  | 1 => some .ne
  | 2 => some .lt
  | 3 => some .le
  | 4 => some .gt
  | 5 => some .ge
  | 6 => some .ltu
  | 7 => some .leu
  | 8 => some .gtu
  | 9 => some .geu
  | _ => none

/-- R299. -/
def mopOpCode : MopOp → Nat
  | .and => 0
  | .or => 1
  | .xor => 2
  | .andn => 3
  | .act => 4

/-- R299: the inverse of `mopOpCode`. -/
def mopOpOf : Nat → Option MopOp
  | 0 => some .and
  | 1 => some .or
  | 2 => some .xor
  | 3 => some .andn
  | 4 => some .act
  | _ => none

/-- R299. -/
def voteOpCode : VoteOp → Nat
  | .every => 0
  | .some => 1
  | .none => 2
  | .agree => 3

/-- R299: the inverse of `voteOpCode`. -/
def voteOpOf : Nat → Option VoteOp
  | 0 => some .every
  | 1 => some .some
  | 2 => some .none
  | 3 => some .agree
  | _ => none

/-- R299. -/
def shflOpCode : ShflOp → Nat
  | .idx => 0
  | .up => 1
  | .down => 2
  | .xor => 3

/-- R299: the inverse of `shflOpCode`. -/
def shflOpOf : Nat → Option ShflOp
  | 0 => some .idx
  | 1 => some .up
  | 2 => some .down
  | 3 => some .xor
  | _ => none

/-- R299. -/
def redOpCode : RedOp → Nat
  | .add => 0
  | .min => 1
  | .max => 2
  | .and => 3
  | .or => 4
  | .xor => 5

/-- R299: the inverse of `redOpCode`. -/
def redOpOf : Nat → Option RedOp
  | 0 => some .add
  | 1 => some .min
  | 2 => some .max
  | 3 => some .and
  | 4 => some .or
  | 5 => some .xor
  | _ => none

/-- R257; codes 13 to 15 raise ILLEGAL. -/
def specRegCode : SpecReg → Nat
  | .laneid => 0
  | .warpid => 1
  | .blockid => 2
  | .clusterid => 3
  | .dieid => 4
  | .coreid => 5
  | .tmask => 6
  | .tpc => 7
  | .tcause => 8
  | .tdst => 9
  | .stklim => 10
  | .ccount => 11
  | .fflags => 12

/-- R257; codes 13 to 15 raise ILLEGAL: the inverse of `specRegCode`. -/
def specRegOf : Nat → Option SpecReg
  | 0 => some .laneid
  | 1 => some .warpid
  | 2 => some .blockid
  | 3 => some .clusterid
  | 4 => some .dieid
  | 5 => some .coreid
  | 6 => some .tmask
  | 7 => some .tpc
  | 8 => some .tcause
  | 9 => some .tdst
  | 10 => some .stklim
  | 11 => some .ccount
  | 12 => some .fflags
  | _ => none

/-- R333. -/
def cctlOpCode : CctlOp → Nat
  | .wb => 0
  | .wbdrop => 1
  | .wball => 2
  | .wbdropall => 3

/-- R333: the inverse of `cctlOpCode`. -/
def cctlOpOf : Nat → Option CctlOp
  | 0 => some .wb
  | 1 => some .wbdrop
  | 2 => some .wball
  | 3 => some .wbdropall
  | _ => none

/-- R336. -/
def smovOpCode : SmovOp → Nat
  | .copy => 0
  | .readFlags => 1
  | .writeFlags => 2

/-- R336: the inverse of `smovOpCode`. -/
def smovOpOf : Nat → Option SmovOp
  | 0 => some .copy
  | 1 => some .readFlags
  | 2 => some .writeFlags
  | _ => none

/-- R336. -/
def smoviOpCode : SmoviOp → Nat
  | .sx => 0
  | .zx => 1
  | .hi => 2

/-- R336: the inverse of `smoviOpCode`. -/
def smoviOpOf : Nat → Option SmoviOp
  | 0 => some .sx
  | 1 => some .zx
  | 2 => some .hi
  | _ => none

/-- R254. -/
def sbraOpCode : SbraOp → Nat
  | .always => 0
  | .z => 1
  | .nz => 2

/-- R254: the inverse of `sbraOpCode`. -/
def sbraOpOf : Nat → Option SbraOp
  | 0 => some .always
  | 1 => some .z
  | 2 => some .nz
  | _ => none

/-- R340. -/
def sSizeCode : SSize → Nat
  | .n64 => 0
  | .n32 => 1
  | .i32 => 2

/-- R340: the inverse of `sSizeCode`. -/
def sSizeOf : Nat → Option SSize
  | 0 => some .n64
  | 1 => some .n32
  | 2 => some .i32
  | _ => none

/-- R341. -/
def adefPartCode : AdefPart → Nat
  | .base => 0
  | .stride => 1
  | .ext => 2
  | .idx => 3

/-- R341: the inverse of `adefPartCode`. -/
def adefPartOf : Nat → Option AdefPart
  | 0 => some .base
  | 1 => some .stride
  | 2 => some .ext
  | 3 => some .idx
  | _ => none

/-- R336. -/
def astepOpCode : AstepOp → Nat
  | .addr => 0
  | .done => 1
  | .idx => 2

/-- R336: the inverse of `astepOpCode`. -/
def astepOpOf : Nat → Option AstepOp
  | 0 => some .addr
  | 1 => some .done
  | 2 => some .idx
  | _ => none

/-- R342. -/
def qFormCode : QForm → Nat
  | .line => 0
  | .gather => 1
  | .sline => 2
  | .sgather => 3

/-- R342: the inverse of `qFormCode`. -/
def qFormOf : Nat → Option QForm
  | 0 => some .line
  | 1 => some .gather
  | 2 => some .sline
  | 3 => some .sgather
  | _ => none

/-- R361. -/
def spaceCode : Space → Nat
  | .sp => 0
  | .cp => 1
  | .mem => 2
  | .row => 3

/-- R361: the inverse of `spaceCode`. -/
def spaceOf : Nat → Option Space
  | 0 => some .sp
  | 1 => some .cp
  | 2 => some .mem
  | 3 => some .row
  | _ => none

/-- R361. -/
def drainFmtCode : DrainFmt → Nat
  | .f32 => 0
  | .bf16 => 1
  | .f16 => 2

/-- R361: the inverse of `drainFmtCode`. -/
def drainFmtOf : Nat → Option DrainFmt
  | 0 => some .f32
  | 1 => some .bf16
  | 2 => some .f16
  | _ => none

/-- R361. -/
def rowFmtCode : RowFmt → Nat
  | .f32 => 0
  | .bf16 => 1
  | .e4m3 => 2

/-- R361: the inverse of `rowFmtCode`. -/
def rowFmtOf : Nat → Option RowFmt
  | 0 => some .f32
  | 1 => some .bf16
  | 2 => some .e4m3
  | _ => none

/-- R331, R251: FE codes of FENCE; 0 raises ILLEGAL. -/
def fenceOpCode : FenceOp → Nat
  | .rel => 1
  | .acq => 2
  | .ar => 3

def fenceOpOf : Nat → Option FenceOp
  | 1 => some .rel
  | 2 => some .acq
  | 3 => some .ar
  | _ => none

/-- Why a word is not an instruction of the stream (R259). -/
inductive Reject where
  | unassigned    -- unassigned opcode, or an opcode of the other stream
  | reserved      -- a must-be-zero field is nonzero
  | badValue      -- a type, variant, rounding, size or register value the instruction does not accept
  | notHeader     -- the word is not a valid clause header
  deriving DecidableEq, Repr

/-- What decoding a word gives. -/
abbrev Dec := Except Reject Instr

/-! ### Clause headers -/

/-- R241: the fields of a clause header. -/
structure Header where
  cls : Nat
  count : Nat
  dwait : BitVec 8
  qwait : BitVec 8
  bar : Option Nib
  yieldBit : Bool
  deriving DecidableEq, Repr

/-- R240. -/
def isHeader (w : W64) : Bool := fld w.toNat 60 4 == 0b1010

/-- R241, R243, R259: a header of the stream (`sq` for the sequencer), or the reason it is none. -/
def decodeHeader (sq : Bool) (w : W64) : Except Reject Header :=
  let n := w.toNat
  let cls := fld n 57 3
  if fld n 60 4 != 0b1010 || fld n 0 31 != 0 then .error .notHeader
  else if cls == 7 || (sq != (4 ≤ cls)) then .error .notHeader
  else if fld n 36 1 == 0 && fld n 32 4 != 0 then .error .notHeader
  else if fld n 36 1 == 1 && sq then .error .notHeader
  else .ok
    { cls := cls
      count := fld n 53 4 + 1
      dwait := BitVec.ofNat 8 (fld n 45 8)
      qwait := BitVec.ofNat 8 (fld n 37 8)
      bar := if fld n 36 1 == 1 then some (Fin.ofNat 16 (fld n 32 4)) else none
      yieldBit := fld n 31 1 == 1 }

/-- R241: the word of a header. -/
def encodeHeader (h : Header) : W64 :=
  BitVec.ofNat 64 (0b1010 * 2 ^ 60 + h.cls * 2 ^ 57 + (h.count - 1) * 2 ^ 53 + h.dwait.toNat * 2 ^ 45 +
    h.qwait.toNat * 2 ^ 37 + (match h.bar with | some k => 2 ^ 36 + k.val * 2 ^ 32 | none => 0) +
    (if h.yieldBit then 2 ^ 31 else 0))

/-- R242: the engine class of an opcode in a stream. -/
def opClass (sq : Bool) (opc : Nat) : Option Nat :=
  if sq then
    if opc ∈ [0x300, 0x301, 0x302, 0x303, 0x304, 0x305, 0x306, 0x307, 0x308, 0x309, 0x30A, 0x30B, 0x30E, 0x310, 0x311,
      0x316, 0x317, 0x380, 0x381, 0x387] then some 4
    else if opc ∈ [0x30C, 0x30D, 0x312, 0x313, 0x314, 0x315, 0x320, 0x321, 0x322, 0x323, 0x324, 0x325, 0x326, 0x327,
      0x330, 0x331, 0x332, 0x333, 0x334, 0x20B] then some 5
    else if (0x2C0 ≤ opc ∧ opc ≤ 0x2CD) ∨ (0x2D0 ≤ opc ∧ opc ≤ 0x2D7) then some 6
    else none
  else
    if opc ≤ 0x020 ∨ (0x080 ≤ opc ∧ opc ≤ 0x08E) ∨ (0x100 ≤ opc ∧ opc ≤ 0x102) then some 0
    else if 0x200 ≤ opc ∧ opc ≤ 0x211 then some 1
    else if (0x180 ≤ opc ∧ opc ≤ 0x190) ∨ (0x380 ≤ opc ∧ opc ≤ 0x389) then some 2
    else if 0x0A0 ≤ opc ∧ opc ≤ 0x0A8 then some 3
    else none

/-! ### The formats -/

/-- R247, R248: format A. -/
structure FA where
  (opc neg pred la dst sa sb sc ty rm sat cv ctr var : Nat)
  deriving DecidableEq, Repr

/-- R250: format I. -/
structure FI where
  (opc neg pred la dst imm ty var : Nat)
  deriving DecidableEq, Repr

/-- R251: format M. -/
structure FM where
  (opc neg pred la data base off size req scope ctr fe cv : Nat)
  deriving DecidableEq, Repr

/-- R254: format SR. -/
structure FR where
  (opc grd la sd ssa ssb ssc unit mod cv ctr var : Nat)
  deriving DecidableEq, Repr

/-- R254: format SI. -/
structure FS where
  (opc grd la sd ssa var imm : Nat)
  deriving DecidableEq, Repr

/-- R255: format X. -/
structure FX where
  (opc grd la zd zs da db dc imm8 vw var cv ctr rsv : Nat)
  deriving DecidableEq, Repr

def unpackA (w : Nat) : FA :=
  { opc := fld w 54 10, neg := fld w 53 1, pred := fld w 50 3, la := fld w 46 4, dst := fld w 38 8, sa := fld w 30 8
    sb := fld w 22 8, sc := fld w 14 8, ty := fld w 10 4, rm := fld w 8 2, sat := fld w 7 1, cv := fld w 6 1
    ctr := fld w 3 3, var := fld w 0 3 }

def packA (f : FA) : Nat :=
  f.var + f.ctr * 2 ^ 3 + f.cv * 2 ^ 6 + f.sat * 2 ^ 7 + f.rm * 2 ^ 8 + f.ty * 2 ^ 10 + f.sc * 2 ^ 14 + f.sb * 2 ^ 22 +
    f.sa * 2 ^ 30 + f.dst * 2 ^ 38 + f.la * 2 ^ 46 + f.pred * 2 ^ 50 + f.neg * 2 ^ 53 + f.opc * 2 ^ 54

def unpackI (w : Nat) : FI :=
  { opc := fld w 54 10, neg := fld w 53 1, pred := fld w 50 3, la := fld w 46 4, dst := fld w 38 8, imm := fld w 6 32
    ty := fld w 2 4, var := fld w 0 2 }

def packI (f : FI) : Nat :=
  f.var + f.ty * 2 ^ 2 + f.imm * 2 ^ 6 + f.dst * 2 ^ 38 + f.la * 2 ^ 46 + f.pred * 2 ^ 50 + f.neg * 2 ^ 53 + f.opc * 2 ^ 54

def unpackM (w : Nat) : FM :=
  { opc := fld w 54 10, neg := fld w 53 1, pred := fld w 50 3, la := fld w 46 4, data := fld w 38 8, base := fld w 30 8
    off := fld w 14 16, size := fld w 11 3, req := fld w 9 2, scope := fld w 6 3, ctr := fld w 3 3, fe := fld w 1 2
    cv := fld w 0 1 }

def packM (f : FM) : Nat :=
  f.cv + f.fe * 2 + f.ctr * 2 ^ 3 + f.scope * 2 ^ 6 + f.req * 2 ^ 9 + f.size * 2 ^ 11 + f.off * 2 ^ 14 +
    f.base * 2 ^ 30 + f.data * 2 ^ 38 + f.la * 2 ^ 46 + f.pred * 2 ^ 50 + f.neg * 2 ^ 53 + f.opc * 2 ^ 54

def unpackR (w : Nat) : FR :=
  { opc := fld w 54 10, grd := fld w 50 4, la := fld w 46 4, sd := fld w 40 6, ssa := fld w 34 6, ssb := fld w 28 6
    ssc := fld w 22 6, unit := fld w 18 4, mod := fld w 7 11, cv := fld w 6 1, ctr := fld w 3 3, var := fld w 0 3 }

def packR (f : FR) : Nat :=
  f.var + f.ctr * 2 ^ 3 + f.cv * 2 ^ 6 + f.mod * 2 ^ 7 + f.unit * 2 ^ 18 + f.ssc * 2 ^ 22 + f.ssb * 2 ^ 28 +
    f.ssa * 2 ^ 34 + f.sd * 2 ^ 40 + f.la * 2 ^ 46 + f.grd * 2 ^ 50 + f.opc * 2 ^ 54

def unpackS (w : Nat) : FS :=
  { opc := fld w 54 10, grd := fld w 50 4, la := fld w 46 4, sd := fld w 40 6, ssa := fld w 34 6, var := fld w 32 2
    imm := fld w 0 32 }

def packS (f : FS) : Nat :=
  f.imm + f.var * 2 ^ 32 + f.ssa * 2 ^ 34 + f.sd * 2 ^ 40 + f.la * 2 ^ 46 + f.grd * 2 ^ 50 + f.opc * 2 ^ 54

def unpackX (w : Nat) : FX :=
  { opc := fld w 54 10, grd := fld w 50 4, la := fld w 46 4, zd := fld w 43 3, zs := fld w 40 3, da := fld w 34 6
    db := fld w 28 6, dc := fld w 22 6, imm8 := fld w 14 8, vw := fld w 9 5, var := fld w 7 2, cv := fld w 6 1
    ctr := fld w 3 3, rsv := fld w 0 3 }

def packX (f : FX) : Nat :=
  f.rsv + f.ctr * 2 ^ 3 + f.cv * 2 ^ 6 + f.var * 2 ^ 7 + f.vw * 2 ^ 9 + f.imm8 * 2 ^ 14 + f.dc * 2 ^ 22 + f.db * 2 ^ 28 +
    f.da * 2 ^ 34 + f.zs * 2 ^ 40 + f.zd * 2 ^ 43 + f.la * 2 ^ 46 + f.grd * 2 ^ 50 + f.opc * 2 ^ 54

/-! ### Pieces of the decoder -/

/-- R259: every listed field must be zero. -/
def zero (xs : List Nat) (k : Dec) : Dec := if xs.all (· == 0) then k else .error .reserved

/-- A coded field with a value the instruction accepts. -/
def code {α : Type} (x : Option α) (k : α → Dec) : Dec :=
  match x with
  | some a => k a
  | none => .error .badValue

/-- A field that must not exceed a bound. -/
def atMost (n b : Nat) (k : Dec) : Dec := if n ≤ b then k else .error .badValue

/-- R248: CTR is zero when CV is zero. -/
def lat (la cv ctr : Nat) (k : Lat → Dec) : Dec :=
  if cv == 0 then (if ctr == 0 then k ⟨Fin.ofNat 16 la, none⟩ else .error .reserved)
  else k ⟨Fin.ofNat 16 la, some (Fin.ofNat 8 ctr)⟩

/-- R298: a mask field: bits [3:0] below 12, the other bits zero. -/
def maskFld (n : Nat) (k : MReg → Dec) : Dec :=
  if n < 16 then (if h : n < 12 then k ⟨n, h⟩ else .error .badValue) else .error .reserved

/-- R298, R271: a predicate field: bits [2:0], the other bits zero. -/
def predFld (n : Nat) (k : PReg → Dec) : Dec := if h : n < 8 then k ⟨n, h⟩ else .error .reserved

/-- R254, R344: a field that names a queue. -/
def queueFld (n : Nat) (k : QReg → Dec) : Dec := if h : n < 8 then k ⟨n, h⟩ else .error .reserved

def vr (n : Nat) : VReg := Fin.ofNat 256 n
def sr (n : Nat) : SReg := Fin.ofNat 64 n
def b1 (n : Nat) : Bool := n == 1

def FA.g (f : FA) : Guard := ⟨b1 f.neg, Fin.ofNat 8 f.pred⟩
def FI.g (f : FI) : Guard := ⟨b1 f.neg, Fin.ofNat 8 f.pred⟩
def FM.g (f : FM) : Guard := ⟨b1 f.neg, Fin.ofNat 8 f.pred⟩

/-- R144: LA, CV and CTR are zero on a short-latency instruction of format A. -/
def FA.short (f : FA) : List Nat := [f.la, f.cv, f.ctr]

/-- R262: the encodings of the integer, bit and conversion instructions in format A. -/
def decodeInt (f : FA) : Dec :=
  let g := f.g; let d := vr f.dst; let a := vr f.sa; let b := vr f.sb; let c := vr f.sc
  let short := f.short ++ [f.rm]
  let ty := code (tyOf f.ty)
  match f.opc with
  | 0x000 => zero (short ++ [f.sc, f.var]) <| ty fun t => .ok (.iadd g t (b1 f.sat) d a b)
  | 0x001 => zero (short ++ [f.sc, f.var]) <| ty fun t => .ok (.isub g t (b1 f.sat) d a b)
  | 0x002 => zero (short ++ [f.sat, f.sc / 128]) <| atMost f.var 1 <| ty fun t =>
      if t != .n32 then .error .badValue
      else if f.sc / 64 % 2 == 0 then
        zero [f.sc / 8 % 8] <| .ok (.iaddc g (b1 f.var) none (Fin.ofNat 8 f.sc) d a b)
      else .ok (.iaddc g (b1 f.var) (some (Fin.ofNat 8 (f.sc / 8))) (Fin.ofNat 8 f.sc) d a b)
  | 0x003 => zero (short ++ [f.sat, f.sc, f.var]) <| ty fun t => .ok (.imul g t d a b)
  | 0x004 => zero (short ++ [f.sat, f.sc, f.var]) <| ty fun t => .ok (.imulh g t d a b)
  | 0x005 => zero (short ++ [f.sat, f.var]) <| ty fun t => .ok (.imad g t d a b c)
  | 0x006 => zero (short ++ [f.sat, f.var]) <| ty fun t => .ok (.imadw g t d a b c)
  | 0x007 => zero (short ++ [f.sat, f.sc, f.var]) <| ty fun t => .ok (.imin g t d a b)
  | 0x008 => zero (short ++ [f.sat, f.sc, f.var]) <| ty fun t => .ok (.imax g t d a b)
  | 0x009 => zero (short ++ [f.sb, f.sc, f.var]) <| ty fun t => .ok (.iabs g t (b1 f.sat) d a)
  | 0x00A => zero (short ++ [f.sb, f.sc, f.var]) <| ty fun t => .ok (.ineg g t (b1 f.sat) d a)
  | 0x00B => zero (short ++ [f.sat, f.sc, f.var]) <| ty fun t => .ok (.and g t d a b)
  | 0x00C => zero (short ++ [f.sat, f.sc, f.var]) <| ty fun t => .ok (.or g t d a b)
  | 0x00D => zero (short ++ [f.sat, f.sc, f.var]) <| ty fun t => .ok (.xor g t d a b)
  | 0x00E => zero (short ++ [f.sat, f.sb, f.sc, f.var]) <| ty fun t => .ok (.not g t d a)
  | 0x00F => zero (short ++ [f.sat, f.var]) <| ty fun t =>
      if t == .x32 then .ok (.lop3 g (BitVec.ofNat 8 f.sc) d a b) else .error .badValue
  | 0x010 => zero (short ++ [f.sat, f.sc, f.var]) <| ty fun t => .ok (.shl g t d a b)
  | 0x011 => zero (short ++ [f.sat, f.sc, f.var]) <| ty fun t => .ok (.shr g t d a b)
  | 0x012 => zero (short ++ [f.sat, f.sc, f.var]) <| ty fun t => .ok (.sar g t d a b)
  | 0x013 => zero (short ++ [f.sat]) <| atMost f.var 1 <| ty fun t =>
      if t == .x32 then .ok (.fshl g (b1 f.var) d a b c) else .error .badValue
  | 0x014 => zero (short ++ [f.sat]) <| atMost f.var 1 <| ty fun t =>
      if t == .x32 then .ok (.fshr g (b1 f.var) d a b c) else .error .badValue
  | 0x015 => zero (short ++ [f.sat, f.sc, f.var]) <| ty fun t => .ok (.bfe g t d a b)
  | 0x016 => zero (short ++ [f.sat, f.var]) <| ty fun t => .ok (.bfi g t d a b c)
  | 0x017 => zero (short ++ [f.sat, f.sb, f.sc, f.var]) <| ty fun t => .ok (.popc g t d a)
  | 0x018 => zero (short ++ [f.sat, f.sb, f.sc, f.var]) <| ty fun t => .ok (.clz g t d a)
  | 0x019 => zero (short ++ [f.sat, f.sb, f.sc, f.var]) <| ty fun t => .ok (.brev g t d a)
  | 0x01A => zero (short ++ [f.sat, f.sc]) <| ty fun t => code (iCondOf f.var) fun cc => predFld f.dst fun p =>
      .ok (.icmp g cc t p a b)
  | 0x01B => zero (short ++ [f.sat, f.var]) <| ty fun t => predFld f.sc fun p => .ok (.sel g t d a b p)
  | 0x01C => zero (short ++ [f.sat, f.sb, f.sc, f.var]) <| ty fun t => .ok (.mov g t d a)
  | 0x01E => zero (short ++ [f.sat, f.var, f.sc / 32]) <| ty fun t => .ok (.lea g t d a b (Fin.ofNat 32 f.sc))
  | 0x01F => zero (short ++ [f.sat, f.sb, f.sc, f.var]) <| ty fun t =>
      if t == .x32 then .ok (.vrd g d a) else .error .badValue
  | 0x020 => zero (short ++ [f.sat, f.dst, f.sc, f.var]) <| ty fun t =>
      if t == .x32 then .ok (.vwr g a b) else .error .badValue
  | 0x100 => zero [f.sb, f.sc / 16, f.var] <| ty fun t => code (tyOf (f.sc % 16)) fun s => code (rmOf f.rm) fun rm =>
      lat f.la f.cv f.ctr fun l => .ok (.cvt g l t s rm (b1 f.sat) d a)
  | 0x101 => zero [f.sc / 16] <| atMost f.var 1 <| ty fun t => code (tyOf (f.sc % 16)) fun s => code (rmOf f.rm) fun rm =>
      lat f.la f.cv f.ctr fun l => .ok (.pack g l t s rm (b1 f.sat) (b1 f.var) d a b)
  | 0x102 => zero [f.sb, f.sc / 16, f.rm, f.sat] <| atMost f.var 3 <| ty fun t => code (tyOf (f.sc % 16)) fun s =>
      lat f.la f.cv f.ctr fun l => .ok (.unpack g l t s (Fin.ofNat 4 f.var) d a)
  | _ => .error .unassigned

/-- R281: the encodings of the floating-point and special-function instructions. -/
def decodeFp (f : FA) : Dec :=
  let g := f.g; let d := vr f.dst; let a := vr f.sa; let b := vr f.sb; let c := vr f.sc
  let ty := code (tyOf f.ty)
  let rm := code (rmOf f.rm)
  let is (t u : Ty) (k : Dec) : Dec := if t == u then k else .error .badValue
  let sfu (mk : Lat → Rm → Instr) : Dec :=
    zero [f.sb, f.sc, f.sat, f.var] <| ty fun t => is t .f32 <| rm fun r => lat f.la f.cv f.ctr fun l => .ok (mk l r)
  match f.opc with
  | 0x080 => zero (f.short ++ [f.sc, f.var, f.sat]) <| ty fun t => is t .f32 <| rm fun r => .ok (.fadd g r d a b)
  | 0x081 => zero (f.short ++ [f.sc, f.var, f.sat]) <| ty fun t => is t .f32 <| rm fun r => .ok (.fsub g r d a b)
  | 0x082 => zero (f.short ++ [f.sc, f.var, f.sat]) <| ty fun t => is t .f32 <| rm fun r => .ok (.fmul g r d a b)
  | 0x083 => zero (f.short ++ [f.var, f.sat]) <| ty fun t => is t .f32 <| rm fun r => .ok (.ffma g r d a b c)
  | 0x084 => zero (f.short ++ [f.sc, f.rm, f.sat]) <| atMost f.var 1 <| ty fun t => is t .f32 <|
      .ok (.fmin g (b1 f.var) d a b)
  | 0x085 => zero (f.short ++ [f.sc, f.rm, f.sat]) <| atMost f.var 1 <| ty fun t => is t .f32 <|
      .ok (.fmax g (b1 f.var) d a b)
  | 0x086 => zero (f.short ++ [f.sc, f.rm, f.sat]) <| ty fun t => is t .f32 <| code (fCondOf f.var) fun cc =>
      predFld f.dst fun p => .ok (.fcmp g cc p a b)
  | 0x087 => zero (f.short ++ [f.sb, f.sc, f.var, f.rm, f.sat]) <| ty fun t => .ok (.fclass g t d a)
  | 0x088 => zero (f.short ++ [f.sb, f.sc, f.var, f.sat]) <| ty fun t => is t .f32 <| rm fun r => .ok (.frnd g r d a)
  | 0x089 => zero (f.short ++ [f.sc, f.var, f.sat]) <| ty fun t => is t .f32 <| rm fun r => .ok (.fscale g r d a b)
  | 0x08A => zero (f.short ++ [f.sc, f.var]) <| ty fun t => rm fun r => .ok (.hadd2 g t r (b1 f.sat) d a b)
  | 0x08B => zero (f.short ++ [f.sc, f.var]) <| ty fun t => rm fun r => .ok (.hmul2 g t r (b1 f.sat) d a b)
  | 0x08C => zero (f.short ++ [f.var]) <| ty fun t => rm fun r => .ok (.hfma2 g t r (b1 f.sat) d a b c)
  | 0x08D => zero (f.short ++ [f.sc, f.var, f.sat]) <| ty fun t => is t .cf32 <| rm fun r => .ok (.cmul g r d a b)
  | 0x08E => zero (f.short ++ [f.var, f.sat]) <| ty fun t => is t .cf32 <| rm fun r => .ok (.cfma g r d a b c)
  | 0x0A0 => sfu fun l r => .rcp g l r d a
  | 0x0A1 => sfu fun l r => .rsq g l r d a
  | 0x0A2 => sfu fun l r => .sqrt g l r d a
  | 0x0A3 => sfu fun l r => .exp2 g l r d a
  | 0x0A4 => sfu fun l r => .log2 g l r d a
  | 0x0A5 => sfu fun l r => .sinpi g l r d a
  | 0x0A6 => sfu fun l r => .cospi g l r d a
  | 0x0A7 => sfu fun l r => .sincospi g l r d a
  | 0x0A8 => sfu fun l r => .tanh g l r d a
  | _ => .error .unassigned

/-- R299, R344: the encodings of the control instructions, POPQ and PUSHQ in format A. -/
def decodeCtl (f : FA) : Dec :=
  let g := f.g; let d := vr f.dst; let a := vr f.sa; let b := vr f.sb
  let tail := [f.ty, f.rm, f.sat]
  let plain (i : Instr) : Dec := zero (f.short ++ tail ++ [f.dst, f.sa, f.sb, f.sc, f.var]) <| .ok i
  let long := lat f.la f.cv f.ctr
  match f.opc with
  | 0x181 => zero (f.short ++ tail ++ [f.dst, f.sb, f.sc, f.var]) <| .ok (.brx g a)
  | 0x183 => zero (f.short ++ tail ++ [f.dst, f.sb, f.sc, f.var]) <| .ok (.ret g a)
  | 0x184 => plain (.exit g)
  | 0x185 => zero (f.short ++ tail ++ [f.dst, f.sb, f.sc, f.var]) <| maskFld f.sa fun m => .ok (.join g m)
  | 0x186 => zero (f.short ++ tail ++ [f.dst, f.sb, f.sc, f.var]) <| maskFld f.sa fun m => .ok (.leave g m)
  | 0x187 => zero (f.short ++ tail ++ [f.dst, f.sb, f.sc]) <| atMost f.var 1 <| maskFld f.sa fun m =>
      .ok (.waitm g m (b1 f.var))
  | 0x188 => zero (f.short ++ tail ++ [f.sb, f.sc, f.var]) <| maskFld f.dst fun m => .ok (.mset g m a)
  | 0x189 => zero (f.short ++ tail ++ [f.sc]) <| code (mopOpOf f.var) fun o => maskFld f.dst fun m =>
      maskFld f.sa fun ma => maskFld f.sb fun mb => .ok (.mop g o m ma mb)
  | 0x18A => zero (f.short ++ tail ++ [f.sb, f.sc, f.var]) <| maskFld f.sa fun m => .ok (.mget g d m)
  | 0x18B => zero (tail ++ [f.sb, f.sc]) <| atMost f.var 1 <| predFld f.sa fun p => long fun l =>
      .ok (.ballot g l (b1 f.var) d p)
  | 0x18C => zero (tail ++ [f.sb, f.sc]) <| code (voteOpOf f.var) fun o => predFld f.dst fun pd =>
      predFld f.sa fun ps => long fun l => .ok (.vote g l o pd ps)
  | 0x18D => zero [f.rm, f.sat, f.sb, f.sc, f.var] <| code (tyOf f.ty) fun t => long fun l => .ok (.matchLanes g l t d a)
  | 0x18E => zero [f.rm, f.sat, f.sc / 8] <| code (shflOpOf f.var) fun o => code (tyOf f.ty) fun t =>
      if t != .x32 then .error .badValue
      else if h : f.sc < 6 then long fun l => .ok (.shfl g l o ⟨f.sc, h⟩ d a b) else .error .badValue
  | 0x18F => zero [f.sat, f.sb, f.sc] <| code (redOpOf f.var) fun o => code (tyOf f.ty) fun t => code (rmOf f.rm) fun r =>
      long fun l => .ok (.redux g l o t r d a)
  | 0x190 => zero [f.sat, f.sb, f.sc / 2] <| code (redOpOf f.var) fun o => code (tyOf f.ty) fun t =>
      code (rmOf f.rm) fun r => long fun l => .ok (.scan g l o t (b1 f.sc) r d a)
  | 0x210 => zero (tail ++ [f.sb, f.sc, f.var]) <| queueFld f.sa fun q => long fun l => .ok (.popq g l d q)
  | 0x211 => zero (tail ++ [f.dst, f.sc, f.var]) <| queueFld f.sb fun q => long fun l => .ok (.pushq g l q a)
  | 0x381 => plain (.tret g)
  | 0x382 => plain (.bkpt g)
  | 0x383 => zero (f.short ++ tail ++ [f.sb, f.sc, f.var]) <| code (specRegOf f.sa) fun r => .ok (.srd g r d)
  | 0x384 => zero (f.short ++ tail ++ [f.dst, f.sc, f.var]) <| code (specRegOf f.sa) fun r => .ok (.swr g r b)
  | 0x385 => plain (.nop g)
  | 0x386 => plain (.yield g)
  | 0x387 => plain (.pdone g)
  | 0x389 => zero (f.short ++ tail ++ [f.dst, f.sb, f.sc]) <| atMost f.var 1 <| .ok (.icinv g (b1 f.var) a)
  | _ => .error .unassigned

/-- R250: format I. -/
def decodeI (f : FI) : Dec :=
  let g := f.g
  let imm := BitVec.ofNat 32 f.imm
  match f.opc with
  | 0x01D => zero [f.la, f.var] <| code (tyOf f.ty) fun t => .ok (.movi g t (vr f.dst) imm)
  | 0x180 => zero [f.la, f.dst, f.ty, f.var] <| .ok (.bra g imm)
  | 0x182 => zero [f.la, f.ty, f.var] <| .ok (.call g (vr f.dst) imm)
  | 0x380 => zero [f.la, f.dst, f.ty, f.var] <| .ok (.trap g imm)
  | 0x388 => zero [f.la, f.dst, f.ty, f.var, f.imm / 2] <| .ok (.fetchb g (b1 f.imm))
  | _ => .error .unassigned

/-- R252: the atomic word of ATOM, ATOMS and RED in OFF: OPB, AOP and three reserved bits. -/
def atomic (f : FM) (k : Aop → VReg → Dec) : Dec :=
  zero [f.off % 8] <| code (aopOf (f.off / 8 % 32)) fun o => k o (vr (f.off / 256))

/-- R251, R317: format M. -/
def decodeM (f : FM) : Dec :=
  let g := f.g; let d := vr f.data; let a := vr f.base
  let off := BitVec.ofNat 16 f.off
  let long := lat f.la f.cv f.ctr
  let scp := code (scopeOf f.scope)
  let fixed (r s : Nat) (k : Dec) : Dec := if f.req == r && f.scope == s then k else .error .badValue
  let spad (sc : Nat) (mk : Lat → Size → Fe → Instr) : Dec :=
    fixed 0 sc <| code (szOf f.size) fun sz => code (feOf f.fe) fun fe => long fun l => .ok (mk l sz fe)
  match f.opc with
  | 0x200 => code (szOf f.size) fun sz => code (reqTyOf f.req) fun rt => scp fun sc => code (feOf f.fe) fun fe =>
      long fun l => .ok (.ld g l sz rt sc fe d a off)
  | 0x201 => code (szOf f.size) fun sz => code (reqTyOf f.req) fun rt => scp fun sc => code (feOf f.fe) fun fe =>
      long fun l => .ok (.st g l sz rt sc fe d a off)
  | 0x202 => spad 1 fun l sz fe => .lds g l sz fe d a off
  | 0x203 => spad 1 fun l sz fe => .sts g l sz fe d a off
  | 0x204 => spad 2 fun l sz fe => .ldc g l sz fe d a off
  | 0x205 => spad 2 fun l sz fe => .stc g l sz fe d a off
  | 0x206 => spad 2 fun l sz fe => .ldp g l sz fe d a off
  | 0x207 => spad 2 fun l sz fe => .stp g l sz fe d a off
  | 0x208 => zero [f.fe] <| (if f.req == 3 then atomic f else fun _ => .error .badValue) fun o b =>
      code (szOf f.size) fun sz => scp fun sc => long fun l => .ok (.atom g l o sz sc d a b)
  | 0x209 => zero [f.fe] <| fixed 0 1 <| atomic f fun o b => code (szOf f.size) fun sz => long fun l =>
      .ok (.atoms g l o sz d a b)
  | 0x20A => zero [f.fe, f.data] <| (if f.req == 3 then atomic f else fun _ => .error .badValue) fun o b =>
      code (szOf f.size) fun sz => scp fun sc => long fun l => .ok (.red g l o sz sc a b)
  | 0x20B => zero [f.la, f.cv, f.ctr, f.data, f.base, f.off, f.size, f.req] <| code (fenceOpOf f.fe) fun o => scp fun sc =>
      .ok (.fence g o sc)
  | 0x20C => zero [f.data, f.req, f.fe] <| code (cctlOpOf f.size) fun o => scp fun sc => long fun l =>
      .ok (.cctl g l o sc a off)
  | 0x20D => zero [f.data, f.fe] <| atMost f.size 1 <| code (reqTyOf f.req) fun rt => scp fun sc => long fun l =>
      .ok (.pref g l (b1 f.size) rt sc a off)
  | 0x20E => zero [f.fe] <| fixed 2 1 <| (if f.size == 4 then long else fun _ => .error .badValue) fun l =>
      .ok (.ldPriv g l d a off)
  | 0x20F => zero [f.fe] <| fixed 2 1 <| (if f.size == 4 then long else fun _ => .error .badValue) fun l =>
      .ok (.stPriv g l d a off)
  | _ => .error .unassigned

/-- R254, R336: format SR. -/
def decodeR (f : FR) : Dec :=
  let d := sr f.sd; let a := sr f.ssa; let b := sr f.ssb; let c := sr f.ssc
  let n := Fin.ofNat 16 f.unit
  let sc3 := f.mod % 8
  let hi6 : Fin 64 := Fin.ofNat 64 (f.mod / 32)
  let short := [f.la, f.cv, f.ctr]
  let long := lat f.la f.cv f.ctr
  let arith (vmax : Nat) (mk : SOpd → Instr) : Dec :=
    zero (short ++ [f.ssc]) <| atMost f.var vmax <|
      if f.var % 2 == 1 then zero [f.ssb] <| .ok (mk (.imm (BitVec.ofNat 11 f.mod)))
      else zero [f.mod] <| .ok (mk (.reg b))
  let bin (mk : SOpd → Instr) : Dec := zero [f.unit] <| arith 1 mk
  let route (mk : Lat → Instr) : Dec := zero [f.ssc, f.unit, f.mod / 64] <| long fun l => .ok (mk l)
  match f.opc with
  | 0x300 => zero (short ++ [f.ssb, f.ssc, f.unit, f.mod]) <| code (smovOpOf f.var) fun o => .ok (.smov o d a)
  | 0x302 => bin fun x => .sadd d a x
  | 0x303 => bin fun x => .ssub d a x
  | 0x304 => bin fun x => .smul d a x
  | 0x305 => bin fun x => .sand d a x
  | 0x306 => bin fun x => .sor d a x
  | 0x307 => bin fun x => .sxor d a x
  | 0x308 => bin fun x => .sshl d a x
  | 0x309 => zero [f.unit] <| arith 3 fun x => .sshr (2 ≤ f.var) d a x
  | 0x30A => code (sCondOf f.unit) fun cc => arith 1 fun x => .scmp cc d a x
  | 0x30C => zero [f.ssb, f.ssc, f.unit / 4] <| code (reqTyOf (f.unit % 4)) fun rt => code (scopeOf sc3) fun sc =>
      code (sSizeOf f.var) fun sz => long fun l => .ok (.sld l sz rt sc d a (BitVec.ofNat 8 (f.mod / 8)))
  | 0x30D => zero [f.sd, f.ssc, f.unit / 4] <| code (reqTyOf (f.unit % 4)) fun rt => code (scopeOf sc3) fun sc =>
      code (sSizeOf f.var) fun sz => long fun l => .ok (.sst l sz rt sc a b (BitVec.ofNat 8 (f.mod / 8)))
  | 0x30E => zero (short ++ [f.sd, f.ssa, f.ssb, f.ssc, f.unit, f.mod, f.var]) <| .ok .sexit
  | 0x310 => zero (short ++ [f.sd, f.ssc, f.mod]) <| code (adefPartOf f.var) fun p => .ok (.adef p n a b)
  | 0x311 => zero (short ++ [f.ssa, f.ssb, f.ssc]) <| code (astepOpOf f.var) fun o =>
      .ok (.astep o n d (BitVec.ofNat 11 f.mod))
  | 0x312 => zero [f.sd, f.ssb, f.ssc, f.ssa / 16] <| queueFld f.unit fun q => code (qFormOf (f.var % 4)) fun fm =>
      code (reqTyOf (f.mod / 8 % 4)) fun rt => code (scopeOf sc3) fun sc => long fun l =>
      .ok (.ldq l fm (4 ≤ f.var) rt sc q (Fin.ofNat 16 f.ssa) hi6)
  | 0x313 => zero [f.sd, f.ssb, f.ssc, f.ssa / 16] <| queueFld f.unit fun q => code (qFormOf (f.var % 4)) fun fm =>
      code (reqTyOf (f.mod / 8 % 4)) fun rt => code (scopeOf sc3) fun sc => long fun l =>
      .ok (.stq l fm (4 ≤ f.var) rt sc q (Fin.ofNat 16 f.ssa) hi6)
  | 0x314 => zero [f.sd, f.ssc, f.mod % 32] <| queueFld f.unit fun q => atMost f.var 1 <| long fun l =>
      .ok (.qpush l (b1 f.var) q a b hi6)
  | 0x315 => zero [f.ssa, f.ssb, f.ssc, f.var, f.mod / 16 % 2] <| queueFld f.unit fun q => long fun l =>
      .ok (.qpop l d q hi6 (Fin.ofNat 16 f.mod))
  | 0x316 => zero (short ++ [f.sd, f.ssb, f.ssc, f.mod]) <| atMost f.var 1 <| .ok (.bara (b1 f.var) n a)
  | 0x317 => zero (short ++ [f.sd, f.ssa, f.ssb, f.ssc, f.mod, f.var]) <| .ok (.barw n)
  | 0x320 => zero [f.sd, f.ssb, f.ssc, f.mod, f.var] <| long fun l => .ok (.chain l a n)
  | 0x321 => zero [f.ssa, f.ssb, f.ssc, f.mod] <| atMost f.var 1 <| long fun l => .ok (.cwait l (b1 f.var) d n)
  | 0x322 => zero [f.sd, f.ssb, f.ssc, f.mod, f.var, f.unit / 4] <| long fun l => .ok (.coll l a (Fin.ofNat 4 f.unit))
  | 0x323 => zero [f.ssa, f.ssb, f.ssc, f.mod, f.var, f.unit / 4] <| long fun l => .ok (.ctwait l d (Fin.ofNat 4 f.unit))
  | 0x324 => zero [f.unit, f.mod] <| atMost f.var 1 <| long fun l => .ok (.redc l (b1 f.var) d a b c)
  | 0x325 => zero [f.ssb, f.ssc, f.unit, f.mod, f.var] <| long fun l => .ok (.launch l d a)
  | 0x326 => zero [f.var, f.mod % 32] <| queueFld f.unit fun q => long fun l => .ok (.rqpush l d a b c q hi6)
  | 0x327 => zero [f.ssb, f.ssc, f.unit, f.mod] <| atMost f.var 1 <| long fun l => .ok (.rqpop l (b1 f.var) d a)
  | 0x330 => atMost f.var 3 <| route fun l => .announce l (b1 (f.var % 2)) (b1 (f.var / 2)) d a b (Fin.ofNat 64 f.mod)
  | 0x331 => zero [f.var] <| route fun l => .withdraw l d a b (Fin.ofNat 64 f.mod)
  | 0x332 => zero [f.var] <| route fun l => .replicate l d a b (Fin.ofNat 64 f.mod)
  | 0x333 => zero [f.var] <| route fun l => .migrate l d a b (Fin.ofNat 64 f.mod)
  | 0x334 => zero [f.ssb, f.ssc, f.unit, f.mod / 8, f.var] <| code (scopeOf sc3) fun sc => long fun l =>
      .ok (.rfence l sc d a)
  | 0x20B => zero [f.sd, f.ssa, f.ssb, f.ssc, f.unit, f.mod / 8] <| code (fenceOpOf f.var) fun o =>
      code (scopeOf sc3) fun sc => long fun l => .ok (.fenceSequencer l o sc)
  | 0x381 => zero (short ++ [f.sd, f.ssa, f.ssb, f.ssc, f.unit, f.mod, f.var]) <| .ok .tretSequencer
  | 0x387 => zero (short ++ [f.sd, f.ssa, f.ssb, f.ssc, f.unit, f.mod, f.var]) <| .ok .pdoneSequencer
  | _ => .error .unassigned

/-- R254, R336: format SI. -/
def decodeS (f : FS) : Dec :=
  let imm := BitVec.ofNat 32 f.imm
  match f.opc with
  | 0x301 => zero [f.la, f.ssa] <| code (smoviOpOf f.var) fun o => .ok (.smovi o (sr f.sd) imm)
  | 0x30B => zero [f.la, f.sd] <| code (sbraOpOf f.var) fun o => .ok (.sbra o (sr f.ssa) imm)
  | 0x380 => zero [f.la, f.sd, f.ssa, f.var] <| .ok (.trapSequencer imm)
  | _ => .error .unassigned

/-- R255, R361: format X. -/
def decodeX (f : FX) : Dec :=
  let z : ZReg := Fin.ofNat 8 f.zd
  let a := sr f.da; let b := sr f.db; let c := sr f.dc
  let st := sr f.imm8
  let long (k : Lat → Dec) : Dec := zero [f.rsv] <| lat f.la f.cv f.ctr k
  let scp := code (scopeOf f.zs)
  let mma (mk : Lat → Bool → Instr) : Dec :=
    zero [f.zs, f.dc, f.imm8, f.vw] <| atMost f.var 1 <| long fun l => .ok (mk l (b1 f.var))
  let mmas (mk : Lat → Bool → BitVec 8 → Fin 32 → Instr) : Dec :=
    zero [f.zs, f.dc] <| atMost f.var 1 <| long fun l => .ok (mk l (b1 f.var) (BitVec.ofNat 8 f.imm8) (Fin.ofNat 32 f.vw))
  let tile (mk : Lat → Space → ReqTy → Scope → Instr) : Dec :=
    zero [f.dc, f.vw, f.var, f.imm8 / 16] <| code (spaceOf (f.imm8 % 4)) fun s => code (reqTyOf (f.imm8 / 4 % 4)) fun rt =>
      scp fun sc => long fun l => .ok (mk l s rt sc)
  match f.opc with
  | 0x2C0 => zero [f.zd / 4, f.dc, f.imm8 / 16, f.vw, f.var] <| code (reqTyOf (f.zd % 4)) fun rt => scp fun sc => long fun l =>
      .ok (.tfetch l rt sc (Fin.ofNat 16 f.imm8) a b)
  | 0x2C1 => zero [f.zd, f.zs, f.da, f.db, f.dc, f.imm8 / 16, f.vw] <| atMost f.var 1 <| long fun l =>
      .ok (.trel l (b1 f.var) (Fin.ofNat 16 f.imm8))
  | 0x2C2 => mma fun l zz => .mmaBf16 l zz z a b
  | 0x2C3 => mma fun l zz => .mmaF16 l zz z a b
  | 0x2C4 => mma fun l zz => .mmaF32 l zz z a b
  | 0x2C5 => mma fun l zz => .mmacCf32 l zz z a b
  | 0x2C6 => mmas fun l zz s w => .mmasE4m3E4m3 l zz z a b s w
  | 0x2C7 => mmas fun l zz s w => .mmasE4m3E5m2 l zz z a b s w
  | 0x2C8 => mmas fun l zz s w => .mmasE5m2E4m3 l zz z a b s w
  | 0x2C9 => mmas fun l zz s w => .mmasE5m2E5m2 l zz z a b s w
  | 0x2CA => zero [f.zs, f.da, f.db, f.dc, f.imm8, f.vw, f.var] <| long fun l => .ok (.zclr l z)
  | 0x2CB => tile fun l s rt sc => .zld l s rt sc z a b
  | 0x2CC => tile fun l s rt sc => .zst l s rt sc z a b
  | 0x2CD => zero [f.vw] <| atMost f.var 1 <| code (spaceOf (f.imm8 % 4)) fun s => code (drainFmtOf (f.imm8 / 4 % 4)) fun fm =>
      code (reqTyOf (f.imm8 / 16 % 4)) fun rt => scp fun sc => long fun l =>
      .ok (.zdrain l { space := s, add := b1 f.var, fmt := fm, req := rt, clr := b1 (f.imm8 / 64 % 2)
                       rel := b1 (f.imm8 / 128), scope := sc } z a b c)
  | 0x2D0 => zero [f.zd, f.zs, f.db, f.imm8 / 64, f.vw] <| atMost f.var 1 <| long fun l => .ok (.saalloc l (b1 f.var) st c a)
  | 0x2D1 => zero [f.zd, f.zs, f.db, f.dc, f.imm8 / 64, f.vw] <| atMost f.var 1 <| long fun l => .ok (.safree l (b1 f.var) st a)
  | 0x2D2 => zero [f.vw, f.var, f.imm8 / 64 % 2] <| code (rowFmtOf (f.zd % 4)) fun fm => scp fun sc => long fun l =>
      .ok (.saadd l fm (4 ≤ f.zd) (128 ≤ f.imm8) sc st a b c)
  | 0x2D3 => zero [f.vw, f.imm8 / 64 % 2] <| atMost f.var 1 <| code (rowFmtOf (f.zd % 4)) fun fm => scp fun sc => long fun l =>
      .ok (.saread l (b1 f.var) fm (4 ≤ f.zd) (128 ≤ f.imm8) sc st a b c)
  | 0x2D4 => zero [f.zd, f.zs, f.imm8, f.vw, f.var] <| long fun l => .ok (.sawait l c a b)
  | 0x2D5 => zero [f.zd, f.zs, f.imm8, f.vw, f.var] <| long fun l => .ok (.saseal l c a b)
  | 0x2D6 => zero [f.zd, f.zs, f.imm8 / 64, f.vw] <| atMost f.var 1 <| long fun l => .ok (.saevict l (b1 f.var) st a b c)
  | 0x2D7 => zero [f.zd, f.zs, f.imm8 / 64, f.vw, f.var] <| long fun l => .ok (.saload l st a b c)
  | _ => .error .unassigned

/-- R259: the static conditions hold. -/
def checked (r : Dec) : Dec :=
  match r with
  | .ok i => if i.wf then .ok i else .error .badValue
  | .error e => .error e

/-- The word as an instruction before the static conditions, by its opcode's format (R256). Formats SR, SI and X carry
0b0111 in bits [53:50] (R247). -/
def decodeRaw (sq : Bool) (n : Nat) : Dec :=
  let opc := fld n 54 10
  if sq then
    if fld n 50 4 != 0b0111 then .error .badValue
    else if opc == 0x301 || opc == 0x30B || opc == 0x380 then decodeS (unpackS n)
    else if 0x2C0 ≤ opc && opc ≤ 0x2D7 then decodeX (unpackX n)
    else decodeR (unpackR n)
  else if opc == 0x01D || opc == 0x180 || opc == 0x182 || opc == 0x380 || opc == 0x388 then decodeI (unpackI n)
  else if 0x200 ≤ opc && opc ≤ 0x20F then decodeM (unpackM n)
  else if opc ≤ 0x020 || (0x100 ≤ opc && opc ≤ 0x102) then decodeInt (unpackA n)
  else if 0x080 ≤ opc && opc ≤ 0x0A8 then decodeFp (unpackA n)
  else decodeCtl (unpackA n)

/-- The instruction that a word is in a stream (`sq` for the sequencer's), or the reason it is ILLEGAL (R259). -/
def decode (sq : Bool) (w : W64) : Dec := checked (decodeRaw sq w.toNat)

/-! ### The encoder -/

def bn (b : Bool) : Nat := if b then 1 else 0

/-- R248: CV and CTR of a latency field. -/
def Lat.cv (l : Lat) : Nat := match l.ctr with | some _ => 1 | none => 0
def Lat.ctrN (l : Lat) : Nat := match l.ctr with | some k => k.val | none => 0

def mkA (opc : Nat) (g : Guard) (dst sa sb sc ty var : Nat) : FA :=
  { opc := opc, neg := bn g.neg, pred := g.pred.val, la := 0, dst := dst, sa := sa, sb := sb, sc := sc, ty := ty, rm := 0
    sat := 0, cv := 0, ctr := 0, var := var }

def FA.lat (f : FA) (l : Lat) : FA := { f with la := l.la.val, cv := l.cv, ctr := l.ctrN }
def FA.rnd (f : FA) (r : Rm) : FA := { f with rm := rmCode r }
def FA.sats (f : FA) (b : Bool) : FA := { f with sat := bn b }

def mkI (opc : Nat) (g : Guard) (dst imm ty : Nat) : FI :=
  { opc := opc, neg := bn g.neg, pred := g.pred.val, la := 0, dst := dst, imm := imm, ty := ty, var := 0 }

def mkM (opc : Nat) (g : Guard) (l : Lat) (data base off size req scope fe : Nat) : FM :=
  { opc := opc, neg := bn g.neg, pred := g.pred.val, la := l.la.val, data := data, base := base, off := off, size := size
    req := req, scope := scope, ctr := l.ctrN, fe := fe, cv := l.cv }

def mkR (opc : Nat) (l : Lat) (sd ssa ssb ssc unit mod var : Nat) : FR :=
  { opc := opc, grd := 7, la := l.la.val, sd := sd, ssa := ssa, ssb := ssb, ssc := ssc, unit := unit, mod := mod
    cv := l.cv, ctr := l.ctrN, var := var }

def mkX (opc : Nat) (l : Lat) (zd zs da db dc imm8 vw var : Nat) : FX :=
  { opc := opc, grd := 7, la := l.la.val, zd := zd, zs := zs, da := da, db := db, dc := dc, imm8 := imm8, vw := vw
    var := var, cv := l.cv, ctr := l.ctrN, rsv := 0 }

/-- No lookahead and no counter. -/
def noLat : Lat := ⟨0, none⟩

/-- R339: SSB, MOD and VAR[0] of the last scalar operand. -/
def SOpd.ssb : SOpd → Nat
  | .reg r => r.val
  | .imm _ => 0
def SOpd.mod : SOpd → Nat
  | .reg _ => 0
  | .imm v => v.toNat
def SOpd.bit : SOpd → Nat
  | .reg _ => 0
  | .imm _ => 1

/-- R252: the atomic word. -/
def atomicWord (o : Aop) (b : VReg) : Nat := b.val * 256 + aopCode o * 8

/-- R264: the carry field. -/
def carryFld (pi : Option PReg) (po : PReg) : Nat :=
  match pi with
  | some p => 64 + p.val * 8 + po.val
  | none => po.val

/-- The word of an instruction as a number; none for an event. -/
def encodeNat : Instr → Option Nat
  | .iadd g t s d a b => some (packA ((mkA 0x000 g d.val a.val b.val 0 (tyCode t) 0).sats s))
  | .isub g t s d a b => some (packA ((mkA 0x001 g d.val a.val b.val 0 (tyCode t) 0).sats s))
  | .iaddc g s pi po d a b => some (packA (mkA 0x002 g d.val a.val b.val (carryFld pi po) 6 (bn s)))
  | .imul g t d a b => some (packA (mkA 0x003 g d.val a.val b.val 0 (tyCode t) 0))
  | .imulh g t d a b => some (packA (mkA 0x004 g d.val a.val b.val 0 (tyCode t) 0))
  | .imin g t d a b => some (packA (mkA 0x007 g d.val a.val b.val 0 (tyCode t) 0))
  | .imax g t d a b => some (packA (mkA 0x008 g d.val a.val b.val 0 (tyCode t) 0))
  | .and g t d a b => some (packA (mkA 0x00b g d.val a.val b.val 0 (tyCode t) 0))
  | .or g t d a b => some (packA (mkA 0x00c g d.val a.val b.val 0 (tyCode t) 0))
  | .xor g t d a b => some (packA (mkA 0x00d g d.val a.val b.val 0 (tyCode t) 0))
  | .shl g t d a b => some (packA (mkA 0x010 g d.val a.val b.val 0 (tyCode t) 0))
  | .shr g t d a b => some (packA (mkA 0x011 g d.val a.val b.val 0 (tyCode t) 0))
  | .sar g t d a b => some (packA (mkA 0x012 g d.val a.val b.val 0 (tyCode t) 0))
  | .bfe g t d a b => some (packA (mkA 0x015 g d.val a.val b.val 0 (tyCode t) 0))
  | .imad g t d a b c => some (packA (mkA 0x005 g d.val a.val b.val c.val (tyCode t) 0))
  | .imadw g t d a b c => some (packA (mkA 0x006 g d.val a.val b.val c.val (tyCode t) 0))
  | .bfi g t d a b c => some (packA (mkA 0x016 g d.val a.val b.val c.val (tyCode t) 0))
  | .iabs g t s d a => some (packA ((mkA 0x009 g d.val a.val 0 0 (tyCode t) 0).sats s))
  | .ineg g t s d a => some (packA ((mkA 0x00a g d.val a.val 0 0 (tyCode t) 0).sats s))
  | .not g t d a => some (packA (mkA 0x00e g d.val a.val 0 0 (tyCode t) 0))
  | .popc g t d a => some (packA (mkA 0x017 g d.val a.val 0 0 (tyCode t) 0))
  | .clz g t d a => some (packA (mkA 0x018 g d.val a.val 0 0 (tyCode t) 0))
  | .brev g t d a => some (packA (mkA 0x019 g d.val a.val 0 0 (tyCode t) 0))
  | .mov g t d a => some (packA (mkA 0x01c g d.val a.val 0 0 (tyCode t) 0))
  | .lop3 g u d a b => some (packA (mkA 0x00F g d.val a.val b.val u.toNat 8 0))
  | .fshl g k d a b c => some (packA (mkA 0x013 g d.val a.val b.val c.val 8 (bn k)))
  | .fshr g k d a b c => some (packA (mkA 0x014 g d.val a.val b.val c.val 8 (bn k)))
  | .icmp g c t p a b => some (packA (mkA 0x01A g p.val a.val b.val 0 (tyCode t) (iCondCode c)))
  | .sel g t d a b p => some (packA (mkA 0x01B g d.val a.val b.val p.val (tyCode t) 0))
  | .movi g t d imm => some (packI (mkI 0x01D g d.val imm.toNat (tyCode t)))
  | .lea g t d a b sh => some (packA (mkA 0x01E g d.val a.val b.val sh.val (tyCode t) 0))
  | .vrd g d a => some (packA (mkA 0x01F g d.val a.val 0 0 8 0))
  | .vwr g a b => some (packA (mkA 0x020 g 0 a.val b.val 0 8 0))
  | .fadd g r d a b => some (packA ((mkA 0x080 g d.val a.val b.val 0 9 0).rnd r))
  | .fsub g r d a b => some (packA ((mkA 0x081 g d.val a.val b.val 0 9 0).rnd r))
  | .fmul g r d a b => some (packA ((mkA 0x082 g d.val a.val b.val 0 9 0).rnd r))
  | .fscale g r d a b => some (packA ((mkA 0x089 g d.val a.val b.val 0 9 0).rnd r))
  | .ffma g r d a b c => some (packA ((mkA 0x083 g d.val a.val b.val c.val 9 0).rnd r))
  | .fmin g k d a b => some (packA (mkA 0x084 g d.val a.val b.val 0 9 (bn k)))
  | .fmax g k d a b => some (packA (mkA 0x085 g d.val a.val b.val 0 9 (bn k)))
  | .fcmp g c p a b => some (packA (mkA 0x086 g p.val a.val b.val 0 9 (fCondCode c)))
  | .fclass g t d a => some (packA (mkA 0x087 g d.val a.val 0 0 (tyCode t) 0))
  | .frnd g r d a => some (packA ((mkA 0x088 g d.val a.val 0 0 9 0).rnd r))
  | .hadd2 g t r s d a b => some (packA (((mkA 0x08a g d.val a.val b.val 0 (tyCode t) 0).rnd r).sats s))
  | .hmul2 g t r s d a b => some (packA (((mkA 0x08b g d.val a.val b.val 0 (tyCode t) 0).rnd r).sats s))
  | .hfma2 g t r s d a b c => some (packA (((mkA 0x08C g d.val a.val b.val c.val (tyCode t) 0).rnd r).sats s))
  | .cmul g r d a b => some (packA ((mkA 0x08D g d.val a.val b.val 0 15 0).rnd r))
  | .cfma g r d a b c => some (packA ((mkA 0x08E g d.val a.val b.val c.val 15 0).rnd r))
  | .rcp g l r d a => some (packA (((mkA 0x0a0 g d.val a.val 0 0 9 0).rnd r).lat l))
  | .rsq g l r d a => some (packA (((mkA 0x0a1 g d.val a.val 0 0 9 0).rnd r).lat l))
  | .sqrt g l r d a => some (packA (((mkA 0x0a2 g d.val a.val 0 0 9 0).rnd r).lat l))
  | .exp2 g l r d a => some (packA (((mkA 0x0a3 g d.val a.val 0 0 9 0).rnd r).lat l))
  | .log2 g l r d a => some (packA (((mkA 0x0a4 g d.val a.val 0 0 9 0).rnd r).lat l))
  | .sinpi g l r d a => some (packA (((mkA 0x0a5 g d.val a.val 0 0 9 0).rnd r).lat l))
  | .cospi g l r d a => some (packA (((mkA 0x0a6 g d.val a.val 0 0 9 0).rnd r).lat l))
  | .sincospi g l r d a => some (packA (((mkA 0x0a7 g d.val a.val 0 0 9 0).rnd r).lat l))
  | .tanh g l r d a => some (packA (((mkA 0x0a8 g d.val a.val 0 0 9 0).rnd r).lat l))
  | .cvt g l t s r u d a => some (packA ((((mkA 0x100 g d.val a.val 0 (tyCode s) (tyCode t) 0).rnd r).sats u).lat l))
  | .pack g l t s r u h d a b =>
    some (packA ((((mkA 0x101 g d.val a.val b.val (tyCode s) (tyCode t) (bn h)).rnd r).sats u).lat l))
  | .unpack g l t s e d a => some (packA ((mkA 0x102 g d.val a.val 0 (tyCode s) (tyCode t) e.val).lat l))
  | .bra g off => some (packI (mkI 0x180 g 0 off.toNat 0))
  | .brx g a => some (packA (mkA 0x181 g 0 a.val 0 0 0 0))
  | .call g d off => some (packI (mkI 0x182 g d.val off.toNat 0))
  | .ret g a => some (packA (mkA 0x183 g 0 a.val 0 0 0 0))
  | .exit g => some (packA (mkA 0x184 g 0 0 0 0 0 0))
  | .join g m => some (packA (mkA 0x185 g 0 m.val 0 0 0 0))
  | .leave g m => some (packA (mkA 0x186 g 0 m.val 0 0 0 0))
  | .waitm g m v => some (packA (mkA 0x187 g 0 m.val 0 0 0 (bn v)))
  | .mset g m a => some (packA (mkA 0x188 g m.val a.val 0 0 0 0))
  | .mop g o d a b => some (packA (mkA 0x189 g d.val a.val b.val 0 0 (mopOpCode o)))
  | .mget g d m => some (packA (mkA 0x18A g d.val m.val 0 0 0 0))
  | .ballot g l v d p => some (packA ((mkA 0x18B g d.val p.val 0 0 0 (bn v)).lat l))
  | .vote g l o pd ps => some (packA ((mkA 0x18C g pd.val ps.val 0 0 0 (voteOpCode o)).lat l))
  | .matchLanes g l t d a => some (packA ((mkA 0x18D g d.val a.val 0 0 (tyCode t) 0).lat l))
  | .shfl g l o w d a b => some (packA ((mkA 0x18E g d.val a.val b.val w.val 8 (shflOpCode o)).lat l))
  | .redux g l o t r d a => some (packA (((mkA 0x18F g d.val a.val 0 0 (tyCode t) (redOpCode o)).rnd r).lat l))
  | .scan g l o t x r d a => some (packA (((mkA 0x190 g d.val a.val 0 (bn x) (tyCode t) (redOpCode o)).rnd r).lat l))
  | .trap g c => some (packI (mkI 0x380 g 0 c.toNat 0))
  | .tret g => some (packA (mkA 0x381 g 0 0 0 0 0 0))
  | .bkpt g => some (packA (mkA 0x382 g 0 0 0 0 0 0))
  | .nop g => some (packA (mkA 0x385 g 0 0 0 0 0 0))
  | .yield g => some (packA (mkA 0x386 g 0 0 0 0 0 0))
  | .pdone g => some (packA (mkA 0x387 g 0 0 0 0 0 0))
  | .srd g r d => some (packA (mkA 0x383 g d.val (specRegCode r) 0 0 0 0))
  | .swr g r b => some (packA (mkA 0x384 g 0 (specRegCode r) b.val 0 0 0))
  | .fetchb g w => some (packI (mkI 0x388 g 0 (bn w) 0))
  | .icinv g k a => some (packA (mkA 0x389 g 0 a.val 0 0 0 (bn k)))
  | .ld g l sz rt sc fe d a off =>
    some (packM (mkM 0x200 g l d.val a.val off.toNat (sizeCode sz) (reqTyCode rt) (scopeCode sc) (feCode fe)))
  | .st g l sz rt sc fe d a off =>
    some (packM (mkM 0x201 g l d.val a.val off.toNat (sizeCode sz) (reqTyCode rt) (scopeCode sc) (feCode fe)))
  | .lds g l sz fe d a off => some (packM (mkM 0x202 g l d.val a.val off.toNat (sizeCode sz) 0 1 (feCode fe)))
  | .sts g l sz fe d a off => some (packM (mkM 0x203 g l d.val a.val off.toNat (sizeCode sz) 0 1 (feCode fe)))
  | .ldc g l sz fe d a off => some (packM (mkM 0x204 g l d.val a.val off.toNat (sizeCode sz) 0 2 (feCode fe)))
  | .stc g l sz fe d a off => some (packM (mkM 0x205 g l d.val a.val off.toNat (sizeCode sz) 0 2 (feCode fe)))
  | .ldp g l sz fe d a off => some (packM (mkM 0x206 g l d.val a.val off.toNat (sizeCode sz) 0 2 (feCode fe)))
  | .stp g l sz fe d a off => some (packM (mkM 0x207 g l d.val a.val off.toNat (sizeCode sz) 0 2 (feCode fe)))
  | .atom g l o sz sc d a b =>
    some (packM (mkM 0x208 g l d.val a.val (atomicWord o b) (sizeCode sz) 3 (scopeCode sc) 0))
  | .atoms g l o sz d a b => some (packM (mkM 0x209 g l d.val a.val (atomicWord o b) (sizeCode sz) 0 1 0))
  | .red g l o sz sc a b => some (packM (mkM 0x20A g l 0 a.val (atomicWord o b) (sizeCode sz) 3 (scopeCode sc) 0))
  | .fence g o sc => some (packM (mkM 0x20B g noLat 0 0 0 0 0 (scopeCode sc) (fenceOpCode o)))
  | .cctl g l o sc a off => some (packM (mkM 0x20C g l 0 a.val off.toNat (cctlOpCode o) 0 (scopeCode sc) 0))
  | .pref g l k rt sc a off => some (packM (mkM 0x20D g l 0 a.val off.toNat (bn k) (reqTyCode rt) (scopeCode sc) 0))
  | .ldPriv g l d a off => some (packM (mkM 0x20E g l d.val a.val off.toNat 4 2 1 0))
  | .stPriv g l d a off => some (packM (mkM 0x20F g l d.val a.val off.toNat 4 2 1 0))
  | .popq g l d q => some (packA ((mkA 0x210 g d.val q.val 0 0 0 0).lat l))
  | .pushq g l q a => some (packA ((mkA 0x211 g 0 a.val q.val 0 0 0).lat l))
  | .tfetch l rt sc p a b => some (packX (mkX 0x2c0 l (reqTyCode rt) (scopeCode sc) a.val b.val 0 p.val 0 0))
  | .trel l k p => some (packX (mkX 0x2c1 l 0 0 0 0 0 p.val 0 (bn k)))
  | .mmaBf16 l z d a b => some (packX (mkX 0x2c2 l d.val 0 a.val b.val 0 0 0 (bn z)))
  | .mmaF16 l z d a b => some (packX (mkX 0x2c3 l d.val 0 a.val b.val 0 0 0 (bn z)))
  | .mmaF32 l z d a b => some (packX (mkX 0x2c4 l d.val 0 a.val b.val 0 0 0 (bn z)))
  | .mmacCf32 l z d a b => some (packX (mkX 0x2c5 l d.val 0 a.val b.val 0 0 0 (bn z)))
  | .mmasE4m3E4m3 l z d a b s w => some (packX (mkX 0x2c6 l d.val 0 a.val b.val 0 s.toNat w.val (bn z)))
  | .mmasE4m3E5m2 l z d a b s w => some (packX (mkX 0x2c7 l d.val 0 a.val b.val 0 s.toNat w.val (bn z)))
  | .mmasE5m2E4m3 l z d a b s w => some (packX (mkX 0x2c8 l d.val 0 a.val b.val 0 s.toNat w.val (bn z)))
  | .mmasE5m2E5m2 l z d a b s w => some (packX (mkX 0x2c9 l d.val 0 a.val b.val 0 s.toNat w.val (bn z)))
  | .zclr l d => some (packX (mkX 0x2ca l d.val 0 0 0 0 0 0 0))
  | .zld l s rt sc d a b =>
    some (packX (mkX 0x2cb l d.val (scopeCode sc) a.val b.val 0 (spaceCode s + reqTyCode rt * 4) 0 0))
  | .zst l s rt sc d a b =>
    some (packX (mkX 0x2cc l d.val (scopeCode sc) a.val b.val 0 (spaceCode s + reqTyCode rt * 4) 0 0))
  | .zdrain l m d a b c =>
    some (packX (mkX 0x2cd l d.val (scopeCode m.scope) a.val b.val c.val (spaceCode m.space + drainFmtCode m.fmt * 4 + reqTyCode m.req * 16 + bn m.clr * 64 + bn m.rel * 128) 0 (bn m.add)))
  | .saalloc l k st c a => some (packX (mkX 0x2d0 l 0 0 a.val 0 c.val st.val 0 (bn k)))
  | .safree l k st a => some (packX (mkX 0x2d1 l 0 0 a.val 0 0 st.val 0 (bn k)))
  | .saadd l f s r sc st a b c =>
    some (packX (mkX 0x2d2 l (rowFmtCode f + bn s * 4) (scopeCode sc) a.val b.val c.val (st.val + bn r * 128) 0 0))
  | .saread l y f s r sc st a b c =>
    some (packX (mkX 0x2d3 l (rowFmtCode f + bn s * 4) (scopeCode sc) a.val b.val c.val (st.val + bn r * 128) 0 (bn y)))
  | .sawait l c a b => some (packX (mkX 0x2d4 l 0 0 a.val b.val c.val 0 0 0))
  | .saseal l c a b => some (packX (mkX 0x2d5 l 0 0 a.val b.val c.val 0 0 0))
  | .saevict l k st a b c => some (packX (mkX 0x2d6 l 0 0 a.val b.val c.val st.val 0 (bn k)))
  | .saload l st a b c => some (packX (mkX 0x2d7 l 0 0 a.val b.val c.val st.val 0 0))
  | .smov o d a => some (packR (mkR 0x300 noLat d.val a.val 0 0 0 0 (smovOpCode o)))
  | .smovi o d imm =>
    some (packS { opc := 0x301, grd := 7, la := 0, sd := d.val, ssa := 0, var := smoviOpCode o, imm := imm.toNat })
  | .sadd d a x => some (packR (mkR 0x302 noLat d.val a.val x.ssb 0 0 x.mod x.bit))
  | .ssub d a x => some (packR (mkR 0x303 noLat d.val a.val x.ssb 0 0 x.mod x.bit))
  | .smul d a x => some (packR (mkR 0x304 noLat d.val a.val x.ssb 0 0 x.mod x.bit))
  | .sand d a x => some (packR (mkR 0x305 noLat d.val a.val x.ssb 0 0 x.mod x.bit))
  | .sor d a x => some (packR (mkR 0x306 noLat d.val a.val x.ssb 0 0 x.mod x.bit))
  | .sxor d a x => some (packR (mkR 0x307 noLat d.val a.val x.ssb 0 0 x.mod x.bit))
  | .sshl d a x => some (packR (mkR 0x308 noLat d.val a.val x.ssb 0 0 x.mod x.bit))
  | .sshr h d a x => some (packR (mkR 0x309 noLat d.val a.val x.ssb 0 0 x.mod (x.bit + bn h * 2)))
  | .scmp c d a x => some (packR (mkR 0x30a noLat d.val a.val x.ssb 0 (sCondCode c) x.mod x.bit))
  | .sbra o a off =>
    some (packS { opc := 0x30B, grd := 7, la := 0, sd := 0, ssa := a.val, var := sbraOpCode o, imm := off.toNat })
  | .sld l sz rt sc d a off =>
    some (packR (mkR 0x30c l d.val a.val 0 0 (reqTyCode rt) (scopeCode sc + off.toNat * 8) (sSizeCode sz)))
  | .sst l sz rt sc a b off =>
    some (packR (mkR 0x30d l 0 a.val b.val 0 (reqTyCode rt) (scopeCode sc + off.toNat * 8) (sSizeCode sz)))
  | .sexit => some (packR (mkR 0x30e noLat 0 0 0 0 0 0 0))
  | .adef p n a b => some (packR (mkR 0x310 noLat 0 a.val b.val 0 n.val 0 (adefPartCode p)))
  | .astep o n d k => some (packR (mkR 0x311 noLat d.val 0 0 0 n.val k.toNat (astepOpCode o)))
  | .ldq l fm k rt sc q gen tag =>
    some (packR (mkR 0x312 l 0 gen.val 0 0 q.val (scopeCode sc + reqTyCode rt * 8 + tag.val * 32) (qFormCode fm + bn k * 4)))
  | .stq l fm k rt sc q gen tag =>
    some (packR (mkR 0x313 l 0 gen.val 0 0 q.val (scopeCode sc + reqTyCode rt * 8 + tag.val * 32) (qFormCode fm + bn k * 4)))
  | .qpush l k q a b tag => some (packR (mkR 0x314 l 0 a.val b.val 0 q.val (tag.val * 32) (bn k)))
  | .qpop l d q s j => some (packR (mkR 0x315 l d.val 0 0 0 q.val (j.val + s.val * 32) 0))
  | .bara e n a => some (packR (mkR 0x316 noLat 0 a.val 0 0 n.val 0 (bn e)))
  | .barw n => some (packR (mkR 0x317 noLat 0 0 0 0 n.val 0 0))
  | .chain l a n => some (packR (mkR 0x320 l 0 a.val 0 0 n.val 0 0))
  | .cwait l k d n => some (packR (mkR 0x321 l d.val 0 0 0 n.val 0 (bn k)))
  | .coll l a n => some (packR (mkR 0x322 l 0 a.val 0 0 n.val 0 0))
  | .ctwait l d n => some (packR (mkR 0x323 l d.val 0 0 0 n.val 0 0))
  | .redc l k n a b c => some (packR (mkR 0x324 l n.val a.val b.val c.val 0 0 (bn k)))
  | .launch l d a => some (packR (mkR 0x325 l d.val a.val 0 0 0 0 0))
  | .rqpush l d a b c q s => some (packR (mkR 0x326 l d.val a.val b.val c.val q.val (s.val * 32) 0))
  | .rqpop l k d a => some (packR (mkR 0x327 l d.val a.val 0 0 0 0 (bn k)))
  | .announce l rp lk d a b n => some (packR (mkR 0x330 l d.val a.val b.val 0 0 n.val (bn rp + bn lk * 2)))
  | .withdraw l d a b n => some (packR (mkR 0x331 l d.val a.val b.val 0 0 n.val 0))
  | .replicate l d a b n => some (packR (mkR 0x332 l d.val a.val b.val 0 0 n.val 0))
  | .migrate l d a b n => some (packR (mkR 0x333 l d.val a.val b.val 0 0 n.val 0))
  | .rfence l sc d a => some (packR (mkR 0x334 l d.val a.val 0 0 0 (scopeCode sc) 0))
  | .fenceSequencer l o sc => some (packR (mkR 0x20b l 0 0 0 0 0 (scopeCode sc) (fenceOpCode o)))
  | .trapSequencer c => some (packS { opc := 0x380, grd := 7, la := 0, sd := 0, ssa := 0, var := 0, imm := c.toNat })
  | .tretSequencer => some (packR (mkR 0x381 noLat 0 0 0 0 0 0 0))
  | .pdoneSequencer => some (packR (mkR 0x387 noLat 0 0 0 0 0 0 0))
  | _ => none

/-- The word of a well-formed instruction; none for an event, which is no word. -/
def encode (i : Instr) : Option W64 := (encodeNat i).map (BitVec.ofNat 64)

/-- R242, R256: whether an instruction belongs to the sequencer's stream. -/
def Instr.isSeq (i : Instr) : Bool :=
  match encodeNat i with
  | some n => (opClass true (fld n 54 10)).isSome && !(match i with
      | .fence .. | .trap .. | .tret .. | .pdone .. => true
      | _ => false)
  | none => false

/-- What the decoder reads from an instruction of `nbits` bits whose bits are `w`: one 64-bit word (R232), read in the lane
stream and, where it is none there, in the sequencer stream. -/
def decodeTableWord (nbits w : Nat) : Option Instr :=
  let x := BitVec.ofNat 64 (w % 2 ^ nbits)
  match decode false x with
  | .ok i => some i
  | .error _ => (decode true x).toOption

end Sys2Proof
end

