-- ==== Sys2Proof/Machine/Flags.lean ====
section
/-! DEFINITION. The exception flags of R188 and the one rounding of R187 to R190: every instruction that narrows a value
goes through `round`. Values are exact naturals with a power-of-two scale until that point (R8). -/

namespace Sys2Proof

/-- R188: a set of exception flags, laid out as the sticky byte. -/
abbrev Flg := BitVec 8

namespace Flg
def nv : Flg := 1
def dz : Flg := 2
def of : Flg := 4
def uf : Flg := 8
def nx : Flg := 16
/-- The flag when the condition holds. -/
def when (c : Bool) (f : Flg) : Flg := if c then f else 0
end Flg

/-- A result with the flags that computing it raised. -/
abbrev Res := Nat × Flg

/-- R183: the floating formats with their own encodings (ue4m3 reads as e4m3, R185). -/
inductive Fmt where
  | f32 | f16 | bf16 | e4m3 | e5m2
  deriving DecidableEq, Repr

namespace Fmt
/-- Fraction bits. -/
def f : Fmt → Nat
  | .f32 => 23
  | .f16 => 10
  | .bf16 => 7
  | .e4m3 => 3
  | .e5m2 => 2

/-- Exponent bits. -/
def x : Fmt → Nat
  | .f32 | .bf16 => 8
  | .f16 | .e5m2 => 5
  | .e4m3 => 4

def bias : Fmt → Nat
  | .f32 | .bf16 => 127
  | .f16 | .e5m2 => 15
  | .e4m3 => 7

/-- The sign bit's weight. -/
def signBit (t : Fmt) : Nat := 2 ^ (t.x + t.f)

/-- R183: the exponent of the smallest subnormal, the grid's step. -/
def qmin (t : Fmt) : Int := 1 - (t.bias : Int) - (t.f : Int)

/-- The code of the largest finite value. -/
def maxCode (t : Fmt) : Nat :=
  match t with
  | .e4m3 => 0x7E
  | _ => (2 ^ t.x - 1) * 2 ^ t.f - 1

/-- The code of +infinity; e4m3 has none and gives its NaN (R184, R190). -/
def infCode (t : Fmt) : Nat :=
  match t with
  | .e4m3 => 0x7F
  | _ => (2 ^ t.x - 1) * 2 ^ t.f

/-- The bit that marks a NaN quiet, in the formats that have one (R184). -/
def quietBit : Fmt → Nat
  | .f32 => 2 ^ 22
  | .f16 => 2 ^ 9
  | .bf16 => 2 ^ 6
  | _ => 0

/-- R189: the NaN an operation generates. -/
def genNan : Fmt → Nat
  | .f32 => 0x7FC00000
  | .f16 => 0x7E00
  | .bf16 => 0x7FC0
  | .e4m3 => 0x7F
  | .e5m2 => 0x7E

def withSign (t : Fmt) (neg : Bool) (code : Nat) : Nat := if neg then code + t.signBit else code

/-- R183, R184: the value of a code. -/
def decode (t : Fmt) (bits : Nat) : Fp :=
  let neg := bits / t.signBit % 2 == 1
  let mag := bits % t.signBit
  let e := mag / 2 ^ t.f
  let frac := mag % 2 ^ t.f
  if t == .e4m3 && mag == 0x7F then .nan neg frac false
  else if t != .e4m3 && e == 2 ^ t.x - 1 then
    if frac == 0 then .inf neg else .nan neg frac (t.quietBit != 0 && mag / t.quietBit % 2 == 0)
  else if e == 0 then .fin neg frac t.qmin
  else .fin neg (2 ^ t.f + frac) (t.qmin + (e : Int) - 1)

/-- R189: a NaN code with its quiet bit set. -/
def quiet (t : Fmt) (bits : Nat) : Nat := bits ||| t.quietBit
end Fmt

/-- Whether a mode moves a magnitude up by one step: `lo` of `2^sh` is the part cut off. -/
def roundsUp (m : Rm) (neg : Bool) (hi lo sh : Nat) (sticky : Bool) : Bool :=
  let some' := lo != 0 || sticky
  match m with
  | .rne => decide (2 ^ sh < 2 * lo) || (2 * lo == 2 ^ sh && sh != 0 && (sticky || hi % 2 == 1))
  | .rtz => false
  | .rup => !neg && some'
  | .rdn => neg && some'

/-- R187: a positive real rounded to a multiple of `2^q`, and whether that changed it. -/
def roundAt (m : Rm) (neg : Bool) (v : Mag) (q : Int) : Nat × Bool :=
  if q ≤ v.e then (v.n * 2 ^ (v.e - q).toNat, v.sticky)
  else
    let sh := (q - v.e).toNat
    let hi := v.n / 2 ^ sh
    let lo := v.n % 2 ^ sh
    (if roundsUp m neg hi lo sh v.sticky then hi + 1 else hi, lo != 0 || v.sticky)

/-- The exponent of a positive real's leading bit. -/
def Mag.top (v : Mag) : Int := (Nat.log2 v.n : Int) + v.e

/-- R190: the code a magnitude over the largest finite value becomes. -/
def overflowCode (t : Fmt) (m : Rm) (neg sat : Bool) : Nat :=
  if t == .e4m3 || sat then t.maxCode
  else match m with
    | .rne => t.infCode
    | .rtz => t.maxCode
    | .rup => if neg then t.maxCode else t.infCode
    | .rdn => if neg then t.infCode else t.maxCode

/-- R188, R190: RND_fmt of a nonzero real given by sign and magnitude; the code carries the sign. -/
def roundMag (t : Fmt) (m : Rm) (sat neg : Bool) (v : Mag) : Res :=
  let free : Int := v.top - (t.f : Int)
  let q : Int := max free t.qmin
  let (r, inexact) := roundAt m neg v q
  let code := (q - t.qmin).toNat * 2 ^ t.f + r
  let (r', _) := roundAt m neg v free
  let tiny := decide (free < t.qmin) && (decide (free + 1 < t.qmin) || r' != 2 ^ (t.f + 1))
  if code ≤ t.maxCode then
    (t.withSign neg code, Flg.when inexact Flg.nx ||| Flg.when (tiny && inexact) Flg.uf)
  else (t.withSign neg (overflowCode t m neg sat), Flg.of ||| Flg.nx)

/-- RND_fmt of an exact dyadic; `zneg` is the sign of a zero result. -/
def roundDy (t : Fmt) (m : Rm) (sat zneg : Bool) (x : Dyadic) : Res :=
  if x.m = 0 then (t.withSign zneg 0, 0)
  else roundMag t m sat (decide (x.m < 0)) ⟨x.m.natAbs, x.e, false⟩

/-- Exact sum. -/
def Dyadic.add (a b : Dyadic) : Dyadic :=
  let e := min a.e b.e
  ⟨a.m * 2 ^ (a.e - e).toNat + b.m * 2 ^ (b.e - e).toNat, e⟩

/-- Exact product. -/
def Dyadic.mul (a b : Dyadic) : Dyadic := ⟨a.m * b.m, a.e + b.e⟩

/-- The exact integer sign-magnitude value of a finite number. -/
def signed (neg : Bool) (m : Nat) : Int := if neg then -(m : Int) else m

namespace Fp
def isNan : Fp → Bool
  | .nan .. => true
  | _ => false
def isSnan : Fp → Bool
  | .nan _ _ s => s
  | _ => false
def isInf : Fp → Bool
  | .inf _ => true
  | _ => false
def isZero : Fp → Bool
  | .fin _ m _ => m == 0
  | _ => false
def sign : Fp → Bool
  | .nan s _ _ | .inf s | .fin s _ _ => s
/-- The exact value of a finite number; 0 for the others. -/
def dy : Fp → Dyadic
  | .fin s m e => ⟨signed s m, e⟩
  | _ => ⟨0, 0⟩
def neg : Fp → Fp
  | .nan s f q => .nan (!s) f q
  | .inf s => .inf (!s)
  | .fin s m e => .fin (!s) m e
end Fp

/-- A term of a sum: `none` where a product is infinity times zero. -/
abbrev Term := Option Fp

/-- The exact product of two values that are no NaN. -/
def mulTerm (a b : Fp) : Term :=
  let s := a.sign != b.sign
  if a.isInf || b.isInf then
    if a.isZero || b.isZero then none else some (.inf s)
  else match a, b with
    | .fin _ m e, .fin _ n f => some (.fin s (m * n) (e + f))
    | _, _ => none

/-- R283, R290: the sign of an exact zero sum. -/
def zeroSign (m : Rm) (ts : List Fp) : Bool :=
  if ts.all fun x => x.isZero && x.sign then true
  else if ts.all fun x => x.isZero && !x.sign then false
  else m == .rdn

/-- R283, R289, R290, R307: a sum of terms, none a NaN, rounded once; `neg` is the sign of an exact zero sum. -/
def sumSigned (t : Fmt) (m : Rm) (sat neg : Bool) (ts : List Term) : Res :=
  let xs := ts.filterMap id
  if ts.any Option.isNone || (xs.any (fun x => x.isInf && x.sign) && xs.any fun x => x.isInf && !x.sign) then
    (t.genNan, Flg.nv)
  else match xs.find? Fp.isInf with
    | some x => (t.withSign x.sign t.infCode, 0)
    | none => roundDy t m sat neg (xs.foldl (fun a x => a.add x.dy) ⟨0, 0⟩)

/-- R283, R290: the same with the sign of an exact zero sum that the terms give. -/
def sumTerms (t : Fmt) (m : Rm) (sat : Bool) (ts : List Term) : Res := sumSigned t m sat (zeroSign m (ts.filterMap id)) ts

/-- R189: the first NaN operand, quieted, with NV for a signalling one; otherwise what `k` gives. -/
def nanFirst (t : Fmt) (ops : List Nat) (k : Unit → Res) : Res :=
  match ops.find? fun x => (t.decode x).isNan with
  | some x => (t.quiet x, Flg.when (ops.any fun y => (t.decode y).isSnan) Flg.nv)
  | none => k ()

/-- R283: the four arithmetic forms over one format. -/
def fpAdd (t : Fmt) (m : Rm) (sat : Bool) (a b : Nat) : Res :=
  nanFirst t [a, b] fun _ => sumTerms t m sat [some (t.decode a), some (t.decode b)]
def fpSub (t : Fmt) (m : Rm) (sat : Bool) (a b : Nat) : Res :=
  nanFirst t [a, b] fun _ => sumTerms t m sat [some (t.decode a), some (t.decode b).neg]
def fpMul (t : Fmt) (m : Rm) (sat : Bool) (a b : Nat) : Res :=
  nanFirst t [a, b] fun _ => sumTerms t m sat [mulTerm (t.decode a) (t.decode b)]
def fpFma (t : Fmt) (m : Rm) (sat : Bool) (a b c : Nat) : Res :=
  nanFirst t [a, b, c] fun _ => sumTerms t m sat [mulTerm (t.decode a) (t.decode b), some (t.decode c)]

/-- The exact order of two values that are no NaN: less, equal, greater as -1, 0, 1; zeros of either sign are equal. -/
def fpCmp (a b : Fp) : Int :=
  match a, b with
  | .inf s, .inf s' => if s = s' then 0 else if s then -1 else 1
  | .inf s, _ => if s then -1 else 1
  | _, .inf s => if s then 1 else -1
  | x, y => ((x.dy.add ⟨-y.dy.m, y.dy.e⟩).m).sign

end Sys2Proof
end

