-- ==== Sys2Proof/Machine/Special.lean ====
section
/-! DEFINITION. The nine special functions of R291, correctly rounded: a floor of the exact value at a scale far below the
result's grid, with a mark that more follows, is rounded once by `roundMag`. -/

namespace Sys2Proof

/-- Bits of the fixed point that the series are summed in. -/
def fixBits : Nat := 640

/-- Guard bits that hide the series' own error below the floor's scale. -/
def guardBits : Nat := 64

/-- A positive fixed-point approximation as a floor with more to follow, at exponent `k` beyond the fixed point. -/
def fixMag (v : Nat) (k : Int) : Mag := ⟨v / 2 ^ guardBits, (guardBits : Int) - fixBits + k, true⟩

/-- The sum of `p / (2i+1)` with `p` divided by `d` each turn and the sign alternating where `alt`: the arctangent and
its hyperbolic kin of a reciprocal whose square is `d`. -/
def recipSeries (alt : Bool) (d : Nat) : Nat → Nat → Nat → Int
  | 0, _, _ => 0
  | fuel + 1, p, i =>
    let t : Int := (p / (2 * i + 1) : Nat)
    (if alt && i % 2 == 1 then -t else t) + recipSeries alt d fuel (p / d) (i + 1)

/-- ln 2 = 2 artanh (1/3), in fixed point. -/
def ln2Fix : Nat := 2 * (recipSeries false 9 210 (2 ^ fixBits / 3) 0).toNat

/-- pi = 16 arctan (1/5) - 4 arctan (1/239), in fixed point. -/
def piFix : Nat :=
  (16 * recipSeries true 25 150 (2 ^ fixBits / 5) 0 - 4 * recipSeries true 57121 150 (2 ^ fixBits / 239) 0).toNat

/-- The exponential series of a fixed-point `y` below 1, from its term `p` of index `i`. -/
def expSeries (y : Nat) : Nat → Nat → Nat → Nat
  | 0, _, _ => 0
  | fuel + 1, p, i => p + expSeries y fuel (p * y / 2 ^ fixBits / (i + 1)) (i + 1)

/-- `e^y` for a fixed-point `y` below 1. -/
def expFix (y : Nat) : Nat := expSeries y 140 (2 ^ fixBits) 0

/-- The sine series of a fixed-point `y`, `y2` its square, from its term `p` of index `i`. -/
def sinSeries (y2 : Nat) : Nat → Nat → Nat → Int
  | 0, _, _ => 0
  | fuel + 1, p, i => (p : Int) - sinSeries y2 fuel (p * y2 / 2 ^ fixBits / ((2 * i + 2) * (2 * i + 3))) (i + 1)

/-- `sin y` for a fixed-point `y` of at most pi/2. -/
def sinFix (y : Nat) : Nat := (sinSeries (y * y / 2 ^ fixBits) 100 y 0).toNat

/-- The series of artanh over the powers of `t2`, from its power `p` of index `i`. -/
def atanhSeries (t2 : Nat) : Nat → Nat → Nat → Nat
  | 0, _, _ => 0
  | fuel + 1, p, i => p / (2 * i + 1) + atanhSeries t2 fuel (p * t2 / 2 ^ fixBits) (i + 1)

/-- `log2 z` in fixed point for `z = m / 2^k` from 1 to 2. -/
def log2Fix (m k : Nat) : Nat :=
  let t := (m - 2 ^ k) * 2 ^ fixBits / (m + 2 ^ k)
  2 * atanhSeries (t * t / 2 ^ fixBits) 210 t 0 * 2 ^ fixBits / ln2Fix

/-- The integer square root, by one bit a turn from the top. -/
def isqrtGo (n : Nat) : Nat → Nat → Nat
  | 0, r => r
  | k + 1, r =>
    let r' := r + 2 ^ k
    isqrtGo n k (if r' * r' ≤ n then r' else r)

def isqrt (n : Nat) : Nat := isqrtGo n (Nat.log2 n / 2 + 1) 0

/-- A nonzero finite magnitude as a 64-bit-or-longer integer with an even exponent. -/
def evenScale (m : Nat) (e : Int) : Nat × Int :=
  let k : Nat := 128 + (if (e - 128) % 2 = 0 then 0 else 1)
  (m * 2 ^ k, e - k)

/-- R291: 1 / x of a positive magnitude. -/
def rcpMag (m : Nat) (e : Int) : Mag :=
  let s := 2 ^ (Nat.log2 m + 80)
  ⟨s / m, -e - ((Nat.log2 m + 80 : Nat) : Int), s % m != 0⟩

/-- R291: the square root of a positive magnitude. -/
def sqrtMag (m : Nat) (e : Int) : Mag :=
  let (n, f) := evenScale m e
  let r := isqrt n
  ⟨r, f / 2, r * r != n⟩

/-- R291: 1 / sqrt x of a positive magnitude. -/
def rsqMag (m : Nat) (e : Int) : Mag :=
  let (n, f) := evenScale m e
  let k := Nat.log2 n + 160
  let k := k + k % 2
  let q := 2 ^ k / n
  let r := isqrt q
  ⟨r, -(f / 2) - ((k / 2 : Nat) : Int), r * r != q || 2 ^ k % n != 0⟩

/-- The floor and the fixed-point fraction of `m * 2^e`, where that is exact in the fixed point. -/
def splitFix (x : Dyadic) : Int × Nat :=
  let v : Int := x.m * 2 ^ (x.e + fixBits).toNat
  (v / 2 ^ fixBits, (v % 2 ^ fixBits).toNat)

/-- R291: 2^x of a finite x that is no integer, `|x| < 2^10`. -/
def exp2Mag (x : Dyadic) : Mag :=
  let (k, f) := splitFix x
  fixMag (expFix (f * ln2Fix / 2 ^ fixBits)) k

/-- R291: log2 of a positive finite value that is no power of two: its sign and magnitude. -/
def log2Val (m : Nat) (e : Int) : Bool × Mag :=
  let k := Nat.log2 m
  let v : Int := ((k : Int) + e) * 2 ^ fixBits + (log2Fix m k : Int)
  (decide (v < 0), fixMag v.natAbs 0)

/-- R291: sin (pi x) for x no multiple of 1/2, by its fraction of a period: sign and magnitude. -/
def sinPiVal (x : Dyadic) : Bool × Mag :=
  let (k, f) := splitFix x
  let r := if 2 * f ≤ 2 ^ fixBits then f else 2 ^ fixBits - f
  (k % 2 == 1, fixMag (sinFix (piFix * r / 2 ^ fixBits)) 0)

/-- R291: tanh of a positive value. -/
def tanhMag (m : Nat) (e : Int) : Mag :=
  if 7 ≤ (Nat.log2 m : Int) + e then ⟨2 ^ 256 - 1, -256, true⟩
  else
    let y := 2 * (m * 2 ^ (e + fixBits).toNat)
    let k := y / ln2Fix
    let ex := expFix (y - k * ln2Fix) * 2 ^ k
    fixMag ((ex - 2 ^ fixBits) * 2 ^ fixBits / (ex + 2 ^ fixBits)) 0

/-- Whether a dyadic is an integer, and a multiple of 1/2. -/
def Dyadic.isInt (x : Dyadic) : Bool := decide (0 ≤ x.e) || x.m % 2 ^ (-x.e).toNat == 0

/-- The integer a dyadic is (its floor). -/
def Dyadic.floor (x : Dyadic) : Int :=
  if 0 ≤ x.e then x.m * 2 ^ x.e.toNat else x.m / 2 ^ (-x.e).toNat

/-- A NaN operand quieted, or what the table of R291 gives. -/
def special1 (x : Nat) (k : Fp → Res) : Res := nanFirst .f32 [x] fun _ => k (Fmt.decode .f32 x)

/-- NaN with NV (R291). -/
def invalid : Res := (Fmt.genNan .f32, Flg.nv)

def infOf (neg : Bool) : Nat := Fmt.withSign .f32 neg (Fmt.infCode .f32)
def zeroOf (neg : Bool) : Nat := Fmt.withSign .f32 neg 0
/-- 1.0 with a sign. -/
def oneOf (neg : Bool) : Nat := Fmt.withSign .f32 neg 0x3F800000

/-- R291: RCP. -/
def fRcp (md : Rm) (x : Nat) : Res := special1 x fun
  | .inf s => (zeroOf s, 0)
  | .fin s m e => if m = 0 then (infOf s, Flg.dz) else roundMag .f32 md false s (rcpMag m e)
  | .nan .. => invalid

/-- R291: RSQ. -/
def fRsq (md : Rm) (x : Nat) : Res := special1 x fun
  | .inf s => if s then invalid else (0, 0)
  | .fin s m e =>
    if m = 0 then (infOf s, Flg.dz) else if s then invalid else roundMag .f32 md false false (rsqMag m e)
  | .nan .. => invalid

/-- R291: SQRT. -/
def fSqrt (md : Rm) (x : Nat) : Res := special1 x fun
  | .inf s => if s then invalid else (infOf false, 0)
  | .fin s m e =>
    if m = 0 then (zeroOf s, 0) else if s then invalid else roundMag .f32 md false false (sqrtMag m e)
  | .nan .. => invalid

/-- R291: EXP2. Beyond 2^10 the result's class no longer depends on x. -/
def fExp2 (md : Rm) (x : Nat) : Res := special1 x fun
  | .inf s => (if s then 0 else infOf false, 0)
  | .fin s m e =>
    if m = 0 then (oneOf false, 0)
    else if 10 ≤ (Nat.log2 m : Int) + e then
      roundMag .f32 md false false ⟨1, if s then -1000 else 1000, true⟩
    else
      let d : Dyadic := ⟨signed s m, e⟩
      if d.isInt then roundMag .f32 md false false ⟨1, d.floor, false⟩
      else roundMag .f32 md false false (exp2Mag d)
  | .nan .. => invalid

/-- R291: LOG2. -/
def fLog2 (md : Rm) (x : Nat) : Res := special1 x fun
  | .inf s => if s then invalid else (infOf false, 0)
  | .fin s m e =>
    if m = 0 then (infOf true, Flg.dz)
    else if s then invalid
    else if m = 2 ^ Nat.log2 m then roundDy .f32 md false false ⟨(Nat.log2 m : Int) + e, 0⟩
    else
      let (neg, v) := log2Val m e
      roundMag .f32 md false neg v
  | .nan .. => invalid

/-- R291: SINPI. -/
def fSinpi (md : Rm) (x : Nat) : Res := special1 x fun
  | .inf _ => invalid
  | .fin s m e =>
    let d : Dyadic := ⟨signed s m, e⟩
    if d.isInt then (zeroOf s, 0)
    else if (Dyadic.mk (2 * d.m) d.e).isInt then (oneOf (d.floor % 2 == 1), 0)
    else
      let (neg, v) := sinPiVal d
      roundMag .f32 md false neg v
  | .nan .. => invalid

/-- R291: COSPI, as the sine half a unit on. -/
def fCospi (md : Rm) (x : Nat) : Res := special1 x fun
  | .inf _ => invalid
  | .fin s m e =>
    let d : Dyadic := ⟨signed s m, e⟩
    if d.isInt then (oneOf (d.floor % 2 == 1), 0)
    else if (Dyadic.mk (2 * d.m) d.e).isInt then (0, 0)
    else
      let (neg, v) := sinPiVal (d.add ⟨1, -1⟩)
      roundMag .f32 md false neg v
  | .nan .. => invalid

/-- R291: TANH. -/
def fTanh (md : Rm) (x : Nat) : Res := special1 x fun
  | .inf s => (oneOf s, 0)
  | .fin s m e => if m = 0 then (zeroOf s, 0) else roundMag .f32 md false s (tanhMag m e)
  | .nan .. => invalid

end Sys2Proof
end

