-- ==== Sys2Proof/Machine/Convert.lean ====
section
/-! DEFINITION. Conversions between number formats (R182, R190 to R192, R277 to R280) and the block quantisation of R198
and R199. Values are raw register contents as naturals. -/

namespace Sys2Proof

/-- The floating format of a type; ue4m3 reads and rounds as e4m3 (R185). -/
def Ty.fmt : Ty → Option Fmt
  | .f32 => some .f32
  | .f16 => some .f16
  | .bf16 => some .bf16
  | .e4m3 | .ue4m3 => some .e4m3
  | .e5m2 => some .e5m2
  | _ => none

/-- R182: the integer a raw value reads as in an integer type. -/
def Ty.toInt (t : Ty) (raw : Nat) : Int :=
  let v := raw % 2 ^ t.width
  if t.signed && decide (2 ^ (t.width - 1) ≤ v) then (v : Int) - 2 ^ t.width else v

/-- R182: an integer wrapped into a type and extended to a whole register. -/
def Ty.ofInt (t : Ty) (x : Int) : Nat :=
  let w := 32 * t.regs
  let v := (x % 2 ^ t.width).toNat
  if t.signed && decide (2 ^ (t.width - 1) ≤ v) then v + 2 ^ w - 2 ^ t.width else v

def Ty.minInt (t : Ty) : Int := if t.signed then -(2 ^ (t.width - 1) : Int) else 0
def Ty.maxInt (t : Ty) : Int := if t.signed then 2 ^ (t.width - 1) - 1 else 2 ^ t.width - 1

/-- R182, R263: an exact integer narrowed to a type, clamped where saturation is named. -/
def Ty.fit (t : Ty) (sat : Bool) (x : Int) : Nat :=
  t.ofInt (if sat then max t.minInt (min t.maxInt x) else x)

/-- R191: a code of a format widened to f32. -/
def widen (t : Fmt) (bits : Nat) : Res :=
  match t.decode bits with
  | .nan neg frac s =>
    match t with
    | .f32 => (bits, 0)
    | .e4m3 => (Fmt.withSign .f32 neg 0x7FC00000, 0)
    | .e5m2 => (Fmt.withSign .f32 neg (0x7F800000 + frac * 2 ^ 21), 0)
    | _ => (Fmt.withSign .f32 neg ((0x7F800000 + frac * 2 ^ (23 - t.f)) ||| 0x00400000), Flg.when s Flg.nv)
  | .inf neg => (infOf neg, 0)
  | .fin neg m e => roundDy .f32 .rne false neg ⟨signed neg m, e⟩

/-- R190: an f32 narrowed to a format, with the special inputs of its table. -/
def narrow (t : Fmt) (m : Rm) (sat : Bool) (x : Nat) : Res :=
  match Fmt.decode .f32 x with
  | .nan neg frac s =>
    match t with
    | .f32 => (x, 0)
    | .e4m3 => (t.withSign neg 0x7F, 0)
    | .e5m2 => (t.withSign neg (t.infCode + (if frac / 2 ^ 21 = 0 then 2 else frac / 2 ^ 21)), 0)
    | _ => (t.withSign neg (t.quiet (t.infCode + frac / 2 ^ (23 - t.f))), Flg.when s Flg.nv)
  | .inf neg => (t.withSign neg t.infCode, Flg.when (t == .e4m3) Flg.nv)
  | .fin neg k e => roundDy t m sat neg ⟨signed neg k, e⟩

/-- R277: the f32 that a floating source gives; a ue4m3 code with bit 7 set is NaN and raises NV. -/
def cvtSource (s : Ty) (raw : Nat) : Res :=
  let v := raw % 2 ^ s.width
  match s.fmt with
  | none => (0, 0)
  | some f =>
    if s == .ue4m3 && decide (0x80 ≤ v) then (0x7FC00000, Flg.nv)
    else widen f v

/-- R277: what ue4m3 makes of a value it cannot hold. -/
def toUe4m3 (m : Rm) (x : Nat) : Res :=
  match Fmt.decode .f32 x with
  | .nan .. => (0x7F, 0)
  | .inf _ => (0x7F, Flg.nv)
  | .fin neg k _ => if k = 0 then (0, 0) else if neg then (0x7F, Flg.nv) else narrow .e4m3 m false x

/-- R277: a finite value rounded to an integer by a mode, and whether that changed it. -/
def roundInt (m : Rm) (neg : Bool) (k : Nat) (e : Int) : Int × Bool :=
  let (r, inexact) := roundAt m neg ⟨k, e, false⟩ 0
  (signed neg r, inexact)

/-- R277: an f32 converted to an integer type. -/
def toInteger (t : Ty) (m : Rm) (x : Nat) : Res :=
  match Fmt.decode .f32 x with
  | .nan .. => (0, Flg.nv)
  | .inf neg => (t.ofInt (if neg then t.minInt else t.maxInt), Flg.nv)
  | .fin neg k e =>
    let (r, inexact) := roundInt m neg k e
    if r < t.minInt ∨ t.maxInt < r then (t.fit true r, Flg.nv) else (t.ofInt r, Flg.when inexact Flg.nx)

/-- R277: an integer converted to a floating type. -/
def ofInteger (t : Ty) (m : Rm) (sat : Bool) (x : Int) : Res :=
  match t.fmt with
  | none => (0, 0)
  | some f => if t == .ue4m3 && decide (x < 0) then (0x7F, Flg.nv) else roundDy f m sat false ⟨x, 0⟩

/-- R277: CVT of a raw source value. -/
def cvt (t s : Ty) (m : Rm) (sat : Bool) (raw : Nat) : Res :=
  if s.isInt then
    let x := s.toInt raw
    if t.isInt then (t.fit sat x, 0) else ofInteger t m sat x
  else
    let (x, fl) := cvtSource s raw
    let (r, fl') :=
      if t.isInt then toInteger t m x
      else if t == .ue4m3 then toUe4m3 m x
      else match t.fmt with
        | some f => narrow f m sat x
        | none => (0, 0)
    (r, fl ||| fl')

/-- R279: PACK: two elements narrowed into the old value of the destination. -/
def pack (t s : Ty) (m : Rm) (sat h : Bool) (old a b : Nat) : Res :=
  let (x, fa) := cvt t s m sat a
  let (y, fb) := cvt t s m sat b
  let w := t.width
  let pair := y % 2 ^ w * 2 ^ w + x % 2 ^ w
  let r :=
    if w = 16 then pair
    else if h then pair * 2 ^ 16 + old % 2 ^ 16 else old / 2 ^ 16 % 2 ^ 16 * 2 ^ 16 + pair
  (r, fa ||| fb)

/-- R280: UNPACK of element `e`. -/
def unpack (s : Ty) (e : Nat) (raw : Nat) : Res :=
  let v := raw / 2 ^ (s.width * e) % 2 ^ s.width
  if s.isInt then ((if s.signed then Ty.i32 else Ty.n32).ofInt (s.toInt v), 0) else cvtSource s v

/-! ### Quantised rows -/

/-- R198: the scale code of a block whose largest magnitude is `a / 2^149`, `a` nonzero. -/
def scaleCode (a : Nat) : Nat :=
  -- the smallest code from 0x01 to 0x7E whose value is at least a / 448
  let ok := fun (c : Nat) =>
    match Fmt.decode .e4m3 c with
    | .fin _ m e => decide (a ≤ 448 * m * 2 ^ (e + 149).toNat)
    | _ => false
  ((List.range 0x7E).map (· + 1)).find? ok |>.getD 0x7E

/-- A finite f32's magnitude in units of 2^-149. -/
def magUnits (x : Nat) : Nat :=
  match Fmt.decode .f32 x with
  | .fin _ m e => m * 2 ^ (e + 149).toNat
  | _ => 0

/-- R198: RND_e4m3 of the exact quotient x / s. -/
def quantElem (x code : Nat) : Nat :=
  match Fmt.decode .f32 x, Fmt.decode .e4m3 code with
  | .fin neg m e, .fin _ k f =>
    if m = 0 then 0
    else
      let n := m * 2 ^ 64
      let r := (roundMag .e4m3 .rne false neg ⟨n / k, e - f - 64, n % k != 0⟩).1
      if r % 0x80 = 0 then 0 else r
  | _, _ => 0x7F

/-- R198: a block of 32 f32 elements: scale code, element codes, and whether the row is marked non-finite. -/
def quantBlock (xs : List Nat) : Nat × List Nat × Bool :=
  if xs.any fun x => let v := Fmt.decode .f32 x; v.isNan || v.isInf then (0x7F, xs.map fun _ => 0x7F, true)
  else
    let a := xs.foldl (fun m x => max m (magUnits x)) 0
    if a = 0 then (0, xs.map fun _ => 0, false)
    else
      let s := scaleCode a
      (s, xs.map fun x => quantElem x s, false)

/-- R199: the f32 an element code stands for under a scale code, exactly, and NV for an invalid scale (R185). -/
def dequant (e s : Nat) : Res :=
  if 0x80 ≤ s then (0x7FC00000, Flg.nv)
  else match Fmt.decode .e4m3 e, Fmt.decode .e4m3 s with
    | .fin neg m x, .fin _ k y => roundDy .f32 .rne false neg ⟨signed neg (m * k), x + y⟩
    | _, _ => (0x7FC00000, 0)

end Sys2Proof
end

