-- ==== Sys2Proof/Machine/State.lean ====
section
/-! DEFINITION. The state of the X16: everything the spec gives the machine, as plain data. Tables are keyed lists in one
canonical form (`Tab`, keys rising); a register a table does not list holds zero. -/

namespace Sys2Proof.Machine

open Sys2Proof

/-! ### Inside a core: streams and blocks -/

/-- Why a started clause does not go on (R136, R141, R143, R150, R301, R331). A SAWAIT waits at a row's page for a count, to write a status
register and lower a counter; `status` is what the row's home has decided (R212). -/
inductive Wait where
  | queue (q : Nat)
  | mask (m : Nat)
  | fullEmpty
  | barrier (nb : Nat)
  | fence (op : Nat)
  | sawait (page st want : Nat) (ctr : Option (Fin 8)) (status : Option Nat)
  | engine
  deriving DecidableEq, Repr

/-- R150: an access that waits at full-empty bits: when it arrived, its granules' memory keys / 16, and whether it waits for them to be
full. -/
structure FeWait where
  since : Nat
  grs : List Nat
  full : Bool
  deriving DecidableEq, Repr

/-- R136, R245: a started clause (or what is left of it): the group's threads, the header's address, the clause's words as
fetched, the index of the next word, its header's class, and what the group waits for; of the word it stands at, its arrival at
full-empty bits (R150) and whether it has been counted as a lookahead miss (R144). -/
structure Run where
  mask : W32
  hdr : W64
  cls : Nat
  words : List W64
  idx : Nat
  yieldBit : Bool
  blk : Option Wait
  fe : Option FeWait := none
  missed : Bool := false
  relDone : Bool := false
  deriving DecidableEq, Repr

/-- R309, R312: a warp's handler: pre-emption or trap, the threads that entered, the clauses it interrupted and the pcs that
its threads stood at. -/
structure Handler where
  pre : Bool
  entered : W32
  runs : List Run
  pcs : Tab W64
  deriving DecidableEq, Repr

/-- R143: an arrival not yet used up: the header its thread waits at, and whether its phase has completed. -/
structure Arrival where
  hdr : W64
  released : Bool
  deriving DecidableEq, Repr

/-- R7, R129, R138, R144, R308: one warp. Registers are keyed `register * 32 + lane`; pending keys are those of the
registers, and `8192 + predicate * 32 + lane`; `badAhead` gives, beside the clauses fetched ahead, the RA and the store of their first
poisoned words (R245). -/
structure Warp where
  regs : Tab W32
  preds : Tab (BitVec 8)
  fflags : Tab (BitVec 8)
  pc : Tab W64
  tpc : Tab W64
  tpcSet : W32
  masks : Tab W32
  exited : W32
  waiters : Tab W32
  leavers : Tab W32
  tcause : W32
  tmask : W32
  tdst : W32
  handler : Option Handler
  suspended : Bool
  stklim : W32
  ctr : Tab Nat
  pend : Tab Nat
  runs : List Run
  ahead : Tab (List W64)
  arr : Tab Arrival
  lastLane : Nat
  yielded : Bool
  preTaken : Bool
  pdone : Option W32
  badAhead : Tab (Nat × Nat) := []
  deriving DecidableEq, Repr

/-- R140: an address generator. -/
structure Gen where
  base : W64
  stride : List (BitVec 32)
  ext : List (BitVec 16)
  idx : List (BitVec 16)
  done : Bool
  deriving DecidableEq, Repr

/-- R312: a stop of the sequencer for a trap not yet delivered: cause, whether at a header, and the TRAP code. -/
structure SeqTrap where
  cause : Nat
  header : Bool
  code : W32
  delivered : Bool
  deriving DecidableEq, Repr

/-- R7, R129, R139: the sequencer context of a block. -/
structure Seq where
  pc : W64
  tpc : W64
  flags : BitVec 8
  inPre : Bool
  suspended : Bool
  sexit : Bool
  trap : Option SeqTrap
  s : Tab W64
  gens : Tab Gen
  ctr : Tab Nat
  pend : Tab Nat
  run : Option Run
  saved : Option Run
  ahead : Tab (List W64)
  arr : Tab Bool
  yielded : Bool
  preTaken : Bool
  pdone : Bool
  badAhead : Tab (Nat × Nat) := []
  deriving DecidableEq, Repr

/-- R141, R142, R342: a queue entry; `ready` is false while an LDQ's data is on its way. -/
structure QEntry where
  id : Nat
  data : List W32
  tag : Nat
  popped : W32
  ready : Bool
  deriving DecidableEq, Repr

/-- R143: a numbered barrier. -/
structure Bar where
  phase : Bool
  expect : Nat
  arrived : Nat
  deriving DecidableEq, Repr

/-- R364, R365: a pin: 16 KiB of bytes, those that were poisoned, and whether its fetch has completed. -/
structure Pin where
  bytes : Tab Byte
  poison : Nat
  ready : Bool
  deriving DecidableEq, Repr

/-- R348 to R350, R359: a copy-engine chain. `reading` says that a read is on its way, `word` is the CHAIN's address,
`waits` says that a COND has found its condition not to hold and reads its word again later. -/
structure Chain where
  base : Nat
  idx : Nat
  counts : Tab Nat
  os : Int
  od : Int
  row : Nat
  piece : Nat
  running : Bool
  status : W64
  op : Nat
  expired : Bool
  reading : Bool
  word : W64
  waits : Bool := false
  entry : List Byte := []
  deriving DecidableEq, Repr

/-- R352: a collective slot of a block; `bufs` are the buffers that its collective names, by VA and bytes (R167). -/
structure CollSlot where
  key : Nat
  busy : Bool
  status : Nat
  op : Nat
  bufs : List (Nat × Nat)
  deriving DecidableEq, Repr

/-- R110: a launch record as read, with its VA and the trap table's sixteen entries (R111). -/
structure Rec where
  lrec : W64
  lanePc : W64
  seqPc : W64
  param : W64
  gridX : Nat
  gridY : Nat
  gridZ : Nat
  warps : Nat
  cblocks : Nat
  vregs : Nat
  ztiles : Nat
  scratch : Nat
  cscratch : Nat
  saRows : Nat
  saLen : Nat
  saAnch : Nat
  dieMask : Nat
  place : Nat
  flags : Nat
  deadline : Nat
  privWords : Nat
  privBase : W64
  preLane : W64
  preSeq : W64
  trapTab : W64
  doneSig : W64
  traps : List W64
  deriving DecidableEq, Repr

/-- R118, R357: what a consumer block holds of its record queue. -/
structure Consumer where
  graph : Nat
  node : Nat
  first : Nat
  count : Nat
  popped : Nat
  freed : Nat
  deriving DecidableEq, Repr

/-- R128, R129, R154: a save frame: why it was made, what was left of the deadline, what the core's and (of rank 0) the die's scratchpad
held, by offset, and the core and the round whose writes land before the block is restored. -/
structure Frame where
  reason : Nat
  dleft : Nat
  core : Nat
  round : Nat
  scratch : Tab Byte
  full : Tab Bool
  poison : Tab Nat
  chip : Tab Byte
  chipFull : Tab Bool
  chipPoison : Tab Nat
  deriving DecidableEq, Repr

/-- R112, R114, R132, R136 to R150: a placed or saved block. `home` is (die, core) while resident; `released` says that the
release of its completion (R75) has begun, `gone` that it has completed and only stays with its cluster (R114), `tileBad` which tiles
hold poison (R103); `seqCtx` is its sequencer context (R139), `since` the cycle count of its die when the pre-emption request arrived
(R125), `saving` the reason of a save that waits (R59, R296); `tilePoison` is the poison of the tiles' granules, by tile * 4096 + granule. -/
structure Block where
  ctx : Nat
  grid : Nat
  cluster : Nat
  rank : Nat
  blockid : Nat
  rcd : Rec
  home : Option (Nat × Nat)
  slots : List Nat
  scratchBase : Nat
  warps : Tab Warp
  seq : Seq
  queues : Tab (List QEntry)
  bars : Tab Bar
  tiles : Tab W32
  zheld : BitVec 8
  zgranted : BitVec 8
  pins : Tab Pin
  chains : Tab Chain
  colls : Tab CollSlot
  consumer : Option Consumer
  frame : Option Frame
  preempt : Bool
  dleft : Nat
  released : Bool := false
  tileBad : BitVec 8 := 0
  seqCtx : Nat := 0
  gone : Bool := false
  since : Nat := 0
  saving : Option Nat := none
  tilePoison : Tab Nat := []
  deriving DecidableEq, Repr

/-- R114, R125: a cluster: its blocks, its die and hardware cluster, and its chip scratchpad. -/
structure Cluster where
  grid : Nat
  blocks : List Nat
  die : Nat
  hw : Nat
  chipBase : Nat
  chipSize : Nat
  resident : Bool
  order : Nat
  deriving DecidableEq, Repr

/-- What completing an op does beyond lowering its counter: nothing, writing loaded bytes to lane or scalar registers, pushing a queue
entry, holding a pin, writing a tile, moving a chain on; adding a read source to a row, installing a read image; sending a drained tile
once its release is done (to places in memory by VA and RA); launching a read record; sending a collective's part or a contribution;
pushing records (`rqCopy` copies one into its slot, `rqLand` ends when it has landed); setting full-empty bits when a prefetch has landed;
counting a host write as landed, answering a host read (R69). Rows are named by RA / 2^14. -/
inductive Fin' where
  | plain
  | lanes (sz : Size) (d : Nat) (ls : List Nat)
  | scalar (sz : SSize) (d : Nat)
  | entry (q id : Nat)
  | pin (p : Nat)
  | tile (z : Nat)
  | chain (slot : Nat)
  | rowAdd (row : Nat) (fmt : RowFmt) (first n : Nat)
  | rowLoad (row va : Nat) (head : Bool)
  | rowOut (row : Nat)
  | drainPad (keys : List Nat)
  | drainMem (places : List (Nat × Nat))
  | drainRow (rows : List Nat) (first : Nat)
  | launch (va : Nat)
  | collHead (slot : Nat)
  | collBody (slot : Nat) (desc : List Byte)
  | redc (line ready anchor n : Nat)
  | rqTable (src stride : W64) (lanes : List (Nat × Nat))
  | rqPush (pushed bad : Nat)
  | rqCopy (dst n : Nat)
  | rqLand
  | lineDone (uid ctx die ready : Nat)
  | relFirst
  | saveRel
  | prefetch (grs : List Nat)
  | host (fn : Nat)
  | hostRead (fn n : Nat)
  deriving DecidableEq, Repr

/-- A long-latency instruction under way (R144): whose it is, its counter, the values it writes when it completes (keyed like
the pending registers; for the sequencer, by s register), the bytes it has loaded, how much of it is outstanding, and the
poison of bytes that it moves (`bad`, 0 or a store code plus 1). `retry` says that its next part has still to begin. -/
structure Op where
  uid : Nat
  st : Stream
  ctr : Option (Fin 8)
  word : W64
  pc : W64
  dests : List (Nat × W64)
  flags : List (Nat × BitVec 8)
  got : Tab Byte
  fin : Fin'
  left : Nat
  sfu : Nat
  bad : Nat
  retry : Bool := false
  deriving DecidableEq, Repr

/-! ### Memory -/

/-- R91: one piece of an access as the records of a fault see it: its lane (0xFF for the sequencer or an engine) and place. -/
structure Touch where
  lane : Nat
  va : Nat
  len : Nat
  deriving DecidableEq, Repr

/-- R157: one lane's part of an access that is served as one event: its place, and the place of its first byte among the bytes that
the op loads. -/
structure Piece where
  t : Touch
  ra : Nat
  at' : Nat
  deriving DecidableEq, Repr

/-- R151, R162: a line of a core's L1 (or a lent line): the request type and scope of its fill, the holder whose home slice it came
from, its owner tag (R33: context + 1024 * generation), its valid bytes, and which of them are dirty (.si) or privatised (.own);
`poison` is the poison of its granules, 0 to 7 (R103). Keyed by RA / 128. -/
structure Line where
  ty : ReqTy
  wide : Bool
  holder : Nat
  tag : Nat
  data : Tab Byte
  dirty : BitVec 128
  own : BitVec 128
  poison : Tab Nat
  deriving DecidableEq, Repr

/-- R87: a TLB entry: the page's level, its RA, its leaf bits [19:14], and the generation it was walked under. -/
structure TlbEntry where
  ctx : Nat
  va : Nat
  level : Nat
  ra : Nat
  perm : Nat
  gen : Nat
  deriving DecidableEq, Repr

/-- R160: a release under way in a core: the round it waits for and the op it completes. -/
structure Release where
  round : Nat
  op : Nat
  acquire : Option Scope
  deriving DecidableEq, Repr

/-- R87, R160, R245: a core: caches and release rounds. `sent` counts by round the writes that the core has sent; `dests` is its
destination set and `arrived` what each home slice and holder has counted, both by round * 2^14 + device * 16 + die; `misses` is the
performance counter of lookahead misses (R144). -/
structure Core where
  l1 : Tab Line
  icache : Tab W64
  tlb : List TlbEntry
  rnd : BitVec 16
  sent : Tab Nat
  dests : Tab Bool
  arrived : Tab Nat
  rels : List Release
  quarantined : Bool
  misses : Nat := 0
  deriving DecidableEq, Repr

/-- Who made a request or a write: a stream, an engine's command of a block, its copy-engine chains, the host, the memory processor. -/
inductive Agent where
  | stream (uid : Nat) (st : Stream)
  | engine (uid : Nat)
  | chain (uid : Nat)
  | host (fn : Nat)
  | mp (ctx : Nat)
  deriving DecidableEq, Repr

/-- Whose access a fault record names (R91, R98): `warp` is the slot, 0xFE or 0xFF; `acc` is ACC. -/
structure Who where
  agent : Agent
  ctx : Nat
  die : Nat
  core : Nat
  warp : Nat
  pc : W64
  acc : Nat
  deriving DecidableEq, Repr

/-- R159, R160: a write on its way to its holders: its bytes by RA, the core's round it counts in, and the holders it has
still to be applied at. -/
structure Wr where
  agent : Agent
  core : Option Nat
  round : Nat
  ctx : Nat
  bytes : Tab Byte
  holder : Nat
  left : List Nat
  op : Option Nat
  poison : Nat
  deriving DecidableEq, Repr

/-- R47: the writes of one line at its locked home, oldest first; of the first one, the holders that have marked the line
locked, those that have still to acknowledge, whether the home has applied it, and its bytes on their way. -/
structure LineLock where
  home : Nat
  locked : List Nat
  acks : List Nat
  applied : Bool
  write : Option Nat
  queue : List Nat
  deriving DecidableEq, Repr

/-- What a request does to memory (R91 ACC). An `engineRead` moves bytes, an `engineUse` consumes them (R103). -/
inductive Acc where
  | load | store | atomic | fetch | engineRead | engineUse | engineWrite | route
  deriving DecidableEq, Repr

/-- What a request waits for (R40, R47, R90, R109; `handover`: the marker of R53). -/
inductive Held where
  | unrouted | unreachable | homeless | lostData | regen | promote | cow | locked | channel | moving | handover
  deriving DecidableEq, Repr

/-- R328: an atomic: operation, bytes, operand and swap value. -/
structure AtomReq where
  op : Aop
  n : Nat
  opd : Nat
  swp : Nat
  deriving DecidableEq, Repr

/-- A request that has left its core and is not yet served (R40, R90, R92). `at'` is the place of its first byte among the bytes its op
loads; `bytes` are a store's, by RA; `round` is the release round a store counts in; `noted` says that its fault record is written;
`poison` is 0 or the poison that a write carries (R103); `sd` is the shoot-down that a served copy-on-write fault waits for; `parts` are
the lanes' parts of a fully coalesced access (R157). -/
structure Req where
  acc : Acc
  agent : Agent
  ctx : Nat
  die : Nat
  core : Option Nat
  va : Nat
  ra : Nat
  len : Nat
  req : ReqTy
  wide : Bool
  lane : Nat
  bytes : Tab Byte
  at' : Nat
  op : Option Nat
  aop : Option AtomReq
  round : Nat
  why : Held
  noted : Bool
  poison : Nat
  sd : Option Nat := none
  parts : List Piece := []
  deriving DecidableEq, Repr

/-! ### Routes -/

/-- R38: entry states. -/
inductive EState where
  | active | draining | filling | regen | failed
  deriving DecidableEq, Repr

/-- R37: a route-table entry that is not FREE. `nhop` is a neighbour; for a regeneration entry `holder` is the handle. -/
structure Entry where
  pfx : Nat
  len : Nat
  st : EState
  home : Bool
  lock : Bool
  holder : Nat
  cost : Nat
  nhop : Hop
  ctx : Nat
  ver : Nat
  deriving DecidableEq, Repr

/-- R397: a retired record. -/
structure Retired where
  pfx : Nat
  len : Nat
  holder : Nat
  ver : Nat
  deriving DecidableEq, Repr

/-- R37, R41, R43: a route engine (0 to 7 the dies, 8 the IOD), with the fence queries it has still to answer. -/
structure Engine where
  entries : List Entry
  retired : List Retired
  discards : Nat
  loops : Nat
  queries : List Msg
  deriving DecidableEq, Repr

/-- R51: the kinds of route operation; `peerFill`: a fill, or a move of the home, that a peer's authority makes to a holder here. -/
inductive RKind where
  | announceHome | announceReplica | withdraw | replicate | migrate | rfence | takeover | peerFill
  deriving DecidableEq, Repr

/-- R50 to R54, R58: a route operation under way. `phase` counts its steps; `ver` is the version it waits for; `acks` are
the engines that have still to answer its fence, each as device * 16 + die, and `asker` is the engine of this device that issued it
(R41). One of the memory processor's own has no `uid`. -/
structure ROp where
  kind : RKind
  uid : Option Nat
  op : Nat
  ctx : Nat
  die : Nat
  pfx : Nat
  len : Nat
  holder : Nat
  old : Nat
  lock : Bool
  phase : Nat
  ver : Nat
  acks : List Nat
  dst : Option Nat
  status : Nat
  asker : Nat := 0
  deriving DecidableEq, Repr

/-- R55, R85: a regeneration handle: its grant's record (its VA, and its bytes as they were when the range was granted), parameter
block and mode, and the regeneration under way. -/
structure Regen where
  ctx : Nat
  lrec : W64
  copy : List Byte
  param : W64
  lock : Bool
  depth : Nat
  grid : Option Nat
  pfx : Nat
  len : Nat
  holder : Nat
  deriving DecidableEq, Repr

/-- R88: a shoot-down under way: the range, the new generation, the dies that have not completed it, and what the entries removed on
each die translated to: (die, RA, bytes). -/
structure Shoot where
  ctx : Nat
  va : Nat
  len : Nat
  gen : Nat
  dies : List Nat
  removed : List (Nat × Nat × Nat) := []
  deriving DecidableEq, Repr

/-- R83, R88: a walk under way, and the access that it is made for. -/
structure Walk where
  die : Nat
  ctx : Nat
  va : Nat
  gen : Nat
  marked : Bool
  who : Who
  touches : List Touch
  deriving DecidableEq, Repr

/-! ### The stream accumulator -/

/-- R203. -/
inductive RowState where
  | live | sealed | evicted
  deriving DecidableEq, Repr

/-- R204, R205: a row in its home's store, with its flags, its place (segment, offset) and its owner tag. -/
structure Row where
  st : RowState
  w : Tab (BitVec 128)
  flag : Tab Bool
  sum : BitVec 160
  ssq : BitVec 272
  count : Nat
  restored : Bool
  ovf : Bool
  die : Nat
  seg : Nat
  off : Nat
  tag : Nat
  len : Nat
  anchor : Int
  poison : Bool
  deriving DecidableEq, Repr

/-- R200, R202: a row set, with the grid it belongs to where a launch record made it. -/
structure RowSet where
  ctx : Nat
  handle : W64
  nrows : Nat
  pitch : Nat
  len : Nat
  grid : Option Nat
  deriving DecidableEq, Repr

/-- R217: a line state of a contribution-counted reduction. -/
structure RedcLine where
  ctx : Nat
  die : Nat
  anchor : Nat
  n : Nat
  count : Nat
  w : Tab (BitVec 128)
  flag : Tab Bool
  ready : Nat
  deriving DecidableEq, Repr

/-- R217, R354: a contribution on its way to its line; line and ready word are named by RA; `core` is the core that sent it, and
`round` the release round that it counts in. -/
structure Contribution where
  uid : Nat
  ctx : Nat
  die : Nat
  line : Nat
  anchor : Nat
  n : Nat
  words : List W32
  ready : Nat
  op : Nat
  core : Nat
  round : Nat
  deriving DecidableEq, Repr

/-- R352, R353: one participant's part of a collective; `pc` is its COLL's (R101). -/
structure Part where
  uid : Nat
  slot : Nat
  rank : Nat
  dst : Nat
  data : List Byte
  timeout : Nat
  pc : W64
  deriving DecidableEq, Repr

/-- R353: a collective instance at its root: the parts that wait for its outcome, how many have come, the outcome, and the op
of its destination writes. -/
structure Coll where
  ctx : Nat
  oper : Nat
  npart : Nat
  bytes : Nat
  anchor : Nat
  root : Nat
  parts : List Part
  seen : List Nat
  outcome : Option Nat
  op : Option Nat
  deriving DecidableEq, Repr

/-! ### Host side and scheduling -/

/-- R98: an error record before SEQ and DROPS are put in; `body` is bytes 32 to 63. -/
structure ErrRec where
  code : Nat
  exact : Bool
  redun : Bool
  ctx : Nat
  die : Nat
  core : Nat
  warp : Nat
  pc : W64
  stamp : Nat
  body : List Byte
  keep : Bool
  deriving DecidableEq, Repr

/-- R69, R84: a grant of a context. -/
structure Grant where
  va : Nat
  len : Nat
  perm : Nat
  kind : Nat
  backA : W64
  backB : W64
  flags : Nat
  ra : Nat
  deriving DecidableEq, Repr

/-- R67, R68, R81, R100, R108: a context; `ended` says that its loss has been carried out. -/
structure Ctx where
  fn : Nat
  gen : Nat
  keyNo : Nat
  ceil : Nat
  redun : Bool
  dlaunch : Bool
  devrec : Bool
  rquota : Nat
  qquota : Nat
  origin : Option (Nat × Nat)
  eqBase : W64
  eqN : Nat
  eqSeq : Nat
  eqDrops : Nat
  eqHeld : List ErrRec
  rootRa : Nat
  rootLog : Nat
  tgen : Nat
  grants : List Grant
  freeing : Option (Nat × Nat)
  lost : Option Nat
  later : Nat
  ended : Bool := false
  deriving DecidableEq, Repr

/-- R69: a BAR4 window. -/
structure Win where
  ctx : Nat
  base : Nat
  deriving DecidableEq, Repr

/-- R69: host accesses that wait for the BAR4 writes posted before them: tail writes of the mailbox and of a queue, BAR4 reads. -/
inductive Posted where
  | mailbox (v : W32)
  | tail (q : Nat) (v : W32)
  | read (ctx ra n : Nat)
  deriving DecidableEq, Repr

/-- R20, R60, R61, R79: a function: its mailbox registers, limits, windows, AER status (PCIe's bits: notes/assumptions/74.md), the global
numbers of its queues by local number, the request in service (R63), and what it has posted. -/
structure Fn where
  reqLo : W32
  reqHi : W32
  rspLo : W32
  rspHi : W32
  tail : W32
  head : W32
  done : W32
  vec : W32
  hosterr : W32
  errvec : W32
  maxCtx : Nat
  maxQ : Nat
  maxVec : Nat
  maxWin : Nat
  ceil : Nat
  wins : Tab Win
  aerUncor : W32
  aerCor : W32
  locals : Tab Nat
  cur : Option (BitVec 512)
  posted : List Posted
  deriving DecidableEq, Repr

/-- R71: queue states. -/
inductive QState where
  | free | active | closing | error | aborting
  deriving DecidableEq, Repr

/-- R73, R74: a packet that has been taken and has not completed; `op` is the op of what it waits for to land, `due` says that a
wait is to be evaluated. One that has sent its queue to ERROR stays with KIND 0. -/
structure Pkt where
  kind : Nat
  user : W32
  irq : Bool
  sop : Nat
  body : List W64
  started : Bool
  finished : Bool
  op : Option Nat
  bar : Bool
  due : Bool
  deriving DecidableEq, Repr

/-- Work that a queue has ready for the dispatcher (R121): the next cluster of a grid, or a saved gang. -/
inductive Work where
  | grid (id : Nat)
  | gang (cluster : Nat)
  deriving DecidableEq, Repr

/-- R70, R71, R121, R122: a work queue (or a context's device queue). -/
structure Queue where
  fn : Nat
  ctx : Nat
  locNo : Nat
  ring : W64
  logN : Nat
  prio : Nat
  vec : Nat
  st : QState
  code : Nat
  tail : W32
  head : W32
  done : W32
  pkts : Tab Pkt
  hold : Option Nat
  closer : Option (Nat × Nat × BitVec 512)
  work : List Work
  deficit : Nat
  level : Nat
  passes : Nat
  starved : Bool
  deriving DecidableEq, Repr

/-- What a grid's completion reports to (R75, R117, R55, R355). -/
inductive Owner where
  | packet (q idx : Nat)
  | node (graph node : Nat)
  | consumer (graph node : Nat)
  | regen (handle : Nat)
  | device (parent : Nat)
  deriving DecidableEq, Repr

/-- R113, R115: a grid. `root` is the packet it descends from. -/
structure Grid where
  ctx : Nat
  q : Nat
  rcd : Rec
  owner : Owner
  root : Option (Nat × Nat)
  nextCluster : Nat
  doneBlocks : Nat
  handle : W64
  hasRows : Bool
  first : Nat
  count : Nat
  deriving DecidableEq, Repr

/-- R116 to R120: a graph node and, for KIND 2, its control block and timer. `slots` are the reserved slots that are not
counted in FILLED, in order: true once the record has landed. `pfWant` says that a prefetch is to start, `ctlWant` that the control block
has still to be written, once its page may be. -/
structure Node where
  kind : Nat
  waits : Nat
  rcd : Rec
  succ : List Nat
  ringVa : W64
  ctlVa : W64
  slotB : Nat
  cap : Nat
  tile : Nat
  homeDie : Nat
  pfDest : Nat
  flush : Nat
  pfLen : Nat
  pfSrc : W64
  pfDst : W64
  tokens : Nat
  started : Bool
  done : Bool
  free : Nat
  filled : Nat
  head : Nat
  tail : Nat
  used : Nat
  slots : List Bool
  armed : Bool
  pfWant : Bool
  pfOp : Option Nat
  ctlWant : Bool := false
  consumers : Nat
  deriving DecidableEq, Repr

/-- R116: a graph under way. -/
structure Graph where
  ctx : Nat
  q : Nat
  idx : Nat
  nodes : Tab Node
  deriving DecidableEq, Repr

/-- R356: a lane's record push that has not been counted as filled: its slot, once it has one, and its copy's op. -/
structure Push where
  uid : Nat
  op : Nat
  graph : Nat
  node : Nat
  slot : Option Nat
  src : Nat
  copy : Option Nat
  deriving DecidableEq, Repr

/-- R15: a clock island: MHz and mV. -/
structure Island where
  mhz : Nat
  mv : Nat
  deriving DecidableEq, Repr

/-- R21: a scale-up port. -/
structure Port where
  enabled : Bool
  down : Bool
  cost : Nat
  replays : Nat
  deriving DecidableEq, Repr

/-- R24 to R31, R9 to R22: the package: power, bring-up registers, flash (`bootseq`, the boot record, the firmware slots and the
one that last passed, with the decisions' sublinks and pin rates), fuses, clocks, links. `limit` is the limit asked for (R66);
`outDies` are the dies quarantined since the start, which LIVEMAP still shows (R14). -/
structure Pkg where
  powered : Bool
  bootstat : W32
  booterr : W32
  livemap : W32
  stackrate : W32
  nrdycnt : W32
  fwver : W32
  bootseq : W32
  ring : List (BitVec 128)
  sticky : List (BitVec 128)
  revoked : BitVec 4
  rollback : Nat
  slotA : FwImage
  slotB : FwImage
  sched : FwImage
  lastSlot : Bool
  rootSlot : Nat
  device : Nat
  retired : Tab (BitVec 16)
  rates : Tab Nat
  ports : Tab Port
  islands : Tab Island
  limit : Nat
  hostWidth : Nat
  hostGen : Nat
  outDies : BitVec 8
  cycles : Tab Nat
  deriving DecidableEq, Repr

/-- What the device sends to the host: interrupts, AER reports and SPDM answers, in order (R63, R69, R75, R100, R31). -/
inductive HostMsg where
  | msix (fn vec : Nat)
  | aer (fn : Nat)
  | data (fn : Nat) (bytes : List Byte)
  | spdm (code : Nat) (body : List Nat)
  deriving DecidableEq, Repr

/-- R68: what the memory processor tells those of the other devices of a domain context, which its origin's device and number name:
a loss with its cause, or that its origin has been freed. -/
inductive PeerMsg where
  | lost (dev ctx cause : Nat)
  | freed (dev ctx : Nat)
  deriving DecidableEq, Repr

/-- R102: the merging of corrections at one location. -/
structure Merge where
  loc : ErrLoc
  count : Nat
  deriving DecidableEq, Repr

/-- R109: a HBM channel: whether it is paused, the spares it has used, the lane under repair and when the pause began, and of
each lane the cycles of its last corrections, latest first. -/
structure Chan where
  paused : Bool
  spares : Nat
  lane : Nat
  since : Nat
  seen : Tab (List Nat)
  deriving DecidableEq, Repr

/-- R105: a defect of a core: of a physical lane (0 to 31), an array row of its matrix engine (32 to 159) or a sequencer ALU (160,
161): `sticky` false for one that a retry no longer shows. -/
structure Defect where
  die : Nat
  core : Nat
  lane : Nat
  sticky : Bool
  deriving DecidableEq, Repr

/-- R104: an adder that the next add finds failing its residue check, at a holder. -/
abbrev BadAdder := Nat

/-! ### The whole -/

/-- R156, R159: the bytes that a store puts in one granule of a scratchpad (memory key / 16) and that its bank has still to take. -/
structure PadOut where
  uid : Nat
  st : Stream
  ctx : Nat
  gr : Nat
  bytes : Tab Byte
  deriving DecidableEq, Repr

/-- The machine. Keys: `fns` by function (`lastFn` is the one whose request was taken last, R63), `ctxs`, `peerKeys` by the origin device
* 1024 + context of a member (R32, R68), `underway` by quadrant (the stream whose clause it has left unended while it could go on, R137),
`raPeer` by origin device, `queues` by global number (a context's device queue of a level at 2^17 + context * 64 + level), `engines` 0 to
8, `versions` by PFX * 64 + LEN (the version that messages to peers' engines have raised a prefix to, until one comes back), `filled` by
route operation (the RAs that propagated stores wrote during its fill, R52), `cores` by die * 128 + core, `mem` by space * 2^64 + address
(see `Key`), `tags` and `poison` by memory key / 128 and / 16, `full` by memory key / 16, `frames` by RA / 2^14 (`badFrames` names the
holder of each retired frame), `places` by holder * 2^64 + base RA + prefix length. `images` numbers, by the same key, what a placement
held before anything was written there: a copy of a prefix shares its source's number. `charges` are the entries that count against a
context's route quota (R49, R201), by the same key, with the domain context that owns them as device * 1024 + number. `poison` holds the
store code plus 1, for HBM 16 * (channel + 64 * symbol) beside it, and 2^18 times one more than the number of the granule where it arose
(R99, R103). `peerGrants` are (device, context, RA, bytes) granted by peers (R49); `orphans` the grants that have been revoked while a
frame of theirs is still mapped by another leaf (R93), with their contexts. -/
structure State where
  fresh : Nat
  agenda : List Instr
  schedule : List Nat
  cur : Option (Nat × Stream)
  underway : Tab (Nat × Stream)
  lastUnit : Nat
  lastSlots : Tab Nat
  lastStarts : Tab Nat
  lastTimer : Nat
  turns : Nat
  next : Nat
  pkg : Pkg
  out : List HostMsg
  portOut : List (Nat × Msg)
  peerOut : List PeerMsg
  fns : Tab Fn
  lastFn : Nat
  ctxs : Tab Ctx
  peerKeys : Tab Nat
  gens : Tab Nat
  queues : Tab Queue
  levelPtr : Tab Nat
  engines : Tab Engine
  rops : Tab ROp
  versions : Tab Nat
  filled : Tab (Tab Bool)
  regens : Tab Regen
  peerGrants : List (Nat × Nat × Nat × Nat)
  raNext : Nat
  raPeer : Tab Nat
  reqs : Tab Req
  writes : Tab Wr
  locks : Tab LineLock
  mem : Tab Byte
  tags : Tab Nat
  full : Tab Bool
  poison : Tab Nat
  ptes : Tab W64
  pageTags : Tab Nat
  frames : Tab Nat
  badFrames : List Nat
  places : Tab Nat
  images : Tab Nat
  charges : Tab Nat
  orphans : List (Nat × Grant)
  cores : Tab Core
  tlb2 : Tab (List TlbEntry)
  walks : List Walk
  shoots : Tab Shoot
  blocks : Tab Block
  clusters : Tab Cluster
  grids : Tab Grid
  graphs : Tab Graph
  pushes : List Push
  ops : Tab Op
  rowSets : Tab RowSet
  rows : Tab Row
  redcs : Tab RedcLine
  contribs : Tab Contribution
  colls : Tab Coll
  faultQ : List ErrRec
  merges : List Merge
  chans : Tab Chan
  defects : List Defect
  badAdders : List BadAdder
  padOut : List PadOut
  deriving DecidableEq, Repr

/-- Why the machine stops. -/
inductive Fault where
  /-- `exec` of an instruction in a state where no stream of its kind stands at an instruction. `step` never asks for it.
  Safe: a real machine has no such moment. -/
  | noStream
  deriving DecidableEq, Repr

/-- What the model declines to run. -/
inductive Refusal where
  /-- An instruction whose meaning is not written. Raised by an arm of `exec`, never by a meaning. Safe. -/
  | notModelled (mnemonic : String)
  deriving DecidableEq, Repr

/-- R61: a function's registers at reset; a VF has no limits until VFCFG sets them (R79). -/
def Fn.reset : Fn :=
  { reqLo := 0, reqHi := 0, rspLo := 0, rspHi := 0, tail := 0, head := 0, done := 0, vec := 0, hosterr := 0, errvec := 0
    maxCtx := 0, maxQ := 0, maxVec := 0, maxWin := 0, ceil := 0, wins := [], aerUncor := 0, aerCor := 0, locals := [], cur := none, posted := [] }

/-- The package at power-on, before bring-up step 1 (R25, R26). The flash's images and its empty boot record, the unblown
revocation fuses and the device number are design choices (notes/assumptions/2.md). -/
def Pkg.reset : Pkg :=
  { powered := false, bootstat := 0, booterr := 0, livemap := 0, stackrate := 0, nrdycnt := 0, fwver := 0, bootseq := 0
    ring := [], sticky := [], revoked := 0, rollback := 0
    slotA := ⟨true, some 0, 0, 0⟩, slotB := ⟨true, some 0, 0, 0⟩, sched := ⟨true, some 0, 0, 0⟩
    lastSlot := false, rootSlot := 0, device := 0, retired := [], rates := [], ports := [], islands := [], limit := 3200, hostWidth := 0
    hostGen := 0, outDies := 0
    cycles := [] }

/-- The machine at power-on: every table empty. A register that a table does not list reads as its reset value. -/
def State.reset : State :=
  { fresh := 0, agenda := [], schedule := [], cur := none, underway := [], lastUnit := 0, lastSlots := [], lastStarts := [], lastTimer := 0, turns := 0, next := 1, pkg := Pkg.reset
    out := [], portOut := [], peerOut := [], fns := [], lastFn := 63, ctxs := [], peerKeys := [], gens := [], queues := [], levelPtr := [], engines := [], rops := [], versions := []
    filled := [], regens := [], peerGrants := [], raNext := 0, raPeer := [], reqs := [], writes := [], locks := [], mem := [], tags := []
    full := [], poison := [], ptes := [], pageTags := [], frames := [], badFrames := [], places := [], images := [], charges := [], orphans := [], cores := [], tlb2 := []
    walks := [], shoots := [], blocks := [], clusters := [], grids := [], graphs := [], pushes := [], ops := [], rowSets := []
    rows := [], redcs := [], contribs := [], colls := [], faultQ := [], merges := [], chans := []
    defects := [], badAdders := [], padOut := [] }

end Sys2Proof.Machine
end

