-- ==== Sys2Proof/Machine/Tab.lean ====
section
/-! DEFINITION. Reading and writing keyed lists in their canonical form: keys strictly rising. -/

namespace Sys2Proof

/-- The value at a key. -/
def tget? {α : Type} : Tab α → Nat → Option α
  | [], _ => none
  | (j, v) :: t, k => if j = k then some v else tget? t k

/-- The value at a key, or a default. -/
def tgetD {α : Type} (t : Tab α) (k : Nat) (d : α) : α := (tget? t k).getD d

/-- The table with a value put at a key. -/
def tset {α : Type} : Tab α → Nat → α → Tab α
  | [], k, v => [(k, v)]
  | (j, u) :: t, k, v => if j = k then (k, v) :: t else if k < j then (k, v) :: (j, u) :: t else (j, u) :: tset t k v

/-- The table without a key. -/
def tdel {α : Type} : Tab α → Nat → Tab α
  | [], _ => []
  | (j, u) :: t, k => if j = k then tdel t k else (j, u) :: tdel t k

/-- A value put at a key of a table whose unlisted keys read as `d`: writing `d` removes the entry. -/
def tput {α : Type} [DecidableEq α] (d : α) (t : Tab α) (k : Nat) (v : α) : Tab α := if v = d then tdel t k else tset t k v

/-- The value at a key changed, where there is one. -/
def tmod {α : Type} (t : Tab α) (k : Nat) (f : α → α) : Tab α :=
  match tget? t k with
  | some v => tset t k (f v)
  | none => t

/-- The canonical form: keys strictly rising. -/
def twf {α : Type} : Tab α → Bool
  | [] => true
  | [_] => true
  | (j, _) :: (k, v) :: t => decide (j < k) && twf ((k, v) :: t)

def tkeys {α : Type} (t : Tab α) : List Nat := t.map Prod.fst
def tvals {α : Type} (t : Tab α) : List α := t.map Prod.snd

/-- The entries whose keys lie from `lo` below `hi`. -/
def trange {α : Type} (t : Tab α) (lo hi : Nat) : Tab α := t.filter fun kv => decide (lo ≤ kv.1) && decide (kv.1 < hi)

/-- The table without the keys from `lo` below `hi`. -/
def tclear {α : Type} (t : Tab α) (lo hi : Nat) : Tab α := t.filter fun kv => decide (kv.1 < lo) || decide (hi ≤ kv.1)

/-- Every value changed. -/
def tmap {α β : Type} (f : Nat → α → β) (t : Tab α) : Tab β := t.map fun kv => (kv.1, f kv.1 kv.2)

/-- Of keyed things, the one whose key follows `last`, wrapping. -/
def following {α : Type} (key : α → Nat) (last : Nat) (xs : List α) : Option α :=
  let least := fun (ys : List α) => ys.foldl (fun (m : Option α) y =>
    match m with
    | none => some y
    | some x => if key y < key x then some y else some x) none
  match least (xs.filter fun x => decide (last < key x)) with
  | some x => some x
  | none => least xs

/-- Bytes as a little-endian number (R4). -/
def leNat : List Byte → Nat
  | [] => 0
  | b :: t => b.toNat + 256 * leNat t

/-- A number as `n` bytes, least significant first (R4). -/
def natLe : Nat → Nat → List Byte
  | 0, _ => []
  | n + 1, x => BitVec.ofNat 8 x :: natLe n (x / 256)

/-- Whether bit `i` of a mask is set. -/
def bit {w : Nat} (m : BitVec w) (i : Nat) : Bool := m.getLsbD i

/-- The threads of a mask, ascending. -/
def lanes (m : W32) : List Nat := (List.range 32).filter fun i => bit m i

/-- The mask of a list of threads. -/
def maskOf (ls : List Nat) : W32 := ls.foldl (fun m i => m ||| BitVec.ofNat 32 (2 ^ i)) 0

end Sys2Proof
end

