-- ==== Sys2Proof/Machine/Ops.lean ====
section
/-! DEFINITION. The shared operations over state: registers, streams and their clauses, taking a trap (R309, R312) and
returning from one (R310), the pending registers and completion of long-latency work (R144). -/

namespace Sys2Proof.Machine

open Sys2Proof

/-- What a step answers. -/
abbrev Out := Host.Outcome State Fault Refusal

/-! ### Registers of a warp -/

namespace Warp
/-- R7, R112: a lane register; unlisted registers hold zero. -/
def reg (w : Warp) (r l : Nat) : W32 := tgetD w.regs (r * 32 + l) 0
def setReg (w : Warp) (r l : Nat) (v : W32) : Warp := { w with regs := tput 0 w.regs (r * 32 + l) v }

/-- R4: an even pair as one number, and `n` registers as one number. -/
def wide (w : Warp) (r l : Nat) : Nat → Nat
  | 0 => 0
  | n + 1 => (w.reg r l).toNat + 2 ^ 32 * wide w (r + 1) l n

def setWide (w : Warp) (r l : Nat) : Nat → Nat → Warp
  | 0, _ => w
  | n + 1, x => setWide (w.setReg r l (BitVec.ofNat 32 x)) (r + 1) l n (x / 2 ^ 32)

/-- R7: p7 reads true. -/
def pred (w : Warp) (p : Nat) (l : Nat) : Bool := p == 7 || bit (tgetD w.preds l 0) p
def setPred (w : Warp) (p : Nat) (l : Nat) (v : Bool) : Warp :=
  let old := tgetD w.preds l 0
  let m : BitVec 8 := BitVec.ofNat 8 (2 ^ p)
  { w with preds := tput 0 w.preds l (if v then old ||| m else old &&& ~~~m) }

/-- R188, R294: a thread's sticky byte. -/
def flagsOf (w : Warp) (l : Nat) : BitVec 8 := tgetD w.fflags l 0
def setFlags (w : Warp) (l : Nat) (v : BitVec 8) : Warp := { w with fflags := tput 0 w.fflags l v }
def orFlags (w : Warp) (l : Nat) (f : Flg) : Warp := w.setFlags l (w.flagsOf l ||| f)

/-- R138: a lane mask. -/
def mask (w : Warp) (m : Nat) : W32 := tgetD w.masks m 0
/-- R302: a write to a mask forces the bits of exited threads to 0. -/
def setMask (w : Warp) (m : Nat) (v : W32) : Warp := { w with masks := tput 0 w.masks m (v &&& ~~~w.exited) }

def pcOf (w : Warp) (l : Nat) : W64 := tgetD w.pc l 0
def tpcOf (w : Warp) (l : Nat) : W64 := tgetD w.tpc l 0
def setPcs (w : Warp) (ls : List Nat) (v : W64) : Warp := { w with pc := ls.foldl (fun t l => tput 0 t l v) w.pc }
def setTpcs (w : Warp) (ls : List Nat) (f : Nat → W64) : Warp := { w with tpc := ls.foldl (fun t l => tput 0 t l (f l)) w.tpc }

/-- R144: a dependence counter of the warp. -/
def ctrOf (w : Warp) (k : Nat) : Nat := tgetD w.ctr k 0
def setCtr (w : Warp) (k n : Nat) : Warp := { w with ctr := tput 0 w.ctr k n }

/-- The threads that have not exited. -/
def live (w : Warp) : W32 := ~~~w.exited
end Warp

namespace Seq
/-- R253: s0 reads zero. -/
def get (q : Seq) (r : Nat) : W64 := if r = 0 then 0 else tgetD q.s r 0
/-- R253: a write to s0 is discarded. -/
def put (q : Seq) (r : Nat) (v : W64) : Seq := if r = 0 then q else { q with s := tput 0 q.s r v }
def ctrOf (q : Seq) (k : Nat) : Nat := tgetD q.ctr k 0
def setCtr (q : Seq) (k n : Nat) : Seq := { q with ctr := tput 0 q.ctr k n }
def orFlags (q : Seq) (f : Flg) : Seq := { q with flags := q.flags ||| f }
end Seq

/-! ### Blocks and streams -/

namespace State
def block? (s : State) (uid : Nat) : Option Block := tget? s.blocks uid
def setBlock (s : State) (uid : Nat) (b : Block) : State := { s with blocks := tset s.blocks uid b }
def modBlock (s : State) (uid : Nat) (f : Block → Block) : State := { s with blocks := tmod s.blocks uid f }
def modWarp (s : State) (uid w : Nat) (f : Warp → Warp) : State :=
  s.modBlock uid fun b => { b with warps := tmod b.warps w f }
def modSeq (s : State) (uid : Nat) (f : Seq → Seq) : State := s.modBlock uid fun b => { b with seq := f b.seq }
def modCtx (s : State) (c : Nat) (f : Ctx → Ctx) : State := { s with ctxs := tmod s.ctxs c f }
def modCore (s : State) (k : Nat) (f : Core → Core) : State := { s with cores := tmod s.cores k f }

/-- An event made due, behind those that are already. -/
def due (s : State) (i : Instr) : State := { s with agenda := s.agenda ++ [i] }
/-- Events made due, in order. -/
def dues (s : State) (is : List Instr) : State := { s with agenda := s.agenda ++ is }
/-- The current stream waits: another may issue. -/
def waits (s : State) : State := { s with cur := none }
/-- A number not used before. -/
def takeId (s : State) : Nat × State := (s.next, { s with next := s.next + 1 })
/-- The next index of a free value. -/
def takeFresh (s : State) : Nat × State := (s.fresh, { s with fresh := s.fresh + 1 })
end State

/-- The number of a core in the machine. -/
def coreNo (die core : Nat) : Nat := die * 128 + core

/-- The core a block is on. -/
def Block.coreNo (b : Block) : Nat :=
  match b.home with
  | some (d, c) => Machine.coreNo d c
  | none => 0

def Block.die (b : Block) : Nat :=
  match b.home with
  | some (d, _) => d
  | none => 0

/-- R232: the VA of a clause's word. -/
def Run.at (r : Run) (i : Nat) : W64 := r.hdr + BitVec.ofNat 64 (8 * (i + 1))
/-- The VA of the clause's next word. -/
def Run.va (r : Run) : W64 := r.at r.idx
/-- The clause's next word. -/
def Run.word (r : Run) : W64 := r.words.getD r.idx 0
/-- R245: the header behind the clause. -/
def Run.after (r : Run) : W64 := r.at r.words.length
def Run.done (r : Run) : Bool := decide (r.words.length ≤ r.idx)
/-- Whether the clause can issue: it has a word left and waits for nothing. -/
def Run.open (r : Run) : Bool := r.blk.isNone && !r.done

/-- R144, R248: the destination field of a word. -/
def dstField (w : W64) : W32 := BitVec.ofNat 32 (fld w.toNat 38 8)

/-- A list with its first element that satisfies `p` replaced. -/
def replaceFirst {α : Type} (p : α → Bool) (f : α → List α) : List α → List α
  | [] => []
  | x :: t => if p x then f x ++ t else x :: replaceFirst p f t

/-- A clause with its next word passed. -/
def Run.next (r : Run) : Run := { r with idx := r.idx + 1, blk := none, fe := none, missed := false, relDone := false }

/-- The clause a warp issues from. -/
def Warp.run? (w : Warp) : Option Run := w.runs.find? Run.open
/-- That clause replaced by others. -/
def Warp.setRun (w : Warp) (rs : List Run) : Warp := { w with runs := replaceFirst Run.open (fun _ => rs) w.runs }

/-- R136: the issue context of a lane instruction. -/
structure Here where
  uid : Nat
  w : Nat
  b : Block
  wp : Warp
  run : Run
  deriving DecidableEq, Repr

/-- The lane stream that issues now. -/
def State.here? (s : State) : Option Here :=
  match s.cur with
  | some (uid, .warp w) =>
    match s.block? uid with
    | some b =>
      match tget? b.warps w with
      | some wp => wp.run?.map fun r => ⟨uid, w, b, wp, r⟩
      | none => none
    | none => none
  | _ => none

/-- The issue context of a sequencer instruction (R139). -/
structure SHere where
  uid : Nat
  b : Block
  run : Run
  deriving DecidableEq, Repr

/-- The sequencer stream that issues now. -/
def State.seqHere? (s : State) : Option SHere :=
  match s.cur with
  | some (uid, .seq) =>
    match s.block? uid with
    | some b =>
      match b.seq.run with
      | some r => if r.open then some ⟨uid, b, r⟩ else none
      | none => none
    | none => none
  | _ => none

/-- A lane meaning over the stream that issues. -/
def onLane (s : State) (k : Here → State) : Out :=
  match s.here? with
  | some h => .next (k h)
  | none => .fault .noStream

/-- A sequencer meaning over the stream that issues. -/
def onSeq (s : State) (k : SHere → State) : Out :=
  match s.seqHere? with
  | some h => .next (k h)
  | none => .fault .noStream

/-- R247: the participating threads: active and with a true guard. -/
def guardHolds (g : Guard) (w : Warp) (l : Nat) : Bool := w.pred g.pred.val l != g.neg
def Here.part (h : Here) (g : Guard) : List Nat := (lanes h.run.mask).filter (guardHolds g h.wp)

/-- The clause with its next word passed; the pcs of its threads move to the next header at its end (R245). -/
def Warp.advance (w : Warp) : Warp :=
  match w.run? with
  | none => w
  | some r =>
    let r' := r.next
    let w' := w.setRun [r']
    if r'.done then w'.setPcs (lanes r.mask) r.after else w'

def Seq.advance (q : Seq) : Seq :=
  match q.run with
  | none => q
  | some r =>
    let r' := r.next
    { q with run := some r', pc := if r'.done then r.after else q.pc }

def State.advance (s : State) (h : Here) : State := s.modWarp h.uid h.w Warp.advance
def State.seqAdvance (s : State) (h : SHere) : State := s.modSeq h.uid Seq.advance

/-! ### Losing a context -/

/-- R108: a context is lost: the first cause is kept and R108's steps become due; further causes are counted. -/
def State.lose (s : State) (c cause : Nat) : State :=
  match tget? s.ctxs c with
  | none => s
  | some x =>
    match x.lost with
    | none =>
      { s with ctxs := tset s.ctxs c { x with lost := some cause }, agenda := .contextLoss c cause :: s.agenda, cur := none }
    | some _ => s.modCtx c fun y => { y with later := min 0xFFFF (y.later + 1) }

/-! ### Traps of a warp -/

/-- R308: the layout of %tcause. -/
def tcauseOf (cause : Nat) (resumeAt seq : Bool) : W32 :=
  BitVec.ofNat 32 (cause + (if resumeAt then 256 else 0) + (if seq then 512 else 0))

/-- A trap about to be taken: cause, the threads that enter, the registers of R308 and each thread's %tpc. -/
structure TrapReq where
  cause : Nat
  enter : W32
  tmask : W32
  tdst : W32
  resumeAt : Bool
  seq : Bool

/-- R111, R309: the handler's header. -/
def Rec.handlerPc (r : Rec) (cause : Nat) : W64 := if cause = 11 then r.preLane else r.traps.getD cause 0

/-- R244: whether a warp's last clause asked to be passed over. -/
def Warp.yields (w : Warp) : Bool := w.yielded || w.runs.any fun r => r.done && r.yieldBit

/-- R309: a warp that enters a handler. Threads that enter leave their waiter sets (R301) and stand as one group at the
handler's header; the clauses they and the held threads were in are kept until TRET. R244: a clause that has ended so still yields. -/
def Warp.enter (w : Warp) (t : TrapReq) (pc : W64) (tpc : Nat → W64) : Warp :=
  let ls := lanes t.enter
  let was := w.pc
  let w := w.setTpcs ls tpc
  let w := w.setPcs ls pc
  { w with
    tcause := tcauseOf t.cause t.resumeAt t.seq
    tmask := t.tmask
    tdst := t.tdst
    tpcSet := w.tpcSet &&& ~~~t.enter
    waiters := tmap (fun _ m => m &&& ~~~t.enter) w.waiters
    leavers := tmap (fun _ m => m &&& ~~~t.enter) w.leavers
    runs := []
    yielded := w.yields
    handler := some ⟨t.cause == 11, t.enter, w.runs, was⟩ }

/-- R309, R312: taking a trap. Inside a handler the causes 4 to 7, 9 and 10 lose the context, and CTXLOST names no cause
record. -/
def State.takeTrap (s : State) (uid w : Nat) (t : TrapReq) (tpc : Nat → W64) : State :=
  match s.block? uid with
  | none => s
  | some b =>
    match tget? b.warps w with
    | none => s
    | some wp =>
      if wp.handler.isSome then s.lose b.ctx 0
      else s.modWarp uid w fun wp => wp.enter t (b.rcd.handlerPc t.cause) tpc

/-- R260, R309: ILLEGAL or the illegal-operand trap at an instruction word: the group enters, nothing of the word having
taken effect; `bad` names the threads. -/
def State.trapAt (s : State) (h : Here) (cause : Nat) (bad : W32) (resumeAt : Bool) : State :=
  s.takeTrap h.uid h.w
    { cause := cause, enter := h.run.mask, tmask := bad, tdst := dstField h.run.word, resumeAt := resumeAt, seq := false }
    fun _ => h.run.va

/-- R260: ILLEGAL at an instruction word. -/
def State.illegalWord (s : State) (h : Here) : State := s.trapAt h 7 h.run.mask false

/-- R310: where a thread that entered resumes. -/
def Warp.resumePc (w : Warp) (l : Nat) : W64 := if bit w.tcause 8 then w.tpcOf l else w.tpcOf l + 8

/-- R310: a clause that a resuming thread is in the middle of: its address lies among the clause's words, and SWR has not
written it. -/
def Run.holdsVa (r : Run) (va : W64) : Bool :=
  let d := (va - r.hdr).toNat
  decide (8 ≤ d) && d % 8 == 0 && decide (d < 8 * (r.words.length + 1))

/-- The clauses that resume: the part of an interrupted clause whose threads resume in its middle, at the word of each, and
the part whose threads were held. One that waited at a queue issues its instruction again, as its entry or its space may have come. -/
def resumeRun (w : Warp) (hd : Handler) (r : Run) : List Run :=
  let inside := (lanes (r.mask &&& hd.entered &&& ~~~w.exited)).filter fun l =>
    r.holdsVa (w.resumePc l) && !bit w.tpcSet l
  let held := r.mask &&& ~~~hd.entered &&& ~~~w.exited
  let back := match inside with
    | [] => []
    | l :: _ => [{ r with mask := maskOf inside, idx := (w.resumePc l - r.hdr).toNat / 8 - 1, blk := none, fe := none, missed := false, relDone := false }]
  back ++ (if held = 0 then [] else [{ r with mask := held, blk := match r.blk with | some (.queue _) => none | x => x }])

/-- An interrupted clause as it goes on after a trap of the sequencer: its word issues again, but a SAWAIT still waits (R212). -/
def Run.again (r : Run) : Run :=
  { r with blk := match r.blk with | some (.sawait p st n k x) => some (.sawait p st n k x) | _ => none, fe := none, missed := false, relDone := false }

/-- R244, R310: a warp that leaves its handler, whose last clause ends with it. Threads that do not continue a clause stand at their
resume points; after a trap delivered for the sequencer each returns to where it was (R312). -/
def Warp.leave (w : Warp) : Warp :=
  match w.handler with
  | none => w
  | some hd =>
    let back := lanes (hd.entered &&& ~~~w.exited)
    let seq := bit w.tcause 9
    let runs := if seq then hd.runs.map fun r => { r.again with mask := r.mask &&& ~~~w.exited }
      else hd.runs.flatMap (resumeRun w hd)
    { w with
      pc := back.foldl (fun t l => tput 0 t l (if seq then tgetD hd.pcs l 0 else w.resumePc l)) w.pc
      runs := runs
      handler := none
      yielded := w.yielded || w.runs.any Run.yieldBit
      preTaken := w.preTaken || hd.pre }

/-! ### Traps of the sequencer -/

/-- R260, R312, R337: the sequencer stops at its word (or after it, for TRAP) with a trap to deliver. Inside PRESEQ it is a
double trap. -/
def State.seqTrap (s : State) (uid : Nat) (cause : Nat) (header : Bool) (va : W64) (code : W32) : State :=
  match s.block? uid with
  | none => s
  | some b =>
    if b.seq.inPre then s.lose b.ctx 0
    else (s.modSeq uid fun q => { q with trap := some ⟨cause, header, code, false⟩, tpc := va }).waits

/-- R312, R337: a sequencer word refused: cause 7, with no effect. -/
def State.seqIllegal (s : State) (h : SHere) : State := s.seqTrap h.uid 7 false h.run.va 0

/-! ### Pending registers and long-latency work -/

/-- The pending key of a predicate. -/
def predKey (p l : Nat) : Nat := 8192 + p * 32 + l
def regKey (r l : Nat) : Nat := r * 32 + l

/-- R144: whether any of the named registers or predicates is pending in any of the threads. -/
def Warp.waitsFor (w : Warp) (ls : List Nat) (regs : List (Nat × Nat)) (preds : List Nat) : Bool :=
  !w.pend.isEmpty && ls.any fun l =>
    (regs.any fun rn => (List.range rn.2).any fun i => (tget? w.pend (regKey (rn.1 + i) l)).isSome) ||
    preds.any fun p => (tget? w.pend (predKey p l)).isSome

/-- The operations that the named registers and predicates of some threads are pending on. -/
def Warp.pendingOps (w : Warp) (ls : List Nat) (regs : List (Nat × Nat)) (preds : List Nat) : List Nat :=
  (ls.flatMap fun l =>
    (regs.flatMap fun rn => (List.range rn.2).filterMap fun i => tget? w.pend (regKey (rn.1 + i) l)) ++
    preds.filterMap fun p => tget? w.pend (predKey p l)).eraseDups

/-- R144, R248: whether a word of a clause lies in the lookahead window of an operation that an earlier word of it began. -/
def Run.inWindow (r : Run) (o : Op) : Bool :=
  let d := (r.va - o.pc).toNat / 8
  r.holdsVa o.pc && decide (1 ≤ d) && decide (d ≤ fld o.word.toNat 46 4) && decide (d ≤ r.idx)

/-- R144: whether an instruction that has to wait for operations stands inside a lookahead window of one of them, and is not counted yet. -/
def State.misses (s : State) (r : Run) (ids : List Nat) : Bool :=
  !r.missed && ids.any fun id => match tget? s.ops id with | some o => r.inWindow o | none => false
def Core.countMiss (c : Core) : Core := { c with misses := c.misses + 1 }

/-- R144: an instruction that waits for operations; one inside a lookahead window of theirs is counted, once, as a miss. -/
def State.waitFor (s : State) (h : Here) (ids : List Nat) : State :=
  (if s.misses h.run ids then
    (s.modWarp h.uid h.w fun w => w.setRun [{ h.run with missed := true }]).modCore h.b.coreNo Core.countMiss
  else s).waits

/-- R144: an instruction that waits for pending registers. -/
def State.pendWait (s : State) (h : Here) (g : Guard) (ls : List Nat) (regs : List (Nat × Nat)) (preds : List Nat) : State :=
  s.waitFor h (h.wp.pendingOps ls regs preds ++ h.wp.pendingOps (lanes h.run.mask) [] [g.pred.val])

/-- R144, R337: a sequencer instruction that waits for pending registers. -/
def State.seqWaitFor (s : State) (h : SHere) (rs : List SReg) : State :=
  (if s.misses h.run (rs.filterMap fun r => tget? h.b.seq.pend r.val) then
    (s.modSeq h.uid fun q => { q with run := some { h.run with missed := true } }).modCore h.b.coreNo Core.countMiss
  else s).waits

/-- R132, R258: every register of every operand lies at or below 8 x VREGS - 1. -/
def Here.inRange (h : Here) (regs : List (Nat × Nat)) : Bool :=
  regs.all fun rn => decide (rn.1 + rn.2 ≤ 8 * h.b.rcd.vregs)

/-- R144: an issue that would raise a counter above 63 waits. -/
def ctrFull (n : Nat) : Bool := decide (63 ≤ n)
def Warp.ctrBusy (w : Warp) : Option (Fin 8) → Bool
  | some k => ctrFull (w.ctrOf k.val)
  | none => false
def Seq.ctrBusy (q : Seq) : Option (Fin 8) → Bool
  | some k => ctrFull (q.ctrOf k.val)
  | none => false

/-- What one thread writes: registers, predicates, flags. -/
structure LaneFx where
  regs : List (Nat × W32)
  preds : List (Nat × Bool)
  fl : Flg
  deriving DecidableEq, Repr

/-- `n` registers from `r` holding a number. -/
def regsOf (r : Nat) : Nat → Nat → List (Nat × W32)
  | 0, _ => []
  | n + 1, x => (r, BitVec.ofNat 32 x) :: regsOf (r + 1) n (x / 2 ^ 32)

def Warp.apply (w : Warp) (l : Nat) (fx : LaneFx) : Warp :=
  let w := fx.regs.foldl (fun w rv => w.setReg rv.1 l rv.2) w
  let w := fx.preds.foldl (fun w pv => w.setPred pv.1 l pv.2) w
  w.orFlags l fx.fl

/-- Effects of all participating threads: every source was read before (R8). -/
def Warp.applyAll (w : Warp) (fxs : List (Nat × LaneFx)) : Warp := fxs.foldl (fun w x => w.apply x.1 x.2) w

/-- R295: the lowest enabled cause with a thread that raised it. -/
def fpCause (flags : Nat) (fxs : List (Nat × Flg)) : Option (Nat × W32) :=
  let of := fun (f : Flg) => maskOf ((fxs.filter fun x => x.2 &&& f != 0).map Prod.fst)
  let try' := fun (k : Nat) (f : Flg) (rest : Option (Nat × W32)) =>
    if flags / 2 ^ (k - 1) % 2 = 1 ∧ of f ≠ 0 then some (k, of f) else rest
  try' 1 Flg.nv (try' 2 Flg.dz (try' 3 Flg.of none))

/-- R295: the trap after an instruction whose threads raised flags, unless the warp is in a handler. -/
def State.fpTrap (s : State) (h : Here) (tdst : W32) (fxs : List (Nat × Flg)) : State :=
  if h.wp.handler.isSome then s
  else match fpCause h.b.rcd.flags fxs with
    | none => s
    | some (k, m) =>
      s.takeTrap h.uid h.w { cause := k, enter := h.run.mask, tmask := m, tdst := tdst, resumeAt := false, seq := false }
        fun _ => h.run.va

/-! ### Error records -/

/-- R16: the cycle count of a die (8 the IOD), advanced by what has passed: a free value. -/
def State.readCycles (s : State) (die : Nat) : Nat × State :=
  let n := tgetD s.pkg.cycles die 0 + Config.elapsed s.fresh
  (n, { s with fresh := s.fresh + 1, pkg := { s.pkg with cycles := tset s.pkg.cycles die n } })

/-- R100: a record put in line for a context's error queue; a lost context receives none but its CTXLOST (R108). -/
def State.recordIn (s : State) (c : Nat) (r : ErrRec) : State :=
  match tget? s.ctxs c with
  | none => s
  | some x =>
    if x.lost.isSome then s
    else ({ s with ctxs := tset s.ctxs c { x with eqHeld := x.eqHeld ++ [r] } }).due (.errorRecordWrite c)

/-- R98, R100: a record made due for its context's error queue, where the event ERROR_RECORD_WRITE writes it; one of no context
goes to the fault queue and is copied to the contexts of the PF with DEVREC. -/
def State.record (s : State) (r : ErrRec) : State :=
  if r.ctx = 0xFFFF then
    (s.ctxs.filter fun kv => kv.2.devrec && kv.2.fn == 0).foldl (fun s kv => s.recordIn kv.1 r) { s with faultQ := s.faultQ ++ [r] }
  else s.recordIn r.ctx r

def Here.redun (h : Here) (s : State) : Bool :=
  match tget? s.ctxs h.b.ctx with
  | some c => c.redun
  | none => false

/-! ### Rotated redundant issue -/

/-- The defects of the physical lanes of a core. -/
def defectsOf (s : State) (b : Block) : List Defect :=
  match b.home with
  | some (d, c) => s.defects.filter fun x => x.die == d && x.core == c
  | none => []

/-- R105: the threads whose two issues disagree: exactly one of them ran on a defective lane. -/
def mismatch (ls : List Nat) (ds : List Defect) : W32 :=
  maskOf (ls.filter fun l => (ds.any fun d => d.lane == l) != ds.any fun d => d.lane == (l + 1) % 32)

/-- R106: a quarantined core: its record goes to the fault queue. -/
def State.quarantineCore (s : State) (d c : Nat) : State :=
  let (st, s) := s.readCycles d
  (s.modCore (coreNo d c) fun k => { k with quarantined := true }).record
    { code := 0x18, exact := false, redun := false, ctx := 0xFFFF, die := d, core := c, warp := 0xFF, pc := 0, stamp := st
      body := natLe 32 (d + c * 256), keep := false }

/-- R99, R105: the record of a mismatch. -/
def compRec (code : Nat) (h : Here) (d c : Nat) (st : Nat) (m : W32) (matched : Bool) : ErrRec :=
  { code := code, exact := true, redun := true, ctx := h.b.ctx, die := d, core := c, warp := h.b.slots.getD h.w 0xFF
    pc := h.run.va, stamp := st
    body := natLe 8 h.run.word.toNat ++ natLe 4 m.toNat ++ natLe 2 0 ++ natLe 1 (if matched then 1 else 0) ++ natLe 17 0
    keep := code == 0x15 }

/-- R105: both issues compared before anything is written. Answers the state to go on from, or the one after COMPFAULT. -/
def State.compared (s : State) (h : Here) (ls : List Nat) : Except State State :=
  let ds := (defectsOf s h.b).filter fun d => decide (d.lane < 32)
  if ds.isEmpty || !h.redun s then .ok s
  else
    let m := mismatch ls ds
    let d := h.b.die
    let c := h.b.coreNo % 128
    let again := mismatch ls (ds.filter Defect.sticky)
    let s' := { s with defects := s.defects.filter fun x => !(x.die == d && x.core == c && !x.sticky && decide (x.lane < 32)) }
    if m = 0 then .ok s
    else
      let (st, s') := s'.readCycles d
      if again = 0 then .ok (s'.record (compRec 0x14 h d c st m true))
      else .error (((s'.record (compRec 0x15 h d c st again false)).quarantineCore d c).lose h.b.ctx 0x15)

/-- R107, R260: a trap of cause 7 for an instruction as such is taken once, after the comparison. -/
def State.illegalAfter (s : State) (h : Here) (ls : List Nat) : State :=
  match s.compared h ls with
  | .error s' => s'
  | .ok s => s.illegalWord h

/-- R105: the record of a mismatch of the sequencer's two ALUs. -/
def seqRec (code : Nat) (h : SHere) (st : Nat) (matched : Bool) : ErrRec :=
  { code := code, exact := true, redun := true, ctx := h.b.ctx, die := h.b.die, core := h.b.coreNo % 128, warp := 0xFE
    pc := h.run.va, stamp := st
    body := natLe 8 h.run.word.toNat ++ natLe 6 0 ++ natLe 1 (if matched then 1 else 0) ++ natLe 17 0, keep := code == 0x15 }

/-- R105: whether the two sequencer ALUs, 160 and 161 among the defects of a core, give different results. -/
def aluMismatch (ds : List Defect) : Bool := (ds.any fun d => d.lane == 160) != ds.any fun d => d.lane == 161

/-- R105, R107: both issues of a sequencer instruction compared: its operands, address and results, before anything is sent, written or
trapped. -/
def State.seqCompared (s : State) (h : SHere) : Except State State :=
  let redun := match tget? s.ctxs h.b.ctx with | some c => c.redun | none => false
  let ds := (defectsOf s h.b).filter fun d => decide (160 ≤ d.lane)
  if !redun || !aluMismatch ds then .ok s
  else
    let d := h.b.die
    let c := h.b.coreNo % 128
    let s := { s with defects := s.defects.filter fun x => !(x.die == d && x.core == c && !x.sticky && decide (160 ≤ x.lane)) }
    let (st, s) := s.readCycles d
    if aluMismatch (ds.filter Defect.sticky) then
      .error (((s.record (seqRec 0x15 h st false)).quarantineCore d c).lose h.b.ctx 0x15)
    else .ok (s.record (seqRec 0x14 h st true))

/-- The effects of the threads on defective lanes of a core without redundant issue: wrong bits (R105's case without its
protection; which bits is open). -/
def spoil (s : State) (h : Here) (fxs : List (Nat × LaneFx)) : List (Nat × LaneFx) :=
  let ds := defectsOf s h.b
  if ds.isEmpty || h.redun s then fxs
  else fxs.map fun x =>
    if ds.any fun d => d.lane == x.1 then
      (x.1, { x.2 with regs := x.2.regs.map fun rv => (rv.1, rv.2 ^^^ Config.faultyResult (s.fresh + x.1)) })
    else x

/-! ### The two shapes of a lane instruction -/

/-- A short-latency lane instruction (R144): operands `regs` with their register counts, predicates `ps`, and what each
participating thread writes. -/
def shortH (g : Guard) (regs : List (Nat × Nat)) (ps : List Nat) (fx : Here → Nat → LaneFx) (tdst : W32) (s : State) : Out :=
  onLane s fun h =>
    let ls := h.part g
    if !h.inRange regs then s.illegalAfter h ls
    else if h.wp.waitsFor ls regs ps || h.wp.waitsFor (lanes h.run.mask) [] [g.pred.val] then s.pendWait h g ls regs ps
      else match s.compared h ls with
        | .error s' => s'
        | .ok s =>
          let fxs := spoil s h (ls.map fun l => (l, fx h l))
          let s := s.modWarp h.uid h.w fun w => (w.applyAll fxs).advance
          s.fpTrap h tdst (fxs.map fun x => (x.1, x.2.fl))

/-- The same where the effect depends on the warp's registers alone. -/
def short (g : Guard) (regs : List (Nat × Nat)) (ps : List Nat) (fx : Warp → Nat → LaneFx) (tdst : W32) (s : State) : Out :=
  shortH g regs ps (fun h l => fx h.wp l) tdst s

/-- R144: a new op made outstanding for a warp: its destinations pending, its counter raised. -/
def Warp.issue (w : Warp) (id : Nat) (ctr : Option (Fin 8)) (keys : List Nat) : Warp :=
  let w := { w with pend := keys.foldl (fun t k => tset t k id) w.pend }
  match ctr with
  | some k => w.setCtr k.val (w.ctrOf k.val + 1)
  | none => w

/-- R144: what completing an op does to its warp: destinations still pending on it are written, flags set, the counter
lowered. -/
def Warp.complete (w : Warp) (id : Nat) (o : Op) : Warp :=
  let w := o.dests.foldl (fun w kv =>
    if tget? w.pend kv.1 = some id then
      let w := { w with pend := tdel w.pend kv.1 }
      if kv.1 < 8192 then w.setReg (kv.1 / 32) (kv.1 % 32) (kv.2.truncate 32)
      else w.setPred ((kv.1 - 8192) / 32) (kv.1 % 32) (kv.2 != 0)
    else w) w
  let w := o.flags.foldl (fun w lf => w.orFlags lf.1 lf.2) w
  match o.ctr with
  | some k => w.setCtr k.val (w.ctrOf k.val - 1)
  | none => w

def Seq.complete (q : Seq) (id : Nat) (o : Op) : Seq :=
  let q := o.dests.foldl (fun q kv =>
    if tget? q.pend kv.1 = some id then { (q.put kv.1 kv.2) with pend := tdel q.pend kv.1 } else q) q
  let q := o.flags.foldl (fun q lf => q.orFlags lf.2) q
  match o.ctr with
  | some k => q.setCtr k.val (q.ctrOf k.val - 1)
  | none => q

/-- R144: an op completes. -/
def State.completeOp (s : State) (id : Nat) : State :=
  match tget? s.ops id with
  | none => s
  | some o =>
    let s := { s with ops := tdel s.ops id }
    match o.st with
    | .warp w => s.modWarp o.uid w fun wp => wp.complete id o
    | .seq => s.modSeq o.uid fun q => q.complete id o

/-- The pending keys of a list of effects. -/
def destsOf (fxs : List (Nat × LaneFx)) : List (Nat × W64) :=
  fxs.flatMap fun x =>
    (x.2.regs.map fun rv => (regKey rv.1 x.1, rv.2.zeroExtend 64)) ++
    x.2.preds.map fun pv => (predKey pv.1 x.1, if pv.2 then 1 else 0)

/-- R145: instructions of one queue of a warp that have not completed. -/
def State.queued (s : State) (uid w sfu : Nat) : Nat :=
  (s.ops.filter fun kv => kv.2.uid == uid && kv.2.st == .warp w && kv.2.sfu == sfu).length

/-- R296: whether a warp issues nothing more to its queues, so that they drain for the pre-emption trap that it is to take. -/
def Here.drains (h : Here) : Bool := h.b.preempt && !h.wp.preTaken && h.wp.handler.isNone

/-- R144, R145: a long-latency lane instruction that computes (special functions, narrow conversions, cross-lane). Its
results are formed at issue from sources read then and written when it completes. `sfu` is 1 for the special-function
queue, 2 for the conversion queue, 0 for neither. With an FP trap enabled a flag-setting one completes before anything else
of the warp issues (R145, R307). -/
def long (g : Guard) (l : Lat) (sfu : Nat) (trapping : Bool) (regs : List (Nat × Nat)) (ps : List Nat)
    (fx : Here → List Nat → List (Nat × LaneFx)) (tdst : W32) (s : State) : Out :=
  onLane s fun h =>
    let ls := h.part g
    if !h.inRange regs then s.illegalAfter h ls
    else if h.wp.waitsFor ls regs ps || h.wp.waitsFor (lanes h.run.mask) [] [g.pred.val] then s.pendWait h g ls regs ps
      else if h.wp.ctrBusy l.ctr then s.waits
      else if sfu != 0 && (decide (4 ≤ s.queued h.uid h.w sfu) || h.drains) then s.waits
      else match s.compared h ls with
        | .error s' => s'
        | .ok s =>
          let fxs := spoil s h (fx h ls)
          if trapping && h.b.rcd.flags % 8 != 0 then
            let s := s.modWarp h.uid h.w fun w => (w.applyAll fxs).advance
            s.fpTrap h tdst (fxs.map fun x => (x.1, x.2.fl))
          else
            let (id, s) := s.takeId
            let o : Op :=
              { uid := h.uid, st := .warp h.w, ctr := l.ctr, word := h.run.word, pc := h.run.va, dests := destsOf fxs
                flags := fxs.map fun x => (x.1, x.2.fl), got := [], fin := .plain, left := 0, sfu := sfu, bad := 0 }
            let s := { s with ops := tset s.ops id o }
            let s := s.modWarp h.uid h.w fun w => (w.issue id l.ctr (o.dests.map Prod.fst)).advance
            s.due (.longLatencyCompletion id)

end Sys2Proof.Machine
end

