-- ==== Sys2Proof/Machine/Memory.lean ====
section
/-! DEFINITION. The memory system: stores with owner tags and keys (R32, R33), the route lookup (R39), translation (R80 to
R87), L1 lines (R151, R162), and the serving of one request at the place its type and route name (R46, R47, R151, R158,
R159). -/

namespace Sys2Proof.Machine

open Sys2Proof

/-! ### Places -/

/-- Memory keys: a holder's bytes by RA, host memory by bus address, scratchpads by physical offset. -/
def keyHolder (h ra : Nat) : Nat := h * 2 ^ 64 + ra
def keyHost (a : Nat) : Nat := 2 ^ 18 * 2 ^ 64 + a
def keySpad (core off : Nat) : Nat := (2 ^ 19 + core) * 2 ^ 64 + off
def keyChip (die off : Nat) : Nat := (2 ^ 20 + die) * 2 ^ 64 + off

/-- R36: the fields of a holder number. -/
def holderDev (h : Nat) : Nat := h / 128
def holderDie (h : Nat) : Nat := h / 8 % 16
def holderStore (h : Nat) : Nat := h % 8
def mkHolder (dev die store : Nat) : Nat := dev * 128 + die * 8 + store

/-- R32: HBM and host memory hold ciphertext; R33: on-chip stores hold plaintext under owner tags. -/
def encrypted (key : Nat) : Bool :=
  decide (key < 2 ^ 19 * 2 ^ 64) && (decide (2 ^ 18 * 2 ^ 64 ≤ key) || holderStore (key / 2 ^ 64) != 2 && holderStore (key / 2 ^ 64) != 3)

/-- R32: the number of a context's key pair; R33: its owner tag; both from 1 up. -/
def State.ownerOf (s : State) (key c : Nat) : Nat :=
  match tget? s.ctxs c with
  | some x => if encrypted key then x.keyNo + 1 else c + 1024 * x.gen + 1
  | none => 0

/-- Whether a placement (its key and its pages) covers a memory key. -/
def placeCovers (p : Nat × Nat) (k : Nat) : Bool := decide (p.1 / 2 ^ 14 ≤ k / 2 ^ 14) && decide (k / 2 ^ 14 < p.1 / 2 ^ 14 + p.2)

/-- The placements of a holder, each as its key and its pages. -/
def State.placements (s : State) (h : Nat) : Tab Nat := trange s.places (keyHolder h 0) (keyHolder (h + 1) 0)

/-- The placement that serves a memory key: that of the longest prefix (R39). -/
def State.placementAt (s : State) (key : Nat) : Option (Nat × Nat) :=
  ((s.placements (key / 2 ^ 64)).filter fun p => placeCovers p key).foldl
    (fun (m : Option (Nat × Nat)) p => match m with | some q => if q.2 ≤ p.2 then m else some p | none => some p) none

/-- R32: the index of what a place of memory that nothing has been written to holds. -/
def State.blank (s : State) (key : Nat) : Nat :=
  match s.placementAt key with
  | some p => (2 ^ 20 + tgetD s.images p.1 0) * 2 ^ 64 + key % 2 ^ 64
  | none => key

/-- R33: whether a line of an encrypted store still lies in an L2 slice under an owner's tag: a reader or writer of another tag finds
zeros there. A free value (notes/assumptions/32.md). -/
def l2Zeros (line tag : Nat) : Bool := tag != 0 && decide (line * 128 < 2 ^ 18 * 2 ^ 64) && Config.l2Holds line tag

/-- R32, R33: a byte as an owner number reads it. -/
def State.rdAs (s : State) (o key : Nat) : Byte :=
  let tag := tgetD s.tags (key / 128) 0
  match if tag = o then tget? s.mem key else none with
  | some b => b
  | none => if encrypted key && (tag == o || !l2Zeros (key / 128) tag) then Config.freshByte (s.blank key) o else 0

/-- A byte put at a place of memory: on chip a zero is not listed (the canonical form). -/
def putCell (m : Tab Byte) (key : Nat) (b : Byte) : Tab Byte := if encrypted key then tset m key b else tput 0 m key b

/-- R32, R33: a line whose bytes another owner's write takes away: in an L2 slice it is zeros from then on. -/
def clearLine (m : Tab Byte) (line tag : Nat) : Tab Byte :=
  let m := tclear m (line * 128) (line * 128 + 128)
  if l2Zeros line tag then (List.range 128).foldl (fun m i => putCell m (line * 128 + i) 0) m else m

/-- R32, R33: a byte written by an owner number; a line of another owner loses its bytes first. -/
def State.wrAs (s : State) (o key : Nat) (b : Byte) : State :=
  let line := key / 128
  let tag := tgetD s.tags line 0
  if tag = o then { s with mem := putCell s.mem key b }
  else { s with mem := putCell (clearLine s.mem line tag) key b, tags := tput 0 s.tags line o }

/-- R32, R33: a byte as a context reads it, and written by a context. -/
def State.rd (s : State) (c key : Nat) : Byte := s.rdAs (s.ownerOf key c) key
def State.wr (s : State) (c key : Nat) (b : Byte) : State := s.wrAs (s.ownerOf key c) key b

/-- R33: the owner tag of a context: its number and its generation. -/
def State.tagOf (s : State) (c : Nat) : Nat := c + 1024 * (match tget? s.ctxs c with | some x => x.gen | none => 0)

/-- Consecutive bytes. -/
def State.rdN (s : State) (c key : Nat) : Nat → List Byte
  | 0 => []
  | n + 1 => s.rd c key :: rdN s c (key + 1) n
def State.wrN (s : State) (c key : Nat) : List Byte → State
  | [] => s
  | b :: t => wrN (s.wr c key b) c (key + 1) t

/-- R103: the poison of a granule: the code of the store at which it was poisoned plus 1, for HBM 16 * (channel + 64 * symbol)
beside it, and 2^18 times the number of the granule there plus 1 (R99); 0 for sound data. -/
def State.poisonAt (s : State) (key : Nat) : Nat := tgetD s.poison (key / 16) 0

/-- R103: the poison of the granules of `n` bytes from a key: of the first poisoned one. -/
def State.poisonIn (s : State) (key n : Nat) : Nat :=
  (((List.range ((key % 16 + n + 15) / 16)).map fun i => tgetD s.poison (key / 16 + i) 0).find? fun p => p != 0).getD 0

/-- R103: poison noted in an op that moves bytes. -/
def State.taint (s : State) (op : Option Nat) (p : Nat) : State :=
  match op with
  | some id => if p = 0 then s else { s with ops := tmod s.ops id fun o => { o with bad := p } }
  | none => s

/-! ### Translation -/

/-- R82: a leaf's permission bits, as bits [19:14] of the entry. -/
def permRd : Nat := 32
def permWr : Nat := 16
def permEx : Nat := 8
def permAt : Nat := 4
def permRt : Nat := 2
def permCow : Nat := 1
def hasPerm (p need : Nat) : Bool := p &&& need == need

/-- R81: page size of a level. -/
def pageSize (level : Nat) : Nat := 2 ^ (7 * level + 7)

/-- R82: a valid entry; the malformed cases read as V = 0. -/
def pteValid (level : Nat) (e : Nat) : Bool :=
  e / 2 ^ 63 % 2 == 1 &&
  (if e / 2 ^ 62 % 2 = 1 then e / 2 ^ 8 % 2 ^ 6 == 0 && !(e / 2 ^ 14 % 2 == 1 && e / 2 ^ 18 % 2 == 1)
   else level != 1 && e % 2 ^ 16 == 0)

/-- R83: the walk from a table at `base` (its RA) whose entry for `level` is index `i`. -/
def walkFrom (ptes : Tab W64) (va : Nat) : Nat → Nat → Nat → Option (Nat × Nat × Nat)
  | 0, _, _ => none
  | level + 1, base, i =>
    let e := (tgetD ptes (base / 8 + i) 0).toNat
    if !pteValid (level + 1) e then none
    else if e / 2 ^ 62 % 2 = 1 then
      let size := pageSize (level + 1)
      some (e / 2 ^ 20 % 2 ^ 42 * 2 ^ 14 / size * size + va % size, e / 2 ^ 14 % 2 ^ 6, level + 1)
    else walkFrom ptes va level (e / 2 ^ 16 % 2 ^ 46 * 2 ^ 10) (va / pageSize level % 128)

/-- R83: a VA of a context as RA, permissions and level. -/
def State.walk (s : State) (c va : Nat) : Option (Nat × Nat × Nat) :=
  match tget? s.ctxs c with
  | none => none
  | some x => if 2 ^ x.rootLog ≤ va / 2 ^ 35 then none else walkFrom s.ptes va 4 x.rootRa (va / 2 ^ 35)

/-- R69: a VA that a context's tables map to an RA: the entries of a table at `base` for `level`, of which there are `n`, the first for
VA `va`. -/
def vaFrom (ptes : Tab W64) (ra : Nat) : Nat → Nat → Nat → Nat → Option Nat
  | 0, _, _, _ => none
  | level + 1, base, n, va =>
    (trange ptes (base / 8) (base / 8 + n)).findSome? fun kv =>
      let size := pageSize (level + 1)
      let at' := va + (kv.1 - base / 8) * size
      let e := kv.2.toNat
      if !pteValid (level + 1) e then none
      else if e / 2 ^ 62 % 2 = 1 then
        let f := e / 2 ^ 20 % 2 ^ 42 * 2 ^ 14 / size * size
        if f ≤ ra ∧ ra < f + size then some (at' + (ra - f)) else none
      else vaFrom ptes ra level (e / 2 ^ 16 % 2 ^ 46 * 2 ^ 10) 128 at'
def State.vaOf (s : State) (c ra : Nat) : Option Nat :=
  match tget? s.ctxs c with
  | none => none
  | some x => vaFrom s.ptes ra 4 x.rootRa (2 ^ x.rootLog) 0

/-- R87: a TLB entry that covers a VA. -/
def tlbFind (es : List TlbEntry) (c va : Nat) : Option TlbEntry :=
  es.find? fun e => e.ctx == c && decide (e.va ≤ va) && decide (va < e.va + pageSize e.level)

def TlbEntry.raOf (e : TlbEntry) (va : Nat) : Nat := e.ra + (va - e.va)

/-- R87: the entry that a core uses for a VA: its own TLB's, or the die's. -/
def State.tlbOf (s : State) (core c va : Nat) : Option TlbEntry :=
  match tget? s.cores core with
  | some k =>
    match tlbFind k.tlb c va with
    | some e => some e
    | none => tlbFind (tgetD s.tlb2 (core / 128) []) c va
  | none => none

/-! ### Fault records and translation for an instruction -/

/-- A fault of one piece: its code, RA, leaf level and outcome (R89, R91). -/
structure Faulted where
  t : Touch
  code : Nat
  ra : Nat
  level : Nat
  outcome : Nat
  deriving DecidableEq, Repr

/-- R92: the page that a fault's record stands for: the leaf's, of its size. -/
def Faulted.page (f : Faulted) : Nat := f.t.va / pageSize (max 1 f.level) * 8 + f.level

/-- R92: faults in ascending lane order. -/
def insertFault (f : Faulted) : List Faulted → List Faulted
  | [] => [f]
  | g :: t => if f.t.lane < g.t.lane then f :: g :: t else g :: insertFault f t
def byLane (fs : List Faulted) : List Faulted := fs.foldl (fun t f => insertFault f t) []

/-- R98, R91: a record of the fault queue. -/
def whoRec (w : Who) (redun : Bool) (st code : Nat) (body : List Byte) : ErrRec :=
  { code := code, exact := true, redun := redun, ctx := w.ctx, die := w.die, core := w.core, warp := w.warp, pc := w.pc
    stamp := st, body := body, keep := true }

/-- R91: the record of one page: its lowest VA and lane, and how many lanes fault on it. -/
def pageRec (w : Who) (redun : Bool) (st : Nat) (fs : List Faulted) (f : Faulted) : ErrRec :=
  let on := fs.filter fun x => x.page == f.page
  let low := on.foldl (fun (m : Faulted) x => if x.t.va < m.t.va then x else m) f
  let n := (on.map fun x => x.t.lane).eraseDups.length
  whoRec w redun st f.code
    (natLe 8 low.t.va ++ natLe 8 low.ra ++ natLe 1 f.t.lane ++ natLe 1 n ++ natLe 1 w.acc ++ natLe 1 f.level ++
      natLe 1 f.outcome ++ natLe 11 0)

/-- The first fault of each page, in ascending lane order. -/
def firstOf : List Nat → List Faulted → List Faulted
  | _, [] => []
  | seen, f :: t => if seen.contains f.page then firstOf seen t else f :: firstOf (f.page :: seen) t

/-- R92: the records of one instruction and its FAULTSUM. -/
def faultRecs (w : Who) (redun : Bool) (st : Nat) (fs : List Faulted) : List ErrRec :=
  let firsts := firstOf [] (byLane fs)
  let mask := maskOf ((fs.map fun f => f.t.lane).filter fun l => decide (l < 32))
  (firsts.take 32).map (pageRec w redun st fs) ++
  [whoRec w redun st 0x2F (natLe 4 mask.toNat ++ natLe 1 firsts.length ++ natLe 27 0)]

/-- R91, R92: an instruction's fault records written to the fault queue; when the context is lost, to its error queue too. -/
def State.faults (s : State) (w : Who) (lost : Bool) (fs : List Faulted) : State :=
  match fs with
  | [] => s
  | f :: _ =>
    let (st, s) := s.readCycles w.die
    let redun := match tget? s.ctxs w.ctx with | some c => c.redun | none => false
    let rs := faultRecs w redun st fs
    let s := { s with faultQ := s.faultQ ++ rs }
    if lost then (rs.foldl (fun s r => s.record r) s).lose w.ctx ((fs.find? fun x => x.code != 0x22).getD f).code else s

/-- R86: the fault that a leaf's permissions give an access that needs some: none, a copy-on-write fault or an access violation. -/
def accessFault (perm need : Nat) : Option Nat :=
  if hasPerm perm need then none
  else if need &&& permWr != 0 && perm &&& permCow != 0 && hasPerm perm (need &&& (0x3F ^^^ permWr)) then some 0x22
  else some 0x21

/-- R86, R91: what the access of an ACC code needs. -/
def accNeed (acc : Nat) : Nat :=
  match acc with
  | 0 | 4 => permRd
  | 1 | 5 => permWr
  | 2 => permRd ||| permWr ||| permAt
  | 3 => permEx
  | _ => permRt

/-- R87: the generation of a context's tables. -/
def State.tgenOf (s : State) (c : Nat) : Nat := match tget? s.ctxs c with | some x => x.tgen | none => 0

/-- R87: translation of all pieces of an instruction on a core before anything else issues: a walk for each page missing
from the TLBs; where all are present, the permission check (R86): ACCESS loses the context, a write to a COW leaf is held
for the memory processor and the instruction is not issued (R90). Answers the RA of each piece. -/
def State.translate (s : State) (core : Nat) (w : Who) (need : Nat) (ts : List Touch) : Except State (List Nat) :=
  let found := ts.map fun t => (t, s.tlbOf core w.ctx t.va)
  let missing := ((found.filter fun x => x.2.isNone).map fun x => x.1.va / 2 ^ 14).eraseDups
  if !missing.isEmpty then
    let go := fun (s : State) (pg : Nat) =>
      let va := pg * 2 ^ 14
      if s.walks.any fun k => k.die == w.die && k.ctx == w.ctx && k.va == va then s
      else ({ s with walks := s.walks ++ [(⟨w.die, w.ctx, va, s.tgenOf w.ctx, false, w, ts⟩ : Walk)] }).due (.tableWalk w.die w.ctx va)
    .error (missing.foldl go s).waits
  else
    let got := found.filterMap fun x => x.2.map fun e => (x.1, e)
    let bad := got.filterMap fun x => (accessFault x.2.perm need).map fun code => (x, code)
    if bad.isEmpty then .ok (got.map fun x => x.2.raOf x.1.va)
    else
      let lost := bad.any fun x => x.2 == 0x21
      let fs := bad.map fun x => (⟨x.1.1, x.2, x.1.2.raOf x.1.1.va, x.1.2.level, if lost then 1 else 0⟩ : Faulted)
      if lost then .error (s.faults w true fs)
      else if (firstOf [] fs).all fun f => s.reqs.any fun kv => kv.2.why == .cow && kv.2.agent == w.agent && kv.2.va / 2 ^ 14 == f.t.va / 2 ^ 14
      then .error s.waits
      else
        let s := s.faults w false fs
        .error ((firstOf [] fs).foldl (fun (s : State) f =>
          let (id, s) := s.takeId
          let r : Req :=
            { acc := if w.acc = 2 then .atomic else if w.acc = 5 then .engineWrite else .store, agent := w.agent, ctx := w.ctx
              die := w.die, core := some core, va := f.t.va, ra := f.ra, len := 0, req := .nc, wide := true, lane := f.t.lane
              bytes := [], at' := 0, op := none, aop := none, round := 0, why := .cow, noted := true, poison := 0 }
          ({ s with reqs := tset s.reqs id r }).due (.cowf id)) s).waits

/-- R333, R334: an address as the core would translate it, without a fault: RA and permissions. -/
def State.peek (s : State) (core c va : Nat) : Option (Nat × Nat) :=
  match s.tlbOf core c va with
  | some e => some (e.raOf va, e.perm)
  | none => (s.walk c va).map fun x => (x.1, x.2.1)

/-! ### The route lookup -/

/-- R39: whether an entry's prefix matches an RA. -/
def Entry.covers (e : Entry) (ra : Nat) : Bool := ra / 2 ^ (56 - e.len) == e.pfx / 2 ^ (42 - e.len)

/-- What a lookup answers. -/
inductive Target where
  | toward (e : Entry)
  | held (w : Held)
  deriving DecidableEq, Repr

def Entry.serving (e : Entry) : Bool := e.st == .active || e.st == .draining
/-- R38: the entries that receive propagated stores. -/
def Entry.receives (e : Entry) : Bool := e.st == .active || e.st == .draining || e.st == .filling

/-- R39: the entry of least cost, ties to the least holder. -/
def nearest : List Entry → Option Entry
  | [] => none
  | e :: t =>
    match nearest t with
    | none => some e
    | some f => if f.cost < e.cost ∨ (f.cost = e.cost ∧ f.holder < e.holder) then some f else some e

/-- R39: the entries of the longest prefix that matches. -/
def Engine.longest (en : Engine) (ra : Nat) : List Entry :=
  let cands := en.entries.filter fun e => e.covers ra
  let l := cands.foldl (fun m e => max m e.len) 0
  cands.filter fun e => e.len == l

/-- R39: the lookup; `home` for an atomic, an add or a contribution, `store` for a plain store. -/
def Engine.resolve (en : Engine) (ra : Nat) (home store : Bool) : Target :=
  let p := en.longest ra
  if p.isEmpty then .held .unrouted
  else
    let some' := p.any Entry.serving
    let rest : Target :=
      if p.any fun e => e.st == .regen then .held .regen
      else if some' && (p.filter Entry.serving).all fun e => e.cost == 2047 then .held .unreachable
      else .held .lostData
    if home || (store && p.any Entry.lock) then
      match p.find? fun e => e.home && e.serving with
      | some e => if e.cost = 2047 then .held .unreachable else .toward e
      | none => if some' then .held .homeless else rest
    else
      match nearest (p.filter fun e => e.st == .active && decide (e.cost < 2047)) with
      | some e => .toward e
      | none => rest

def State.engine (s : State) (die : Nat) : Engine :=
  (tget? s.engines die).getD ⟨[], [], 0, 0, []⟩

/-- R43: an engine's own entry for a prefix and a holder. -/
def Engine.entry? (en : Engine) (pfx len holder : Nat) : Option Entry :=
  en.entries.find? fun e => e.pfx == pfx && e.len == len && e.holder == holder && e.st != .regen

/-- R59: the entry of the holder that a request has reached, as that holder's own engine holds it. A holder that a regeneration
fills (R55) and a peer's have none here. -/
def State.arrival (s : State) (e : Entry) : Option Entry :=
  if holderDev e.holder != s.pkg.device || e.st == .filling then some e
  else (s.engine (holderDie e.holder)).entry? e.pfx e.len e.holder

/-- R40, R53: whether a request that arrives at a holder finds it still serving; `home` where it must be the home. -/
def State.servesAt (s : State) (e : Entry) (home : Bool) : Bool :=
  match s.arrival e with
  | some f => f.receives && (!home || f.home)
  | none => false

/-- R53: whether a new home still waits for the old home's handover marker. -/
def State.awaitsMarker (s : State) (e : Entry) : Bool :=
  s.rops.any fun kv => (kv.2.kind == .migrate || kv.2.kind == .peerFill) && kv.2.phase == 2 && kv.2.pfx == e.pfx && kv.2.len == e.len && kv.2.holder == e.holder

/-! ### Where a holder's bytes lie -/

/-- R84, R85: the grant, of any context, that an RA lies in (an alias, kind 4, has no RAs of its own), or, where it has been revoked,
the one that a frame still mapped elsewhere came from (R93). -/
def State.grantOf (s : State) (ra : Nat) : Option (Nat × Grant) :=
  let holds := fun (g : Grant) => g.kind != 4 && decide (g.ra ≤ ra) && decide (ra < g.ra + g.len)
  match s.ctxs.findSome? fun kv => (kv.2.grants.find? holds).map fun g => (kv.1, g) with
  | some x => some x
  | none => s.orphans.find? fun x => holds x.2

/-- The memory key of an RA at a holder (R85): a host-memory holder serves the host pages behind a kind 1 grant, and the memory
processor's own area for any other; the peer that a kind 3 grant names serves the range that the grant gives it there. -/
def State.keyAt (s : State) (holder ra : Nat) : Nat :=
  match if holderStore holder = 4 || holderDev holder != s.pkg.device then s.grantOf ra else none with
  | some (_, g) =>
    if g.kind = 1 ∧ holderStore holder = 4 then keyHost (g.backA.toNat + (ra - g.ra))
    else if g.kind = 3 ∧ holderDev holder = g.backA.toNat % 1024 ∧ holderDev holder ≠ s.pkg.device then
      keyHolder holder ((g.backB.toNat + (ra - g.ra)) % 2 ^ 56)
    else keyHolder holder ra
  | none => keyHolder holder ra

/-- R32: whether a key is one of the host's own memory, which RAs of several grants may reach. -/
def hostKey (key : Nat) : Bool := decide (2 ^ 18 * 2 ^ 64 ≤ key) && decide (key < 2 ^ 19 * 2 ^ 64)
/-- R32: the owner number of a line at a place, for the RA that it is reached by: a host page's tweak is the RA's line. -/
def tweaked (key ra o : Nat) : Nat := if hostKey key && o != 0 then o + 2 ^ 40 * (ra / 128 + 1) else o
def State.ownerAt (s : State) (c key ra : Nat) : Nat := tweaked key ra (s.ownerOf key c)

/-- R32, R33: bytes of one line at a holder as a context reads them. -/
def State.rdAt (s : State) (c holder ra n : Nat) : List Byte :=
  let key := s.keyAt holder ra
  (List.range n).map fun i => s.rdAs (s.ownerAt c key ra) (key + i)
/-- R32, R33: a byte at a holder written by a context. -/
def State.wrAt (s : State) (c holder ra : Nat) (b : Byte) : State :=
  let key := s.keyAt holder ra
  s.wrAs (s.ownerAt c key ra) key b

/-- R95: whether serving an RA at a holder raises PROMOTE instead. -/
def State.promotes (s : State) (holder ra : Nat) : Bool :=
  (holderStore holder == 4 || holderDev holder != s.pkg.device) &&
  match s.grantOf ra with
  | some (_, g) => (g.kind == 1 || g.kind == 3) && g.flags % 2 == 1
  | none => false

/-- R13, R109: the HBM channel of an RA at a holder: 64 channels interleaved by 128-byte lines. -/
def chanKey (holder ra : Nat) : Nat := (holderDie holder * 2 + holderStore holder) * 64 + ra / 128 % 64

def State.paused (s : State) (holder ra : Nat) : Bool :=
  decide (holderStore holder ≤ 1) && match tget? s.chans (chanKey holder ra) with
    | some ch => ch.paused
    | none => false

/-! ### Privatised bytes and write-back -/

/-- The bytes of a line that a mask selects, by RA. -/
def Line.sel (ln : Line) (base : Nat) (m : BitVec 128) : Tab Byte :=
  (ln.data.filter fun kv => bit m kv.1).map fun kv => (base + kv.1, kv.2)

/-- A mask of `n` bytes from `o`. -/
def byteMask (o n : Nat) : BitVec 128 := BitVec.ofNat 128 ((2 ^ n - 1) * 2 ^ o)
/-- R151: the 4-byte words that `n` bytes from `o` lie in, as a byte mask. -/
def wordMask (o n : Nat) : BitVec 128 := byteMask (o / 4 * 4) ((o + n + 3) / 4 * 4 - o / 4 * 4)
/-- The places in a line of bytes by RA. -/
def bytesMask (bs : Tab Byte) : BitVec 128 := bs.foldl (fun m kv => m ||| byteMask (kv.1 % 128) 1) 0

/-- R151: the words of a request, as a byte mask of its line. -/
def Req.words (r : Req) : BitVec 128 :=
  if r.bytes.isEmpty then wordMask (r.ra % 128) r.len else r.bytes.foldl (fun m kv => m ||| wordMask (kv.1 % 128) 1) 0

/-- R157: the lanes' parts of a request; a request of one access is its only part. -/
def Req.pieces (r : Req) : List Piece := if r.parts.isEmpty then [⟨⟨r.lane, r.va, r.len⟩, r.ra, r.at'⟩] else r.parts

/-- Whether a request writes. -/
def Req.isStore (r : Req) : Bool := r.acc == .store || r.acc == .engineWrite
/-- A request whose arrival its core's release round counts. -/
def Req.counted (r : Req) : Bool := r.core.isSome && (r.isStore || r.acc == .atomic)
/-- Whether what a request writes touches `n` bytes from an RA. -/
def Req.hits (r : Req) (ra n : Nat) : Bool :=
  if r.bytes.isEmpty then decide (r.ra < ra + n) && decide (ra < r.ra + r.len)
  else r.bytes.any fun b => decide (ra ≤ b.1) && decide (b.1 < ra + n)

/-- R103: the poison of the granules of `n` bytes from `o` of a line: of the first poisoned one. -/
def Line.poisonIn (ln : Line) (o n : Nat) : Nat :=
  if ln.poison.isEmpty then 0
  else (((List.range ((o % 16 + n + 15) / 16)).map fun i => tgetD ln.poison (o / 16 + i) 0).find? fun p => p != 0).getD 0

/-- R103: the bytes of a line that a mask selects, by RA, in groups of one poison each. -/
def Line.groups (ln : Line) (base : Nat) (m : BitVec 128) : List (Tab Byte × Nat) :=
  let bs := ln.sel base m
  (((0 :: tvals ln.poison).eraseDups.map fun p => (bs.filter fun kv => tgetD ln.poison (kv.1 % 128 / 16) 0 == p, p))).filter
    fun x => !x.1.isEmpty

/-- R103: the granules that bytes cover whole, of those that a key numbers. -/
def wholeGranule (bs : Tab Byte) (a : Nat) : Bool := (List.range 16).all fun i => (tget? bs (a / 16 * 16 + i)).isSome

/-! ### Records of data errors -/

/-- The PC that a request's records name. -/
def State.reqPc (s : State) (r : Req) : W64 :=
  match r.op with
  | some id => match tget? s.ops id with | some o => o.pc | none => 0
  | none => 0

/-- The least holder of some entries. -/
def leastHolder (es : List Entry) : Nat := es.foldl (fun m e => min m e.holder) (2 ^ 17)

/-- R99: the store that lost data was in: that of the least FAILED holder of the prefix. -/
def State.lostStore (s : State) (die ra : Nat) : Nat :=
  holderStore (leastHolder (((s.engine die).longest ra).filter fun e => e.st == .failed))

/-- R99: the store of the least holder that a held request has waited for: the home, where it must go there and one is known. -/
def State.waitedStore (s : State) (r : Req) : Nat :=
  let p := ((s.engine r.die).longest r.ra).filter Entry.serving
  let homes := p.filter Entry.home
  holderStore (leastHolder (if (r.aop.isSome || (r.isStore && p.any Entry.lock)) && !homes.isEmpty then homes else p))

/-- R91: the access that a request's record names. -/
def accCode : Acc → Nat
  | .load => 0
  | .store => 1
  | .atomic => 2
  | .fetch => 3
  | .engineRead | .engineUse => 4
  | .engineWrite => 5
  | .route => 6

/-- R91, R98: whose access a request is. -/
def State.whoOf (s : State) (r : Req) : Who :=
  let warp := match r.agent with
    | .stream uid (.warp w) => (match s.block? uid with | some b => b.slots.getD w 0xFF | none => 0xFF)
    | .stream _ .seq => 0xFE
    | .engine _ | .chain _ | .host _ | .mp _ => 0xFF
  ⟨r.agent, r.ctx, r.die, match r.core with | some k => k % 128 | none => 0xFF, warp, s.reqPc r,
    if r.aop.isSome && !(match r.agent with | .chain _ => true | _ => false) then 2 else accCode r.acc⟩

/-- R99: the address that a record gives for a place: an RA, or for L2 and L1 the on-chip address (notes/assumptions/52.md). -/
def placeAddr (unit store ra : Nat) : Nat := if store = 5 ∨ store = 7 then (Config.onChipAddr unit store ra).toNat else ra

/-- R99: the address in a record of consumed poison: that of the granule where it was poisoned, which the poison brings with it, or the
place of the access where that lies in it. -/
def poisonAddr (ra at' : Nat) : Nat :=
  if at' / 2 ^ 18 = 0 ∨ at' / 2 ^ 18 - 1 = ra / 16 then ra else (at' / 2 ^ 18 - 1) * 16

/-- R98, R99, R101: a record of a data error that an access consumed; `at'` is the store's code and, for HBM, 16 * (channel + 64 *
symbol) beside it. EXACT only for an engine's command. -/
def State.dataRecord (s : State) (w : Who) (code ra at' count : Nat) : State :=
  let (st, s) := s.readCycles w.die
  let ra := poisonAddr ra at'
  s.record
    { code := code, exact := match w.agent with | .engine _ | .chain _ => true | _ => false
      redun := match tget? s.ctxs w.ctx with | some x => x.redun | none => false
      ctx := w.ctx, die := w.die, core := w.core, warp := w.warp, pc := w.pc, stamp := st
      body := natLe 1 (at' % 16) ++ natLe 1 (at' / 16 % 64) ++ natLe 1 (at' / 1024 % 256) ++ natLe 5 0 ++
        natLe 8 (placeAddr (if at' % 16 = 7 then coreNo w.die w.core else w.die) (at' % 16) ra) ++ natLe 4 count ++ natLe 12 0
      keep := true }

/-- R103: consumption of poison by an access: its context is lost. -/
def State.poisoned (s : State) (w : Who) (ra at' : Nat) : State := (s.dataRecord w 0x13 ra at' 1).lose w.ctx 0x13

/-- R104: a failing residue check at a store discards an add, and its context is lost. -/
def State.residueAt (s : State) (w : Who) (holder ra : Nat) : State :=
  (({ s with badAdders := s.badAdders.erase holder }).dataRecord w 0x16 ra (holderStore holder) 0).lose w.ctx 0x16

/-- Whose access one by the memory processor for a context is. -/
def mpWho (c die : Nat) : Who := ⟨.mp c, c, die, 0xFF, 0xFF, 0, 0⟩

/-- R98, R101: whose write one on its way is: that of an engine's command names the instruction that its op is of. -/
def State.writerOf (s : State) (agent : Agent) (c : Nat) (op : Option Nat) : Who :=
  let pc : W64 := match op.bind (tget? s.ops) with | some o => o.pc | none => 0
  match agent with
  | .engine uid | .chain uid => match s.block? uid with
    | some b => ⟨agent, c, b.die, b.coreNo % 128, 0xFF, pc, 5⟩
    | none => { mpWho c 8 with agent := agent, pc := pc }
  | _ => { mpWho c 8 with agent := agent, pc := pc }

/-! ### Writes on their way -/

/-- Bytes by RA applied at one holder. R103: a granule stays poisoned until a sound write covers it whole; poison travels with the
bytes, but is consumed where it would cross the host port. -/
def State.applyAt (s : State) (agent : Agent) (c holder : Nat) (bs : Tab Byte) (poison : Nat) (op : Option Nat := none) : State :=
  if poison != 0 && holderStore holder == 4 then
    s.poisoned (s.writerOf agent c op) ((bs.map Prod.fst).headD 0) (poison - 1)
  else
    let s := bs.foldl (fun (s : State) kv => s.wrAt c holder kv.1 kv.2) s
    { s with poison := bs.foldl (fun (t : Tab Nat) (kv : Nat × Byte) =>
      let gr := s.keyAt holder kv.1 / 16
      if poison != 0 then tset t gr poison else if wholeGranule bs kv.1 then tdel t gr else t) s.poison }

/-- R160: where a holder's arrivals are counted: its device and die. -/
def countAt (holder : Nat) : Nat := holderDev holder * 16 + holderDie holder
/-- R160: the key of a round at a place. -/
def roundKey (round place : Nat) : Nat := round * 2 ^ 14 + place

/-- R160: a write of a core counted as sent in the present round. -/
def State.countSent (s : State) (core : Option Nat) : Nat × State :=
  match core with
  | none => (0, s)
  | some k =>
    let r := match tget? s.cores k with | some c => c.rnd.toNat | none => 0
    (r, s.modCore k fun c => { c with sent := tset c.sent r (tgetD c.sent r 0 + 1) })

/-- R160: releases of a core that wait ask again. -/
def State.askAgain (s : State) (k : Nat) : State :=
  match tget? s.cores k with
  | some c => s.dues (c.rels.map fun r => .releaseQueryReply (k / 128) (k % 128) r.round)
  | none => s

/-- R160: a write of a core reaches a holder: its die joins the destination set. -/
def State.reaches (s : State) (core : Option Nat) (round holder : Nat) : State :=
  match core with
  | none => s
  | some k => s.modCore k fun c => { c with dests := tset c.dests (roundKey round (countAt holder)) true }

/-- R160: a write landed: the place it reached has counted its arrival. -/
def State.countLanded (s : State) (core : Option Nat) (round holder : Nat) : State :=
  match core with
  | none => s
  | some k =>
    let key := roundKey round (countAt holder)
    ((s.reaches core round holder).modCore k fun c => { c with arrived := tset c.arrived key (tgetD c.arrived key 0 + 1) }).askAgain k

/-- A write that is gone for good (R77, R108): it no longer counts as sent. -/
def State.uncount (s : State) (core : Option Nat) (round : Nat) : State :=
  match core with
  | none => s
  | some k => (s.modCore k fun c => { c with sent := tset c.sent round (tgetD c.sent round 0 - 1) }).askAgain k

/-- R160: whether a round is `round` or an earlier one. -/
def roundUpTo (round r : Nat) : Bool := decide ((round + 65536 - r) % 65536 < 32768)

/-- R160: the reply to the gathered query of a core: what the places of its destination set have counted in rounds up to `round`. -/
def Core.gathered (c : Core) (round : Nat) : Nat :=
  ((c.dests.filter fun kv => roundUpTo round (kv.1 / 2 ^ 14)).map fun kv => tgetD c.arrived kv.1 0).sum
/-- R160: the writes that a core sent in rounds up to `round`. -/
def Core.sentUpTo (c : Core) (round : Nat) : Nat := ((c.sent.filter fun kv => roundUpTo round kv.1).map Prod.snd).sum
/-- R160: whether every write that a core sent in rounds up to `round` has landed. -/
def Core.landed (c : Core) (round : Nat) : Bool := c.sentUpTo round == c.gathered round
/-- R160: every write that a core has sent has landed. -/
def Core.quiet (c : Core) : Bool := (c.sent.map Prod.snd).sum == (c.arrived.map Prod.snd).sum
/-- R160: rounds that have completed leave the destination set. -/
def Core.forgetRounds (c : Core) (round : Nat) : Core :=
  { c with
    sent := c.sent.filter fun kv => !roundUpTo round kv.1
    dests := c.dests.filter fun kv => !roundUpTo round (kv.1 / 2 ^ 14)
    arrived := c.arrived.filter fun kv => !roundUpTo round (kv.1 / 2 ^ 14) }

/-- One part of an op is done: with none left its completion becomes due. -/
def State.opDone (s : State) (op : Option Nat) : State :=
  match op with
  | none => s
  | some id =>
    match tget? s.ops id with
    | none => s
    | some o =>
      let s := { s with ops := tset s.ops id { o with left := o.left - 1 } }
      if 1 < o.left then s
      else match o.fin with
        | .entry .. => s.due (.ldqEntryFilled id)
        | .chain _ => s
        | _ => s.due (.longLatencyCompletion id)

/-- Part of an op made outstanding. -/
def State.opMore (s : State) (op : Option Nat) : State :=
  match op with
  | none => s
  | some id => { s with ops := tmod s.ops id fun o => { o with left := o.left + 1 } }

/-- R46: the other holders that a store applied at `e` is propagated to, by the table of that holder's engine. -/
def State.others (s : State) (e : Entry) : List Nat :=
  let die := if holderDev e.holder = s.pkg.device then holderDie e.holder else 8
  ((s.engine die).entries.filter fun f => f.pfx == e.pfx && f.len == e.len && f.receives && f.holder != e.holder).map Entry.holder

/-- R52: bytes that a propagated store wrote at a filling holder. -/
def State.noteFilled (s : State) (holder : Nat) (bs : Tab Byte) : State :=
  { s with filled := tmap (fun (k : Nat) (v : Tab Bool) =>
      match tget? s.rops k with
      | some r => if r.holder = holder then bs.foldl (fun t b => tset t b.1 true) v else v
      | none => v) s.filled }

/-- R46, R159: a store that reaches its holder: applied there, then on its way to the others; with none left it has landed. -/
def State.commit (s : State) (agent : Agent) (core : Option Nat) (round c : Nat) (e : Entry) (bs : Tab Byte) (op : Option Nat)
    (poison : Nat) : State :=
  let s := s.applyAt agent c e.holder bs poison op
  let left := if bs.isEmpty then [] else s.others e
  if left.isEmpty then (s.countLanded core round e.holder).opDone op
  else
    let (id, s) := s.takeId
    let w : Wr := { agent := agent, core := core, round := round, ctx := c, bytes := bs, holder := e.holder, left := left, op := op, poison := poison }
    { s with writes := tset s.writes id w }.dues (left.map fun h => .propagatedStore (.own id) h)

/-- R55, R90, R95: the fault that a held request raises at the memory processor, as the event that serves it. -/
def heldEvent (id : Nat) : Held → List Instr
  | .unrouted => [.unrouted id]
  | .regen => [.regenf id]
  | .promote => [.promote id]
  | .cow => [.cowf id]
  | .unreachable | .homeless | .lostData | .locked | .channel | .moving | .handover => []

/-- R89: whether what a request waits for is a fault that the memory processor serves. -/
def Held.served : Held → Bool
  | .unrouted | .regen | .promote | .cow => true
  | _ => false

/-- A request that waits. -/
def State.keep (s : State) (r : Req) (w : Held) : State :=
  let (id, s) := s.takeId
  { s with reqs := tset s.reqs id { r with why := w } }.dues (heldEvent id w)

/-- A request that is not served now. R69: a host's access that turns out to need a service ends with a Completer Abort, and only the
service is called for. -/
def State.hold (s : State) (r : Req) (w : Held) : State :=
  match r.agent, r.op with
  | .host _, some id =>
    if w.served then
      ({ s with ops := tmod s.ops id fun o => { o with bad := 1 } }.opDone r.op).keep { r with len := 0, bytes := [], op := none } w
    else s.keep r w
  | _, _ => s.keep r w

/-- A request of the package for a context, seen from an engine's die. -/
def pkgReq (acc : Acc) (agent : Agent) (c die va ra len : Nat) (bs : Tab Byte) (op : Option Nat) : Req :=
  { acc := acc, agent := agent, ctx := c, die := die, core := none, va := va, ra := ra, len := len, req := .nc, wide := true
    lane := 0xFF, bytes := bs, at' := 2 ^ 20, op := op, aop := none, round := 0, why := .unrouted, noted := false, poison := 0 }

/-- R40: a request of no bytes, that only waits for its page's service or route on behalf of an access that is made once the page can
be reached; `home` says that the access must go to the home. -/
def State.callFor (s : State) (agent : Agent) (c die va ra : Nat) (home : Bool) (w : Held) : State :=
  if s.reqs.any fun kv => kv.2.agent == agent && kv.2.ctx == c && kv.2.len == 0 && kv.2.ra / 2 ^ 14 == ra / 2 ^ 14 then s
  else s.hold { pkgReq (if home then .atomic else .load) agent c die va ra 0 [] none with
    aop := if home then some ⟨.or, 0, 0, 0⟩ else none } w

/-- R47: whether a line is locked at a holder. -/
def State.lockedLine (s : State) (ra holder : Nat) : Bool :=
  match tget? s.locks (ra / 128) with
  | some l => l.locked.contains holder || (l.applied && l.home == holder)
  | none => false

/-- R47: whether a write to a line at its home has to lock it at other holders, or waits behind one that does. -/
def State.locksAt (s : State) (e : Entry) (line : Nat) : Bool := e.lock && (!(s.others e).isEmpty || (tget? s.locks line).isSome)

/-- R47: a write put in line at its locked home. -/
def State.queueLocked (s : State) (r : Req) (home : Nat) : State :=
  let (id, s) := s.takeId
  let line := r.ra / 128
  let had := tget? s.locks line
  let l := had.getD ⟨home, [], [], false, none, []⟩
  let s := { s with reqs := tset s.reqs id { r with why := .locked }, locks := tset s.locks line { l with queue := l.queue ++ [id] } }
  if had.isNone then s.due (.lockedWrite line) else s

/-- R328: the new value of an atomic, or none where a .cas compare fails. -/
def aopNew (a : AtomReq) (old : Nat) : Option Nat :=
  let w := 8 * a.n
  let sg := fun (x : Nat) => if 2 ^ (w - 1) ≤ x then (x : Int) - 2 ^ w else (x : Int)
  match a.op with
  | .add => some ((old + a.opd) % 2 ^ w)
  | .minN => some (min old a.opd)
  | .maxN => some (max old a.opd)
  | .minI => some (if sg old ≤ sg a.opd then old else a.opd)
  | .maxI => some (if sg a.opd ≤ sg old then old else a.opd)
  | .and => some (Nat.land old a.opd)
  | .or => some (Nat.lor old a.opd)
  | .xor => some (Nat.xor old a.opd)
  | .exch => some a.opd
  | .cas => if old = a.opd then some a.swp else none
  | .addF32 => some (fpAdd .f32 .rne false old a.opd).1

/-- Loaded bytes handed to an op; a place of 2^20 and above is nowhere. -/
def State.give (s : State) (op : Option Nat) (at' : Nat) (bs : List Byte) : State :=
  match op with
  | none => s
  | some id =>
    if 2 ^ 20 ≤ at' then s
    else
    { s with ops := tmod s.ops id fun o =>
        { o with got := (bs.foldl (fun (ta : Tab Byte × Nat) b => (tset ta.1 ta.2 b, ta.2 + 1)) (o.got, at')).1 } }

/-- Bytes by RA from a list. -/
def bytesAt (ra : Nat) : List Byte → Tab Byte
  | [] => []
  | b :: t => (ra, b) :: bytesAt (ra + 1) t

def State.line? (s : State) (core line : Nat) : Option Line :=
  match tget? s.cores core with
  | some k => tget? k.l1 line
  | none => none

/-- The blocks resident on a core. -/
def State.on (s : State) (core : Nat) : List Block := (tvals s.blocks).filter fun b => b.home.isSome && b.coreNo == core

def sumOf {α : Type} (f : α → Nat) (xs : List α) : Nat := xs.foldl (fun n x => n + f x) 0

/-- R149: the lines that a core's L1 holds: 128 KiB, and what resident blocks leave of the core's 512 KiB of scratchpad. -/
def State.l1Lines (s : State) (core : Nat) : Nat := 1024 + (4096 - sumOf (fun b => b.rcd.scratch / 128) (s.on core))

/-- A line of a core's L1 replaced. -/
def State.setLine (s : State) (core line : Nat) (ln : Line) : State := s.modCore core fun c => { c with l1 := tset c.l1 line ln }

/-- Whether a line holds `n` bytes from `o`. -/
def Line.has (ln : Line) (o n : Nat) : Bool := (List.range n).all fun i => (tget? ln.data (o + i)).isSome

/-- R162: the bytes of a line that are neither dirty nor privatised, within a mask, forgotten. -/
def Line.forget (ln : Line) (m : BitVec 128) : Line :=
  { ln with data := ln.data.filter fun kv => !bit m kv.1 || bit (ln.dirty ||| ln.own) kv.1 }

/-- R159, R160: a write-back or a merge of one core's bytes of a line, as the request that carries it. -/
def backReq (core c : Nat) (bs : Tab Byte) (op : Option Nat) (round poison : Nat) : Req :=
  let ra := (bs.map Prod.fst).headD 0
  { acc := .store, agent := .mp c, ctx := c, die := core / 128, core := some core, va := 0, ra := ra
    len := (bs.map Prod.fst).getLastD ra + 1 - ra, req := .nc, wide := true, lane := 0xFF, bytes := bs, at' := 0, op := op, aop := none
    round := round, why := .unrouted, noted := false, poison := poison }

/-- R47: a write on its way to the locked home of its line, where it takes its place when it arrives. -/
def State.sendLocked (s : State) (r : Req) : State :=
  let (id, s) := s.takeId
  { s with reqs := tset s.reqs id { r with why := .locked } }.due (.requestHoldRelease id)

/-- R162: one core's privatised bytes of a line, within a mask, land at their home slice `e`; in a locked prefix they wait their turn
at the home like any write (R47). -/
def State.mergeLine (s : State) (e : Entry) (core line : Nat) (ln : Line) (m : BitVec 128) : State :=
  let s := s.setLine core line { ln with own := ln.own &&& ~~~m }
  (ln.groups (line * 128) (ln.own &&& m)).foldl (fun (s : State) g =>
    let (rd, s) := s.countSent (some core)
    let c := ln.tag % 1024
    let s := s.reaches (some core) rd e.holder
    if e.lock && !e.home then s.sendLocked (backReq core c g.1 none rd g.2)
    else if s.locksAt e line then s.queueLocked (backReq core c g.1 none rd g.2) e.holder
    else s.commit (.mp c) (some core) rd c e g.1 none g.2) s

/-- R151, R162: the merges of other cores' privatised bytes of a line at its home slice, at the words named. -/
def State.mergeOwn (s : State) (e : Entry) (line : Nat) (m : BitVec 128) (except : Option Nat) : State :=
  s.cores.foldl (fun s kc =>
    if some kc.1 = except then s
    else match tget? kc.2.l1 line with
      | none => s
      | some ln => if ln.own &&& m = 0 || ln.holder != e.holder then s else s.mergeLine e kc.1 line ln m) s

/-- R47, R162: whether a write-back or merge by another core to some of the words has still to be applied at the locked home of a line. -/
def State.mergesWait (s : State) (line : Nat) (m : BitVec 128) (except : Option Nat) : Bool :=
  s.reqs.any fun kv => kv.2.isStore && (match kv.2.agent with | .mp _ => true | _ => false) &&
    kv.2.ra / 128 == line && kv.2.core != except && kv.2.words &&& m != 0

/-- R323: whether an earlier write of the core to one of the bytes has not landed. -/
def State.unlanded (s : State) (core ra n : Nat) : Bool :=
  (s.writes.any fun kv => kv.2.core == some core && kv.2.bytes.any fun b => decide (ra ≤ b.1) && decide (b.1 < ra + n)) ||
  s.reqs.any fun kv => kv.2.core == some core && (kv.2.isStore || kv.2.aop.isSome) && kv.2.hits ra n

/-- R103, R156, R157: a line of a core's L1 as a fill from a holder leaves it: the bytes that stand there now, all at once, but for the
core's own that it has not sent on or that have not landed; poison comes with the bytes. -/
def State.refilled (s : State) (c core holder line : Nat) (ln : Line) : Line :=
  let key := s.keyAt holder (line * 128)
  let now := s.rdAt c holder (line * 128) 128
  let own := fun (o : Nat) => bit (ln.dirty ||| ln.own) o || s.unlanded core (line * 128 + o) 1
  { ln with
    data := (List.range 128).filterMap fun o => (if own o then tget? ln.data o else now[o]?).map fun b => (o, b)
    holder := if ln.own = 0 then holder else ln.holder
    poison := (List.range 8).foldl (fun (t : Tab Nat) g =>
      let kept := (List.range 16).filter fun o => own (16 * g + o)
      let p := if kept.length = 16 then 0 else tgetD s.poison (key / 16 + g) 0
      tput 0 t g (if p = 0 && !kept.isEmpty then tgetD ln.poison g 0 else p)) ln.poison }

/-- R156: what a load served at a holder does to its core's copy of the line: the copy never stays behind what has been read. -/
def State.refresh (s : State) (r : Req) (holder : Nat) : State :=
  match r.core with
  | none => s
  | some k =>
    match s.line? k (r.ra / 128) with
    | none => s
    | some ln => if ln.tag = s.tagOf r.ctx then s.setLine k (r.ra / 128) (s.refilled r.ctx k holder (r.ra / 128) ln) else s

/-- A request done at the holder it has reached. `put` sends the bytes it writes on to the other holders and counts them when
they have landed. R323: a store of a stream completes when it is accepted, an engine's write when it has landed. -/
def State.applyReq (s : State) (r : Req) (e : Entry) (put : State → Tab Byte → Option Nat → State) : State :=
  let key := s.keyAt e.holder r.ra
  match r.aop with
  | some a =>
    if s.poisonAt key != 0 then s.poisoned (s.whoOf r) r.ra (s.poisonAt key - 1)
    else if a.op == .add && s.badAdders.contains e.holder then s.residueAt (s.whoOf r) e.holder r.ra
    else
      let old := leNat (s.rdAt r.ctx e.holder r.ra a.n)
      let s := s.give r.op r.at' (natLe a.n old)
      (match aopNew a old with
        | none => put s [] r.op
        | some x => put s (bytesAt r.ra (natLe a.n x)) r.op).refresh r e.holder
  | none =>
    if r.acc == .store then (put s r.bytes none).opDone r.op
    else if r.acc == .engineWrite then put s r.bytes r.op
    else
      let p := s.poisonIn key r.len
      if p != 0 && r.acc != .engineRead then s.poisoned (s.whoOf r) r.ra (p - 1)
      else
        (((r.pieces.foldl (fun (s : State) x => s.give r.op x.at' (s.rdAt r.ctx e.holder x.ra x.t.len)) s).taint r.op p).opDone
          r.op).refresh r e.holder

/-- R55: the handle of the regeneration that a grid runs for. -/
def State.regenOf (s : State) (uid : Nat) : Option Nat :=
  match s.block? uid with
  | some b => match tget? s.grids b.grid with
    | some g => (match g.owner with | .regen h => some h | _ => none)
    | none => none
  | none => none

/-- R55: the accesses of a regeneration's kernel to its prefix go to the holder that is being filled, and so do the lines that
a core at which one of its blocks is resident writes back. -/
def State.regenEntry (s : State) (r : Req) : Option Entry :=
  let mine := fun (kv : Nat × Regen) => kv.2.grid.isSome && decide (r.ra / 2 ^ (56 - kv.2.len) = kv.2.pfx / 2 ^ (42 - kv.2.len)) &&
    match r.agent with
    | .stream uid _ | .engine uid | .chain uid => s.regenOf uid == some kv.1
    | .mp c => c == kv.2.ctx && r.core.any fun k => (s.on k).any fun b => some b.grid == kv.2.grid
    | .host _ => false
  (s.regens.find? mine).map fun kv =>
    { pfx := kv.2.pfx, len := kv.2.len, st := .filling, home := true, lock := kv.2.lock, holder := kv.2.holder, cost := 0, nhop := .here
      ctx := kv.2.ctx, ver := 0 }

/-- R39, R55: where a request goes. -/
def State.resolveFor (s : State) (r : Req) (home store : Bool) : Target :=
  match (if s.regens.isEmpty then none else s.regenEntry r) with
  | some e => .toward e
  | none => (s.engine r.die).resolve r.ra home store

/-- R47, R59, R151, R158: a request served at the holder `f` that it has reached, as that holder's engine sees it. Writes to a locked line
are on their way there one by one, and the home takes them in the order in which they come (R387). -/
def State.serveAt (s : State) (r : Req) (f : Entry) : State :=
  let home := r.aop.isSome || (r.isStore && f.lock)
  let line := r.ra / 128
  if home && s.awaitsMarker f then s.hold r .handover
  else if s.lockedLine r.ra f.holder && !r.isStore && r.aop.isNone then s.hold r .locked
  else
    let s := (if r.counted then s.reaches r.core r.round f.holder else s).mergeOwn f line r.words r.core
    if s.locksAt f line && home then (if r.why == .locked then s.queueLocked r f.holder else s.sendLocked r)
    else if f.lock && s.mergesWait line r.words r.core then s.hold r .locked
    else s.applyReq r f fun s bs op => s.commit r.agent r.core r.round r.ctx f bs op r.poison

/-- One request served at the holder its route names, or held (R39, R40, R46, R47, R95, R109). A load's bytes go
to its op; a store and an atomic commit and propagate; an atomic's old bytes go to its op and its part of the op is done
when it lands (R329). -/
def State.serve (s : State) (r : Req) : State :=
  match s.resolveFor r r.aop.isSome r.isStore with
  | .held .lostData => s.poisoned (s.whoOf r) r.ra (s.lostStore r.die r.ra)
  | .held w => s.hold r w
  | .toward e =>
    if s.promotes e.holder r.ra then s.hold r .promote
    else if r.len = 0 then s
    else if s.paused e.holder r.ra then s.hold r .channel
    else
      match s.arrival e with
      | some f =>
        if f.receives && (!(r.aop.isSome || (r.isStore && f.lock)) || f.home || f.st == .filling) then s.serveAt r f
        else
          let (id, s) := s.takeId
          { s with reqs := tset s.reqs id { r with die := holderDie e.holder, why := .moving } }.due (.requestBounce id)
      | none =>
        let (id, s) := s.takeId
        { s with reqs := tset s.reqs id { r with die := holderDie e.holder, why := .moving } }.due (.requestBounce id)

/-- A line's bytes sent to their holder as one write, counted in the present round (R159, R160). -/
def State.sendBytes (s : State) (core c : Nat) (bs : Tab Byte) (op : Option Nat) (poison : Nat) : State :=
  if bs.isEmpty then s
  else
    let (rd, s) := s.countSent (some core)
    (s.opMore op).serve (backReq core c bs op rd poison)

/-- R162, R333: a line's dirty bytes written back and its privatised bytes merged; the line is kept. -/
def State.cleanLine (s : State) (core line : Nat) (op : Option Nat) : State :=
  match s.line? core line with
  | none => s
  | some ln =>
    (ln.groups (line * 128) (ln.dirty ||| ln.own)).foldl (fun (s : State) g => s.sendBytes core (ln.tag % 1024) g.1 op g.2)
      (s.setLine core line { ln with dirty := 0, own := 0 })

/-- R329, R333, R350: a line written back and dropped. -/
def State.dropLine (s : State) (core line : Nat) (op : Option Nat) : State :=
  (s.cleanLine core line op).modCore core fun c => { c with l1 := tdel c.l1 line }

/-- R149: whether a core's L1 is full. -/
def State.l1Full (s : State) (core : Nat) : Bool :=
  match tget? s.cores core with
  | some k => decide (s.l1Lines core ≤ k.l1.length)
  | none => false

/-- A line of a core's L1 that can go with nothing to send on. -/
def State.spareLine (s : State) (core : Nat) : Option Nat :=
  match tget? s.cores core with
  | some k => (k.l1.find? fun kv => kv.2.dirty ||| kv.2.own == 0 && !s.unlanded core (kv.1 * 128) 128).map Prod.fst
  | none => none

/-- R149: room made in a core's L1 for one more line: where it is full, a line is evicted, one with nothing to send on first. -/
def State.lineRoom (s : State) (core line : Nat) : State :=
  match tget? s.cores core with
  | none => s
  | some k =>
    if (tget? k.l1 line).isSome || !s.l1Full core then s
    else match (s.spareLine core).or (tkeys k.l1).head? with
      | some old => s.dropLine core old none
      | none => s

/-- R160: whether a stream has writes that have left L1 and have not landed, or L1 has sent some on itself, or stores that a scratchpad
bank has still to take; the sequencer's are also those of its engines' commands (R165). -/
def State.streamOut (s : State) (core uid : Nat) (st : Stream) : Bool :=
  let mine := fun (a : Agent) => match a with
    | .stream u t => u == uid && t == st
    | .engine u | .chain u => u == uid && st == .seq
    | .mp _ => true
    | .host _ => false
  (s.padOut.any fun x => x.uid == uid && x.st == st) ||
  (s.writes.any fun kv => kv.2.core == some core && mine kv.2.agent) ||
  s.reqs.any fun kv => kv.2.core == some core && kv.2.counted && mine kv.2.agent

/-- R151, R160: everything dirty or privatised in a core sent on. -/
def State.cleanCore (s : State) (core : Nat) : State :=
  match tget? s.cores core with
  | none => s
  | some k => (tkeys k.l1).foldl (fun s line => s.cleanLine core line none) s

/-- R154, R161: whether earlier loads of a stream have still to return. -/
def State.loading (s : State) (uid : Nat) (st : Stream) : Bool :=
  s.ops.any fun kv => kv.2.uid == uid && kv.2.st == st && (!kv.2.dests.isEmpty || match kv.2.fin with
    | .entry .. | .pin _ | .tile _ => true
    | _ => false)

/-- R33: a line as the first write of a new owner leaves it: all zeros. -/
def Line.zeroed (ln : Line) (tag : Nat) : Line :=
  { ln with tag := tag, data := (List.range 128).map fun i => (i, 0), dirty := 0, own := 0, poison := [] }

/-- R151, R161: a line filled, or filled again, in a core's L1 from its holder. Where no line can make room for it without sending bytes
on, it is as if it were evicted at once. -/
def State.fillLine (s : State) (r : Req) (core : Nat) (e : Entry) : State :=
  let line := r.ra / 128
  match s.line? core line with
  | some ln => s.setLine core line { s.refilled r.ctx core e.holder line ln with wide := ln.wide || r.wide }
  | none =>
    if s.l1Full core && (s.spareLine core).isNone then s
    else
      let s := s.lineRoom core line
      s.setLine core line (s.refilled r.ctx core e.holder line
        { ty := if r.req == .own then .own else .si, wide := r.wide, holder := e.holder, tag := s.tagOf r.ctx, data := [], dirty := 0, own := 0
          poison := [] })

/-- R162: whether another core holds some of the words of a request privatised at the home slice that a line came from. -/
def State.maskedElsewhere (s : State) (core line holder : Nat) (m : BitVec 128) : Bool :=
  s.cores.any fun kc => kc.1 != core && match tget? kc.2.l1 line with
    | some ln => ln.own &&& m != 0 && ln.holder == holder
    | none => false

/-- R151: a load that L1 does not serve: served at its holder, and its line filled. -/
def State.missPiece (s : State) (core : Nat) (r : Req) : State :=
  let s' := s.serve r
  match s.resolveFor r false false with
  | .toward e => if s'.reqs.length = s.reqs.length then s'.fillLine r core e else s'
  | .held _ => s'

/-- R33, R151, R161, R162: whether a core's L1 serves a load: from a line of another owner, which reads as zeros, or from one that holds
its bytes, was filled at .cluster or wider where the load is so (R170), and is not masked by another core where the load is .own. -/
def State.l1Serves (s : State) (core : Nat) (r : Req) : Bool :=
  r.req != .nc && match s.line? core (r.ra / 128) with
  | none => false
  | some ln => ln.tag != s.tagOf r.ctx || (ln.has (r.ra % 128) r.len && (ln.wide || !r.wide) &&
      !(r.req == .own && s.maskedElsewhere core (r.ra / 128) ln.holder r.words))

/-- R33, R151, R162: one event of a routed load of a core. -/
def State.loadPiece (s : State) (core : Nat) (r : Req) : State :=
  if r.req == .nc then s.serve r
  else match s.line? core (r.ra / 128) with
    | none => s.missPiece core r
    | some ln =>
      let other := ln.tag != s.tagOf r.ctx
      if s.l1Serves core r then
        let p := if other then 0 else ln.poisonIn (r.ra % 128) r.len
        if p != 0 && r.acc != .engineRead then s.poisoned (s.whoOf r) r.ra (p - 1)
        else
          ((r.pieces.foldl (fun (s : State) x => s.give r.op x.at' ((List.range x.t.len).map fun i =>
            if other then 0 else tgetD ln.data (x.ra % 128 + i) 0)) s).taint r.op p).opDone r.op
      else (s.setLine core (r.ra / 128) (ln.forget r.words)).missPiece core r

/-- R103, R151, R162: a store's bytes put into a line: kept dirty, privatised, or (`sent`) already on their way to the holder. -/
def Line.put (ln : Line) (bs : Tab Byte) (own sent : Bool) : Line :=
  let m := bytesMask bs
  { ln with
    data := bs.foldl (fun t kv => tset t (kv.1 % 128) kv.2) ln.data
    dirty := if sent || own then ln.dirty &&& ~~~m else ln.dirty ||| m
    own := if !sent && own then ln.own ||| m else ln.own &&& ~~~m
    poison := ln.poison.filter fun kv => !(bs.any fun b => b.1 % 128 / 16 == kv.1 && wholeGranule bs b.1) }

/-- R33: a core's copy of a line taken over by a store of another owner; what the old owner's stores left there is sent on. -/
def State.takeLine (s : State) (core line c : Nat) : State :=
  match s.line? core line with
  | none => s
  | some ln => if ln.tag = s.tagOf c then s else (s.cleanLine core line none).setLine core line (ln.zeroed (s.tagOf c))

/-- R151, R162: one event of a routed store of a core. A .si or .own store stays in L1, once its route is known where L1 does not
hold the line yet; the others are sent at once. -/
def State.storePiece (s : State) (core : Nat) (r : Req) : State :=
  let line := r.ra / 128
  let own := r.req == .own
  let m := bytesMask r.bytes
  let s := s.takeLine core line r.ctx
  if r.req == .nc || r.req == .wt then
    let s := match s.line? core line with | some ln => s.setLine core line (ln.put r.bytes false true) | none => s
    let (rd, s) := s.countSent (some core)
    s.serve { r with round := rd }
  else
    let held := fun (w : Held) =>
      let s := match s.line? core line with | some ln => s.setLine core line (ln.put r.bytes false true) | none => s
      let (rd, s) := s.countSent (some core)
      s.hold { r with req := .nc, round := rd } w
    match s.line? core line with
    | some ln =>
      if own && s.maskedElsewhere core line ln.holder m then
        match s.resolveFor r false true with
        | .toward e =>
          (((s.mergeOwn ((s.arrival e).getD e) line m (some core)).setLine core line (ln.put r.bytes own false))).opDone r.op
        | .held w => held w
      else (s.setLine core line (ln.put r.bytes own false)).opDone r.op
    | none =>
      match s.resolveFor r false true with
      | .held .lostData => s.serve r
      | .held w => held w
      | .toward e =>
        if s.promotes e.holder r.ra then held .promote
        else
          let s := s.lineRoom core line
          let s := if own then s.mergeOwn ((s.arrival e).getD e) line m (some core) else s
          let ln : Line :=
            { ty := if own then .own else .si, wide := r.wide, holder := e.holder, tag := s.tagOf r.ctx, data := [], dirty := 0, own := 0
              poison := [] }
          (s.setLine core line (ln.put r.bytes own false)).opDone r.op

/-- R329: one atomic of a core: its line is written back, merged and dropped first. -/
def State.atomPiece (s : State) (core : Nat) (r : Req) : State :=
  let s := s.dropLine core (r.ra / 128) none
  let (rd, s) := s.countSent (some core)
  s.serve { r with round := rd }

/-- R157: the fewest naturally aligned pieces of an access of `n` bytes at `a`: offset and length of each. -/
def pieces (a : Nat) : Nat → Nat → Nat → List (Nat × Nat)
  | 0, _, _ => []
  | fuel + 1, o, n =>
    if n = 0 then []
    else
      let fits := [16, 8, 4, 2, 1].find? fun k => decide (k ≤ n) && (a + o) % k == 0
      let k := fits.getD 1
      (o, k) :: pieces a fuel (o + k) (n - k)

/-- R151, R162: what an acquire does to a line that is cached under a directory entry: the line stays, with the core's own bytes and
those that its home slice still holds so. -/
def State.refreshOwn (s : State) (core line : Nat) (ln : Line) : State :=
  let kept := ln.dirty ||| ln.own
  let data := match (s.engine (core / 128)).resolve (line * 128) false false with
    | .toward e =>
      let now := s.rdAt (ln.tag % 1024) e.holder (line * 128) 128
      ln.data.filter fun kv => bit kept kv.1 || now[kv.1]? == some kv.2
    | .held _ => ln.data.filter fun kv => bit kept kv.1
  s.setLine core line { ln with data := data }

/-- R161: an acquire at .cluster or wider, of the lines named: .si lines filled at that scope are written back and dropped; .own
lines give up what is no longer so. -/
def State.dropLines (s : State) (core : Nat) (p : Nat → Bool) : State :=
  match tget? s.cores core with
  | none => s
  | some k => k.l1.foldl (fun s kv =>
      if !kv.2.wide || !p kv.1 then s
      else if kv.2.ty == .si then s.dropLine core kv.1 none
      else s.refreshOwn core kv.1 kv.2) s

/-- R161: an acquire at .cluster or wider. -/
def State.dropShared (s : State) (core : Nat) : State := s.dropLines core fun _ => true

end Sys2Proof.Machine
end

