-- ==== Sys2Proof/Machine/Fetch.lean ====
section
/-! DEFINITION. Fetching code (R245, R316), the checks of branch targets (R246), releases of mask waits (R301) and of
numbered barriers (R143). -/

namespace Sys2Proof.Machine

open Sys2Proof

/-- What the fetch unit obtains for a word: the word, a poisoned word with its RA and the store (R103), something to wait for, or a
fault to be served (R245, R246). -/
inductive Fetched where
  | word (w : W64)
  | poisoned (w : W64) (ra store : Nat)
  | walk
  | fault
  deriving DecidableEq, Repr

/-- R245: the instruction-cache key of a context's word. -/
def codeKey (c : Nat) (va : W64) : Nat := c * 2 ^ 64 + va.toNat / 8

/-- R245: the request of a fetch. -/
def fetchReq (b : Block) (agent : Agent) (va : W64) (ra : Nat) : Req :=
  { acc := .fetch, agent := agent, ctx := b.ctx, die := b.die, core := some b.coreNo, va := va.toNat, ra := ra, len := 8
    req := .nc, wide := true, lane := 0xFF, bytes := [], at' := 0, op := none, aop := none, round := 0, why := .unrouted
    noted := false, poison := 0 }

/-- R245, R316: a code word that the instruction cache does not hold, from its 128-byte line, filled by 8-byte .nc loads at .sys. Words
that the cache holds stay; a poisoned word (R103) stays out, and so does lost data (R54), whose word is zero. `.walk` says that the line
is held for now. -/
def State.fillCode (s : State) (b : Block) (va : W64) (ra : Nat) : Fetched × State :=
  match (s.engine b.die).resolve ra false false with
  | .toward e =>
    if s.promotes e.holder ra then (.fault, s)
    else if s.paused e.holder ra || !s.servesAt e false || s.lockedLine ra e.holder then (.walk, s)
    else
      let s := s.mergeOwn e (ra / 128) (wordMask 0 128) none
      if e.lock && s.mergesWait (ra / 128) (wordMask 0 128) none then (.walk, s) else
      let read := fun (i : Nat) => (BitVec.ofNat 64 (leNat (s.rdAt b.ctx e.holder (ra / 128 * 128 + 8 * i) 8)) : W64)
      let bad := fun (i : Nat) => s.poisonAt (s.keyAt e.holder (ra / 128 * 128 + 8 * i))
      let line := codeKey b.ctx va / 16 * 16
      let i := ra % 128 / 8
      (if bad i = 0 then .word (read i) else .poisoned (read i) ra (bad i - 1),
        s.modCore b.coreNo fun c =>
          { c with icache := ((List.range 16).filter fun j => bad j == 0 && (tget? c.icache (line + j)).isNone).foldl (fun t j => tset t (line + j) (read j)) c.icache })
  | .held .lostData => (.poisoned 0 ra (s.lostStore b.die ra), s)
  | .held _ => (.fault, s)

/-- R245, R316: a code word of a block's core: from its instruction cache or by a fill. A word without EX is an access violation
(R86); a route fault is held for the memory processor. -/
def State.fetch (s : State) (b : Block) (agent : Agent) (warp : Nat) (va : W64) : Fetched × State :=
  match tget? s.cores b.coreNo with
  | none => (.fault, s)
  | some k =>
    match tget? k.icache (codeKey b.ctx va) with
    | some w => (.word w, s)
    | none =>
      let who : Who := ⟨agent, b.ctx, b.die, b.coreNo % 128, warp, va, 3⟩
      match s.tlbOf b.coreNo b.ctx va.toNat with
      | none =>
        match s.translate b.coreNo who permEx [⟨0xFF, va.toNat, 8⟩] with
        | .error s => (.walk, s)
        | .ok _ => (.walk, s)
      | some t =>
        let ra := t.raOf va.toNat
        if !hasPerm t.perm permEx then
          (.fault, s.faults who true [⟨⟨0xFF, va.toNat, 8⟩, 0x21, ra, t.level, 1⟩])
        else match s.fillCode b va ra with
          | (.word w, s) => (.word w, s)
          | (.poisoned w ra x, s) => (.poisoned w ra x, s)
          | (_, s) => (.fault, s.serve (fetchReq b agent va ra))

/-- R246: the word of a branch target as the fetch unit obtains it, where no fault is taken yet. -/
def State.targetWord (s : State) (b : Block) (va : W64) : Fetched × State :=
  match tget? s.cores b.coreNo with
  | none => (.fault, s)
  | some k =>
    match tget? k.icache (codeKey b.ctx va) with
    | some w => (.word w, s)
    | none =>
      match s.peek b.coreNo b.ctx va.toNat with
      | some x => if hasPerm x.2 permEx then s.fillCode b va x.1 else (.fault, s)
      | none => (.fault, s)

/-- R80: whether a VA has any of bits [63:57] set. -/
def highVa (va : Nat) : Bool := decide (2 ^ 57 ≤ va)

/-- What checking the targets of a group finds: threads whose targets fail, or a walk to wait for. -/
structure Checked where
  bad : W32
  walk : Bool

/-- R246, R300: the targets of the participating threads checked on the words the fetch unit obtains. A target whose fetch
would fault passes: the fault is taken there. -/
def State.checkTargets (s : State) (h : Here) : List (Nat × W64) → Checked × State
  | [] => (⟨0, false⟩, s)
  | (l, va) :: t =>
    let (c, s) := checkTargets s h t
    if highVa va.toNat || va.toNat % 8 != 0 then (⟨c.bad ||| maskOf [l], c.walk⟩, s)
    else match s.targetWord h.b va with
      | (.word w, s) | (.poisoned w .., s) => (if isHeader w then c else ⟨c.bad ||| maskOf [l], c.walk⟩, s)
      | (.walk, s) => (⟨c.bad, true⟩, s)
      | (.fault, s) => (c, s)

/-- R246: a control transfer must be the last instruction of its clause. -/
def Run.last (r : Run) : Bool := r.idx + 1 == r.words.length

/-! ### Mask waits -/

/-- A clause that waited at a WAITM passes it (R301). -/
def Run.passed (k : Nat) (r : Run) : Run :=
  if r.blk = some (.mask k) then r.next else r

/-- R137: clauses that are let go issue behind the one that their warp runs. -/
def letRunsGo (p : Run → Bool) (f : Run → Run) (rs : List Run) : List Run := rs.filter (fun r => !p r) ++ (rs.filter p).map f

/-- The pcs of the threads whose clauses ended by passing a WAITM. -/
def Warp.passPcs (w : Warp) (k : Nat) (rs : List Run) : Warp :=
  rs.foldl (fun w r => if r.blk = some (.mask k) ∧ r.idx + 1 = r.words.length then w.setPcs (lanes r.mask) r.after else w) w

/-- R301: the release test of one mask. -/
def Warp.release (w : Warp) (k : Nat) : Warp :=
  let wk := tgetD w.waiters k 0
  if wk = 0 ∨ (w.mask k &&& ~~~wk) ≠ 0 then w
  else
    let gone := tgetD w.leavers k 0 &&& wk
    let all := w.runs ++ (match w.handler with | some hd => hd.runs | none => [])
    let w := w.passPcs k all
    { w with
      waiters := tdel w.waiters k
      leavers := tdel w.leavers k
      masks := tput 0 w.masks k (w.mask k &&& ~~~gone)
      runs := letRunsGo (fun r => r.blk == some (.mask k)) (Run.passed k) w.runs
      handler := w.handler.map fun hd => { hd with runs := letRunsGo (fun r => r.blk == some (.mask k)) (Run.passed k) hd.runs } }

def Warp.releaseAll (w : Warp) : Warp := (List.range 12).foldl (fun w k => w.release k) w

/-! ### Numbered barriers -/

/-- R143: threads of a block that have not exited. -/
def Block.liveThreads (b : Block) : Nat := (tvals b.warps).foldl (fun n w => n + (lanes w.live).length) 0

/-- R143: the number of arrivals that completes a phase. -/
def Block.expected (b : Block) (k : Nat) : Nat :=
  let bar := tgetD b.bars k ⟨false, 0, 0⟩
  if bar.expect = 0 then b.liveThreads + (if b.seq.sexit then 0 else 1) else bar.expect

/-- R143: the arrivals of a warp at a barrier whose phase completes. -/
def Warp.letGo (w : Warp) (k : Nat) : Warp :=
  { w with arr := tmap (fun key (a : Arrival) => if key % 16 = k then { a with released := true } else a) w.arr }

/-- R143, R346: a sequencer that waits in BARW issues it again, which passes once its loads have returned (R161). -/
def Seq.letGo (q : Seq) (k : Nat) : Seq :=
  { q with arr := tdel q.arr k, run := q.run.map fun r => if r.blk = some (.barrier k) then { r with blk := none } else r }

/-- R143: a phase completes when ARRIVED has reached the expected number: PHASE inverts, ARRIVED becomes 0, and every waiter
is released. -/
def Block.barStep (b : Block) (k : Nat) : Block :=
  let bar := tgetD b.bars k ⟨false, 0, 0⟩
  if b.expected k ≤ bar.arrived ∧ 0 < bar.arrived then
    { b with
      bars := tset b.bars k { bar with phase := !bar.phase, arrived := 0 }
      warps := tmap (fun _ w => w.letGo k) b.warps
      seq := b.seq.letGo k }
  else b

/-- R143: `n` arrivals at a barrier. -/
def Block.arrive (b : Block) (k n : Nat) : Block :=
  let bar := tgetD b.bars k ⟨false, 0, 0⟩
  ({ b with bars := tset b.bars k { bar with arrived := bar.arrived + n } }).barStep k

/-- R143: an exit may complete the phases of EXPECT 0 barriers. -/
def Block.barAll (b : Block) : Block := (List.range 16).foldl (fun b k => b.barStep k) b

/-! ### Queues -/

/-- R141: an entry that a warp could pop. -/
def QEntry.forWarp (e : QEntry) (w : Nat) : Bool := e.tag == w || (e.tag == 63 && !bit e.popped w)

/-- R141: an entry tagged 63 is freed when every warp that has not exited has popped it. -/
def Block.freeEntries (b : Block) : Block :=
  let live := (b.warps.filter fun kv => kv.2.exited != BitVec.allOnes 32).map Prod.fst
  { b with queues := tmap (fun _ es => es.filter fun e =>
      e.tag != 63 || !e.ready || !(live.all fun w => bit e.popped w)) b.queues }

/-- The streams that wait on a queue (or, for `none`, at full-empty bits), as the events that test them again. -/
def Block.wakes (b : Block) (uid : Nat) (p : Wait → Bool) (ev : Nat → Stream → Instr) : List Instr :=
  (b.warps.filterMap fun kv =>
    if kv.2.runs.any fun r => match r.blk with | some x => p x | none => false then some (ev uid (.warp kv.1)) else none) ++
  (match b.seq.run with
    | some r => if (match r.blk with | some x => p x | none => false) then [ev uid .seq] else []
    | none => [])

def State.wakeQueues (s : State) (uid : Nat) : State :=
  match s.block? uid with
  | some b => s.dues (b.wakes uid (fun x => match x with | .queue _ => true | _ => false) .queueWaitRelease)
  | none => s

/-- The issuing warp's clause made to wait. -/
def State.block (s : State) (h : Here) (x : Wait) : State :=
  (s.modWarp h.uid h.w fun w => w.setRun [{ h.run with blk := some x }]).waits
def State.seqBlock (s : State) (h : SHere) (x : Wait) : State :=
  (s.modSeq h.uid fun q => { q with run := some { h.run with blk := some x } }).waits

/-- A block on its core with everything of its frame loaded (R130) that no save stops (R59, R296). -/
def Block.active (b : Block) : Bool := b.home.isSome && b.frame.isNone && b.saving.isNone

/-- R115: completion is looked at when a stream ends or an operation completes. -/
def Block.finished (b : Block) : Bool :=
  b.seq.sexit && (tvals b.warps).all fun w => w.exited == BitVec.allOnes 32

end Sys2Proof.Machine
end

