-- ==== Sys2Proof/Machine/Scalar.lean ====
section
/-! DEFINITION. What the lane arithmetic instructions compute for one thread, as functions of raw register values
(15_integer_instructions.md, 16_floating_point_instructions.md). -/

namespace Sys2Proof.Scalar

def w32 : Nat := 2 ^ 32

/-- R263. -/
def iadd (t : Ty) (sat : Bool) (a b : Nat) : Nat := t.fit sat (t.toInt a + t.toInt b)
def isub (t : Ty) (sat : Bool) (a b : Nat) : Nat := t.fit sat (t.toInt a - t.toInt b)
def imin (t : Ty) (a b : Nat) : Nat := t.ofInt (min (t.toInt a) (t.toInt b))
def imax (t : Ty) (a b : Nat) : Nat := t.ofInt (max (t.toInt a) (t.toInt b))
def iabs (t : Ty) (sat : Bool) (a : Nat) : Nat := t.fit sat ((t.toInt a).natAbs : Int)
def ineg (t : Ty) (sat : Bool) (a : Nat) : Nat := t.fit sat (-(t.toInt a))

/-- R264: sum and carry out. -/
def iaddc (sub : Bool) (cin : Bool) (a b : Nat) : Nat × Bool :=
  let b' := if sub then w32 - 1 - b else b
  let x := a + b' + (if cin then 1 else 0)
  (x % w32, decide (w32 ≤ x))

/-- R265. -/
def imul (t : Ty) (a b : Nat) : Nat := t.ofInt (t.toInt a * t.toInt b)
def imulh (t : Ty) (a b : Nat) : Nat := t.ofInt (t.toInt a * t.toInt b / 2 ^ t.width)
def imad (t : Ty) (a b c : Nat) : Nat := t.ofInt (t.toInt a * t.toInt b + t.toInt c)
def imadw (t : Ty) (a b c : Nat) : Nat := ((t.toInt a * t.toInt b + (c : Int)) % 2 ^ 64).toNat

/-- R266. -/
def not (t : Ty) (a : Nat) : Nat := 2 ^ t.width - 1 - a

/-- R267: one bit a turn from bit 0. -/
def lop3Go (lut a b d : Nat) : Nat → Nat → Nat
  | 0, _ => 0
  | n + 1, k =>
    lut / 2 ^ (a / 2 ^ k % 2 + 2 * (b / 2 ^ k % 2) + 4 * (d / 2 ^ k % 2)) % 2 * 2 ^ k + lop3Go lut a b d n (k + 1)
def lop3 (lut a b d : Nat) : Nat := lop3Go lut a b d 32 0

/-- R268. -/
def shl (t : Ty) (a s : Nat) : Nat := if t.width ≤ s then 0 else a * 2 ^ s % 2 ^ t.width
def shr (t : Ty) (a s : Nat) : Nat := if t.width ≤ s then 0 else a / 2 ^ s
def sar (t : Ty) (a s : Nat) : Nat := t.ofInt (t.toInt a / 2 ^ min s (t.width - 1))
def funnel (clamp : Bool) (c : Nat) : Nat := if clamp then min c 32 else c % 32
def fshl (clamp : Bool) (a b c : Nat) : Nat := (a * w32 + b) * 2 ^ funnel clamp c % 2 ^ 64 / w32
def fshr (clamp : Bool) (a b c : Nat) : Nat := (a * w32 + b) / 2 ^ funnel clamp c % w32

/-- R269: pos and len of a field control. -/
def fieldPos (f : Nat) : Nat := f % 256
def fieldLen (f : Nat) : Nat := f / 256 % 256

/-- R269: BFE; bits beyond the width read as the sign of an i type. -/
def bfe (t : Ty) (a f : Nat) : Nat :=
  let len := fieldLen f
  let v : Int := t.toInt a / 2 ^ fieldPos f
  let x := v % 2 ^ len
  if len = 0 then 0
  else t.ofInt (if t.signed && decide (2 ^ (len - 1) ≤ x) then x - 2 ^ len else x)

/-- R269: BFI. -/
def bfi (t : Ty) (a b f : Nat) : Nat :=
  let pos := fieldPos f
  let top := min (pos + fieldLen f) t.width
  if top ≤ pos then b
  else b / 2 ^ top * 2 ^ top + a % 2 ^ (top - pos) * 2 ^ pos + b % 2 ^ pos

/-- R270. -/
def popcGo (a : Nat) : Nat → Nat
  | 0 => 0
  | n + 1 => a % 2 + popcGo (a / 2) n
def popc (t : Ty) (a : Nat) : Nat := popcGo a t.width
def clz (t : Ty) (a : Nat) : Nat := if a = 0 then t.width else t.width - 1 - Nat.log2 a
def brevGo (a : Nat) : Nat → Nat → Nat
  | 0, r => r
  | n + 1, r => brevGo (a / 2) n (2 * r + a % 2)
def brev (t : Ty) (a : Nat) : Nat := brevGo a t.width 0

/-- R271. -/
def icmp (c : ICond) (t : Ty) (a b : Nat) : Bool :=
  let x := t.toInt a
  let y := t.toInt b
  match c with
  | .eq => x = y
  | .ne => x ≠ y
  | .lt => x < y
  | .le => x ≤ y
  | .gt => y < x
  | .ge => y ≤ x

/-- R272: the value MOVI writes. -/
def movi (t : Ty) (imm : Nat) : Nat := if t == .i64 then Ty.ofInt .i64 (Ty.toInt .i32 imm) else imm

/-- R273. -/
def lea (t : Ty) (a b sh : Nat) : Nat := (((a : Int) + t.toInt b * 2 ^ sh) % 2 ^ 64).toNat

/-! ### Floating point -/

/-- R284: the order that puts -0 below +0: whether `a` is below `b`. -/
def fLess (a b : Nat) : Bool :=
  let x := Fmt.decode .f32 a
  let y := Fmt.decode .f32 b
  let c := fpCmp x y
  c == -1 || (c == 0 && x.sign && !y.sign)

/-- R284: FMIN and FMAX: `pick` answers whether the first operand is the result. -/
def fMinMax (prop : Bool) (pick : Nat → Nat → Bool) (a b : Nat) : Res :=
  let x := Fmt.decode .f32 a
  let y := Fmt.decode .f32 b
  let fl := Flg.when (x.isSnan || y.isSnan) Flg.nv
  if x.isNan && y.isNan || prop && (x.isNan || y.isNan) then nanFirst .f32 [a, b] fun _ => (a, 0)
  else if x.isNan then (b, fl)
  else if y.isNan then (a, fl)
  else (if pick a b then a else b, 0)

def fmin (prop : Bool) (a b : Nat) : Res := fMinMax prop (fun x y => !fLess y x) a b
def fmax (prop : Bool) (a b : Nat) : Res := fMinMax prop (fun x y => !fLess x y) a b

/-- R285. -/
def fcmp (c : FCond) (a b : Nat) : Bool × Flg :=
  let x := Fmt.decode .f32 a
  let y := Fmt.decode .f32 b
  let un := x.isNan || y.isNan
  let o := fpCmp x y
  let r := match c with
    | .eq => !un && o == 0
    | .ne => un || o != 0
    | .lt => !un && decide (o < 0)
    | .le => !un && decide (o ≤ 0)
    | .gt => !un && decide (0 < o)
    | .ge => !un && decide (0 ≤ o)
    | .un => un
    | .or => !un
  let bad := match c with
    | .lt | .le | .gt | .ge => un
    | _ => x.isSnan || y.isSnan
  (r, Flg.when bad Flg.nv)

/-- R286. -/
def fclass (f : Fmt) (a : Nat) : Nat :=
  match f.decode a with
  | .nan _ _ s => if s then 2 ^ 0 else 2 ^ 1
  | .inf s => if s then 2 ^ 2 else 2 ^ 9
  | .fin s m _ =>
    if m = 0 then (if s then 2 ^ 5 else 2 ^ 6)
    else if m < 2 ^ f.f then (if s then 2 ^ 4 else 2 ^ 7)
    else if s then 2 ^ 3 else 2 ^ 8

/-- R287: FRND. -/
def frnd (m : Rm) (a : Nat) : Res :=
  nanFirst .f32 [a] fun _ =>
    match Fmt.decode .f32 a with
    | .fin s k e => if 0 ≤ e then (a, 0) else roundDy .f32 .rne false s ⟨(roundInt m s k e).1, 0⟩
    | _ => (a, 0)

/-- R288: FSCALE. A count beyond a thousand gives what a thousand gives: overflow, or a tiny result. -/
def fscale (m : Rm) (a b : Nat) : Res :=
  nanFirst .f32 [a] fun _ =>
    match Fmt.decode .f32 a with
    | .fin s k e =>
      if k = 0 then (a, 0)
      else roundMag .f32 m false s ⟨k, e + max (-1000) (min 1000 (Ty.toInt .i32 b)), false⟩
    | _ => (a, 0)

/-- R289: a packed operation on both halves. -/
def both (f : Nat → Nat → Nat → Res) (a b c : Nat) : Res :=
  let (x, fx) := f (a % 65536) (b % 65536) (c % 65536)
  let (y, fy) := f (a / 65536 % 65536) (b / 65536 % 65536) (c / 65536 % 65536)
  (y * 65536 + x, fx ||| fy)

def hadd2 (t : Fmt) (m : Rm) (sat : Bool) (a b : Nat) : Res := both (fun x y _ => fpAdd t m sat x y) a b 0
def hmul2 (t : Fmt) (m : Rm) (sat : Bool) (a b : Nat) : Res := both (fun x y _ => fpMul t m sat x y) a b 0
def hfma2 (t : Fmt) (m : Rm) (sat : Bool) (a b c : Nat) : Res := both (fpFma t m sat) a b c

/-- R290: the two parts of a complex product, with an optional addend. Values are pairs, real part low. -/
def complex (m : Rm) (a b : Nat) (c : Option Nat) : Res :=
  let re := fun (x : Nat) => x % w32
  let im := fun (x : Nat) => x / w32 % w32
  let d := Fmt.decode .f32
  let part := fun (t1 t2 : Term) (cp : Option Nat) =>
    nanFirst .f32 ([re a, im a, re b, im b] ++ cp.toList) fun _ =>
      sumTerms .f32 m false ([t1, t2] ++ cp.toList.map fun x => some (d x))
  let (r, fr) := part (mulTerm (d (re a)) (d (re b))) ((mulTerm (d (im a)) (d (im b))).map Fp.neg) (c.map re)
  let (i, fi) := part (mulTerm (d (re a)) (d (im b))) (mulTerm (d (im a)) (d (re b))) (c.map im)
  (i * w32 + r, fr ||| fi)

/-- R292: SINCOSPI's pair, the sine low. -/
def sincospi (m : Rm) (a : Nat) : Res :=
  let (s, fs) := fSinpi m a
  let (c, fc) := fCospi m a
  (c * w32 + s, fs ||| fc)

end Sys2Proof.Scalar
end

