-- ==== Sys2Proof/Machine/IntegerOps.lean ====
section
/-! DEFINITION. The integer, bit and conversion instructions (15_integer_instructions.md). Each is one line over `short` or
`long` and the scalar function that gives its rule. -/

namespace Sys2Proof.Machine

open Sys2Proof Scalar

/-- A result in a typed destination. -/
def putTy (t : Ty) (d : VReg) (x : Nat) : LaneFx := ⟨regsOf d.val t.regs x, [], 0⟩
/-- A result in one register. -/
def put1 (d : VReg) (x : Nat) : LaneFx := ⟨regsOf d.val 1 x, [], 0⟩
/-- A typed source. -/
def Warp.src (w : Warp) (t : Ty) (r : VReg) (l : Nat) : Nat := w.wide r.val l t.regs
/-- A 32-bit source. -/
def Warp.src1 (w : Warp) (r : VReg) (l : Nat) : Nat := (w.reg r.val l).toNat
/-- An operand of a type, with its register count (R258). -/
def opd (t : Ty) (r : VReg) : Nat × Nat := (r.val, t.regs)
def opd1 (r : VReg) : Nat × Nat := (r.val, 1)
def opd2 (r : VReg) : Nat × Nat := (r.val, 2)
/-- %tdst of an instruction that names a register (R295, R308). -/
def tdstReg (d : VReg) : W32 := BitVec.ofNat 32 d.val

/-- The shape of two typed sources and a typed destination. -/
def typed2 (g : Guard) (t : Ty) (d a b : VReg) (f : Nat → Nat → Nat) (s : State) : Out :=
  short g [opd t d, opd t a, opd t b] [] (fun w l => putTy t d (f (w.src t a l) (w.src t b l))) (tdstReg d) s
/-- One typed source. -/
def typed1 (g : Guard) (t : Ty) (d a : VReg) (f : Nat → Nat) (s : State) : Out :=
  short g [opd t d, opd t a] [] (fun w l => putTy t d (f (w.src t a l))) (tdstReg d) s

/-- R263: IADD. -/
def execIadd (g : Guard) (t : Ty) (sat : Bool) (d a b : VReg) (s : State) : Out := typed2 g t d a b (iadd t sat) s
/-- R263: ISUB. -/
def execIsub (g : Guard) (t : Ty) (sat : Bool) (d a b : VReg) (s : State) : Out := typed2 g t d a b (isub t sat) s

/-- R264: IADDC. -/
def execIaddc (g : Guard) (sub : Bool) (pi : Option PReg) (po : PReg) (d a b : VReg) (s : State) : Out :=
  short g [opd1 d, opd1 a, opd1 b] (po.val :: (pi.map Fin.val).toList)
    (fun w l =>
      let c := match pi with | some p => w.pred p.val l | none => false
      let r := iaddc sub c (w.src1 a l) (w.src1 b l)
      ⟨regsOf d.val 1 r.1, [(po.val, r.2)], 0⟩) (tdstReg d) s

/-- R265: IMUL. -/
def execImul (g : Guard) (t : Ty) (d a b : VReg) (s : State) : Out := typed2 g t d a b (imul t) s
/-- R265: IMULH. -/
def execImulh (g : Guard) (t : Ty) (d a b : VReg) (s : State) : Out := typed2 g t d a b (imulh t) s
/-- R265: IMAD. -/
def execImad (g : Guard) (t : Ty) (d a b c : VReg) (s : State) : Out :=
  short g [opd t d, opd t a, opd t b, opd t c] []
    (fun w l => putTy t d (imad t (w.src t a l) (w.src t b l) (w.src t c l))) (tdstReg d) s
/-- R265: IMADW: a 64-bit addend and result. -/
def execImadw (g : Guard) (t : Ty) (d a b c : VReg) (s : State) : Out :=
  short g [opd2 d, opd1 a, opd1 b, opd2 c] []
    (fun w l => ⟨regsOf d.val 2 (imadw t (w.src1 a l) (w.src1 b l) (w.wide c.val l 2)), [], 0⟩) (tdstReg d) s

/-- R263: IMIN. -/
def execImin (g : Guard) (t : Ty) (d a b : VReg) (s : State) : Out := typed2 g t d a b (imin t) s
/-- R263: IMAX. -/
def execImax (g : Guard) (t : Ty) (d a b : VReg) (s : State) : Out := typed2 g t d a b (imax t) s
/-- R263: IABS. -/
def execIabs (g : Guard) (t : Ty) (sat : Bool) (d a : VReg) (s : State) : Out := typed1 g t d a (iabs t sat) s
/-- R263: INEG. -/
def execIneg (g : Guard) (t : Ty) (sat : Bool) (d a : VReg) (s : State) : Out := typed1 g t d a (ineg t sat) s

/-- R266: AND. -/
def execAnd (g : Guard) (t : Ty) (d a b : VReg) (s : State) : Out := typed2 g t d a b Nat.land s
/-- R266: OR. -/
def execOr (g : Guard) (t : Ty) (d a b : VReg) (s : State) : Out := typed2 g t d a b Nat.lor s
/-- R266: XOR. -/
def execXor (g : Guard) (t : Ty) (d a b : VReg) (s : State) : Out := typed2 g t d a b Nat.xor s
/-- R266: NOT. -/
def execNot (g : Guard) (t : Ty) (d a : VReg) (s : State) : Out := typed1 g t d a (Scalar.not t) s

/-- R267: LOP3: the third input is the destination's old value. -/
def execLop3 (g : Guard) (lut : BitVec 8) (d a b : VReg) (s : State) : Out :=
  short g [opd1 d, opd1 a, opd1 b] []
    (fun w l => put1 d (lop3 lut.toNat (w.src1 a l) (w.src1 b l) (w.src1 d l))) (tdstReg d) s

/-- A shift of a typed value by a 32-bit count. -/
def shift (g : Guard) (t : Ty) (d a b : VReg) (f : Nat → Nat → Nat) (s : State) : Out :=
  short g [opd t d, opd t a, opd1 b] [] (fun w l => putTy t d (f (w.src t a l) (w.src1 b l))) (tdstReg d) s

/-- R268: SHL. -/
def execShl (g : Guard) (t : Ty) (d a b : VReg) (s : State) : Out := shift g t d a b (shl t) s
/-- R268: SHR. -/
def execShr (g : Guard) (t : Ty) (d a b : VReg) (s : State) : Out := shift g t d a b (shr t) s
/-- R268: SAR. -/
def execSar (g : Guard) (t : Ty) (d a b : VReg) (s : State) : Out := shift g t d a b (sar t) s

/-- Three 32-bit sources. -/
def word3 (g : Guard) (d a b c : VReg) (f : Nat → Nat → Nat → Nat) (s : State) : Out :=
  short g [opd1 d, opd1 a, opd1 b, opd1 c] []
    (fun w l => put1 d (f (w.src1 a l) (w.src1 b l) (w.src1 c l))) (tdstReg d) s

/-- R268: FSHL. -/
def execFshl (g : Guard) (clamp : Bool) (d a b c : VReg) (s : State) : Out := word3 g d a b c (fshl clamp) s
/-- R268: FSHR. -/
def execFshr (g : Guard) (clamp : Bool) (d a b c : VReg) (s : State) : Out := word3 g d a b c (fshr clamp) s

/-- R269: BFE. -/
def execBfe (g : Guard) (t : Ty) (d a f : VReg) (s : State) : Out := shift g t d a f (bfe t) s
/-- R269: BFI. -/
def execBfi (g : Guard) (t : Ty) (d a b f : VReg) (s : State) : Out :=
  short g [opd t d, opd t a, opd t b, opd1 f] []
    (fun w l => putTy t d (bfi t (w.src t a l) (w.src t b l) (w.src1 f l))) (tdstReg d) s

/-- A typed source and a 32-bit result. -/
def count (g : Guard) (t : Ty) (d a : VReg) (f : Nat → Nat) (s : State) : Out :=
  short g [opd1 d, opd t a] [] (fun w l => put1 d (f (w.src t a l))) (tdstReg d) s

/-- R270: POPC. -/
def execPopc (g : Guard) (t : Ty) (d a : VReg) (s : State) : Out := count g t d a (popc t) s
/-- R270: CLZ. -/
def execClz (g : Guard) (t : Ty) (d a : VReg) (s : State) : Out := count g t d a (clz t) s
/-- R270: BREV. -/
def execBrev (g : Guard) (t : Ty) (d a : VReg) (s : State) : Out := typed1 g t d a (brev t) s

/-- R271: ICMP. -/
def execIcmp (g : Guard) (c : ICond) (t : Ty) (p : PReg) (a b : VReg) (s : State) : Out :=
  short g [opd t a, opd t b] [p.val] (fun w l => ⟨[], [(p.val, icmp c t (w.src t a l) (w.src t b l))], 0⟩) 0 s
/-- R271: SEL. -/
def execSel (g : Guard) (t : Ty) (d a b : VReg) (p : PReg) (s : State) : Out :=
  short g [opd t d, opd t a, opd t b] [p.val]
    (fun w l => putTy t d (if w.pred p.val l then w.src t a l else w.src t b l)) (tdstReg d) s

/-- R272: MOV. -/
def execMov (g : Guard) (t : Ty) (d a : VReg) (s : State) : Out := typed1 g t d a id s
/-- R272: MOVI. -/
def execMovi (g : Guard) (t : Ty) (d : VReg) (imm : W32) (s : State) : Out :=
  short g [opd t d] [] (fun _ _ => putTy t d (movi t imm.toNat)) (tdstReg d) s

/-- R273: LEA. -/
def execLea (g : Guard) (t : Ty) (d a b : VReg) (sh : Fin 32) (s : State) : Out :=
  short g [opd2 d, opd2 a, opd1 b] []
    (fun w l => ⟨regsOf d.val 2 (lea t (w.wide a.val l 2) (w.src1 b l) sh.val), [], 0⟩) (tdstReg d) s

/-- R274: the threads whose index names no register of the block. -/
def badIndex (h : Here) (ls : List Nat) (a : VReg) : W32 :=
  maskOf (ls.filter fun l => decide (8 * h.b.rcd.vregs ≤ h.wp.src1 a l))

/-- R275: whether an indexed register of some thread is pending. -/
def indexPending (h : Here) (ls : List Nat) (a : VReg) : Bool :=
  ls.any fun l => (tget? h.wp.pend (regKey (h.wp.src1 a l) l)).isSome

/-- R274 to R276: the shape of VRD and VWR: the bound is checked after comparison, for all threads at once. -/
def indexed (g : Guard) (regs : List (Nat × Nat)) (a : VReg) (fx : Warp → Nat → LaneFx) (tdst : W32) (s : State) : Out :=
  onLane s fun h =>
    let ls := h.part g
    if !h.inRange regs then s.illegalAfter h ls
    else if h.wp.waitsFor ls regs [] || h.wp.waitsFor (lanes h.run.mask) [] [g.pred.val] then s.pendWait h g ls regs []
      else match s.compared h ls with
        | .error s' => s'
        | .ok s =>
          if badIndex h ls a ≠ 0 then s.trapAt h 7 (badIndex h ls a) false
          else if indexPending h ls a then s.waitFor h (ls.filterMap fun l => tget? h.wp.pend (regKey (h.wp.src1 a l) l))
          else
            let fxs := spoil s h (ls.map fun l => (l, fx h.wp l))
            let s := s.modWarp h.uid h.w fun w => (w.applyAll fxs).advance
            s.fpTrap h tdst []

/-- R274: VRD. -/
def execVrd (g : Guard) (d a : VReg) (s : State) : Out :=
  indexed g [opd1 d, opd1 a] a (fun w l => ⟨[(d.val, w.reg (w.src1 a l) l)], [], 0⟩) (tdstReg d) s
/-- R274: VWR. -/
def execVwr (g : Guard) (a b : VReg) (s : State) : Out :=
  indexed g [opd1 a, opd1 b] a (fun w l => ⟨[(w.src1 a l, w.reg b.val l)], [], 0⟩) 0 s

/-- R261: the latency of a conversion: long where a narrow floating format takes part. -/
def conversion (g : Guard) (l : Lat) (narrow : Bool) (regs : List (Nat × Nat)) (fx : Warp → Nat → LaneFx) (tdst : W32)
    (s : State) : Out :=
  if narrow then long g l 2 true regs [] (fun h ls => ls.map fun k => (k, fx h.wp k)) tdst s
  else short g regs [] fx tdst s

/-- R277: CVT. -/
def execCvt (g : Guard) (l : Lat) (t src : Ty) (rm : Rm) (sat : Bool) (d a : VReg) (s : State) : Out :=
  conversion g l (t.isNarrow || src.isNarrow) [opd t d, opd src a]
    (fun w k => let r := cvt t src rm sat (w.src src a k); ⟨regsOf d.val t.regs r.1, [], r.2⟩) (tdstReg d) s
/-- R279: PACK. -/
def execPack (g : Guard) (l : Lat) (t src : Ty) (rm : Rm) (sat : Bool) (h : Bool) (d a b : VReg) (s : State) : Out :=
  conversion g l (t.isNarrow || src.isNarrow) [opd1 d, opd1 a, opd1 b]
    (fun w k =>
      let r := pack t src rm sat h (w.src1 d k) (w.src1 a k) (w.src1 b k)
      ⟨regsOf d.val 1 r.1, [], r.2⟩) (tdstReg d) s
/-- R280: UNPACK. -/
def execUnpack (g : Guard) (l : Lat) (t src : Ty) (e : Fin 4) (d a : VReg) (s : State) : Out :=
  conversion g l (t.isNarrow || src.isNarrow) [opd1 d, opd1 a]
    (fun w k => let r := unpack src e.val (w.src1 a k); ⟨regsOf d.val 1 r.1, [], r.2⟩) (tdstReg d) s

end Sys2Proof.Machine
end

