-- ==== Sys2Proof/Machine/ControlOps.lean ====
section
/-! DEFINITION. Control, masks, cross-lane, traps and system (17_control_and_lane_instructions.md). -/

namespace Sys2Proof.Machine

open Sys2Proof Scalar

/-! ### Branches -/

/-- The issuing clause ended: threads of `tg` at their targets, the others at the next header. -/
def Warp.depart (w : Warp) (r : Run) (tg : List (Nat × W64)) : Warp :=
  let w := w.setRun [{ r with idx := r.words.length }]
  let w := w.setPcs (lanes r.mask) r.after
  { w with pc := tg.foldl (fun t lv => tput 0 t lv.1 lv.2) w.pc }

/-- R246, R300: a control transfer of the participating threads to their targets, with `link` written where it takes
effect. -/
def transfer (g : Guard) (regs : List (Nat × Nat)) (target : Here → Nat → W64) (link : Here → Nat → LaneFx) (s : State) : Out :=
  onLane s fun h =>
    let ls := h.part g
    if !h.inRange regs || !h.run.last then s.illegalAfter h ls
    else if h.wp.waitsFor ls regs [] || h.wp.waitsFor (lanes h.run.mask) [] [g.pred.val] then s.pendWait h g ls regs []
      else match s.compared h ls with
        | .error s' => s'
        | .ok s =>
          let tg := ls.map fun l => (l, target h l)
          match s.checkTargets h tg with
          | (c, s) =>
            if c.walk then s.waits
            else if c.bad ≠ 0 then s.trapAt h 7 c.bad false
            else s.modWarp h.uid h.w fun w => (w.applyAll (ls.map fun l => (l, link h l))).depart h.run tg

/-- No link. -/
def noFx : Here → Nat → LaneFx := fun _ _ => ⟨[], [], 0⟩
/-- R246: an immediate target. -/
def immTarget (off : W32) (h : Here) (_ : Nat) : W64 := h.run.va + 8 * off.signExtend 64
/-- R246: a register target. -/
def regTarget (a : VReg) (h : Here) (l : Nat) : W64 := BitVec.ofNat 64 (h.wp.wide a.val l 2)

/-- R300: BRA. -/
def execBra (g : Guard) (off : W32) (s : State) : Out := transfer g [] (immTarget off) noFx s
/-- R300: BRX. -/
def execBrx (g : Guard) (a : VReg) (s : State) : Out := transfer g [opd2 a] (regTarget a) noFx s
/-- R300: CALL: the link is the next clause header. -/
def execCall (g : Guard) (d : VReg) (off : W32) (s : State) : Out :=
  transfer g [opd2 d] (immTarget off) (fun h _ => ⟨regsOf d.val 2 (h.run.va + 8).toNat, [], 0⟩) s
/-- R300: RET. -/
def execRet (g : Guard) (a : VReg) (s : State) : Out := transfer g [opd2 a] (regTarget a) noFx s

/-- R138, R300: threads of a warp exit: their bits leave every mask and every waiter set. -/
def Warp.exit (w : Warp) (m : W32) : Warp :=
  { w with
    exited := w.exited ||| m
    masks := (List.range 12).foldl (fun t k => tput 0 t k (tgetD t k 0 &&& ~~~m)) w.masks
    waiters := tmap (fun _ v => v &&& ~~~m) w.waiters
    leavers := tmap (fun _ v => v &&& ~~~m) w.leavers }

/-- R300: EXIT. -/
def execExit (g : Guard) (s : State) : Out :=
  onLane s fun h =>
    let ls := h.part g
    if !h.run.last then s.illegalAfter h ls
    else if h.wp.waitsFor (lanes h.run.mask) [] [g.pred.val] then s.pendWait h g [] [] []
      else match s.compared h ls with
        | .error s' => s'
        | .ok s =>
          let m := maskOf ls
          let s := s.modWarp h.uid h.w fun w => ((w.depart h.run []).exit m).releaseAll
          let s := s.modBlock h.uid fun b => b.barAll.freeEntries
          s.wakeQueues h.uid

/-! ### Masks -/

/-- A short instruction that updates warp state other than registers, in one indivisible step (R138); `f` is told the
participating threads. -/
def maskOp (g : Guard) (regs : List (Nat × Nat)) (f : Here → List Nat → Warp → Warp) (s : State) : Out :=
  onLane s fun h =>
    let ls := h.part g
    if !h.inRange regs then s.illegalAfter h ls
    else if h.wp.waitsFor ls regs [] || h.wp.waitsFor (lanes h.run.mask) [] [g.pred.val] then s.pendWait h g ls regs []
      else match s.compared h ls with
        | .error s' => s'
        | .ok s => s.modWarp h.uid h.w fun w => (if ls.isEmpty then w else f h ls w).advance

/-- R301: JOIN. -/
def execJoin (g : Guard) (m : MReg) (s : State) : Out :=
  maskOp g [] (fun _ ls w => (w.setMask m.val (w.mask m.val ||| maskOf ls)).release m.val) s
/-- R301: LEAVE. -/
def execLeave (g : Guard) (m : MReg) (s : State) : Out :=
  maskOp g [] (fun _ ls w => (w.setMask m.val (w.mask m.val &&& ~~~maskOf ls)).release m.val) s

/-- R301: threads arrive at a mask wait: their part of the clause stands at the WAITM, the rest goes on. -/
def Warp.arriveMask (w : Warp) (r : Run) (k : Nat) (lv : Bool) (m : W32) : Warp :=
  let rest := r.mask &&& ~~~m
  let r' : Run := { r.next with mask := rest }
  let w := w.setRun ([{ r with mask := m, blk := some (.mask k) }] ++ (if rest = 0 then [] else [r']))
  let w := if rest ≠ 0 ∧ r'.done then w.setPcs (lanes rest) r.after else w
  ({ w with
    waiters := tset w.waiters k (tgetD w.waiters k 0 ||| m)
    leavers := if lv then tset w.leavers k (tgetD w.leavers k 0 ||| m) else tset w.leavers k (tgetD w.leavers k 0 &&& ~~~m) }).release k

/-- R301: WAITM. -/
def execWaitm (g : Guard) (m : MReg) (lv : Bool) (s : State) : Out :=
  onLane s fun h =>
    let ls := h.part g
    if h.wp.waitsFor (lanes h.run.mask) [] [g.pred.val] then s.pendWait h g [] [] []
    else match s.compared h ls with
      | .error s' => s'
      | .ok s =>
        if ls.isEmpty then s.advance h
        else s.modWarp h.uid h.w fun w => w.arriveMask h.run m.val lv (maskOf ls)

/-- R302: MSET: the lowest participating thread's value. -/
def execMset (g : Guard) (m : MReg) (a : VReg) (s : State) : Out :=
  maskOp g [opd1 a] (fun _ ls w => (w.setMask m.val (w.reg a.val (ls.headD 0))).release m.val) s

/-- R302: MOP's value. -/
def mopVal (op : MopOp) (a b act : W32) : W32 :=
  match op with
  | .and => a &&& b
  | .or => a ||| b
  | .xor => a ^^^ b
  | .andn => a &&& ~~~b
  | .act => act

/-- R302: MOP. -/
def execMop (g : Guard) (op : MopOp) (d a b : MReg) (s : State) : Out :=
  maskOp g [] (fun _ ls w => (w.setMask d.val (mopVal op (w.mask a.val) (w.mask b.val) (maskOf ls))).release d.val) s
/-- R302: MGET. -/
def execMget (g : Guard) (d : VReg) (m : MReg) (s : State) : Out :=
  short g [opd1 d] [] (fun w _ => ⟨[(d.val, w.mask m.val)], [], 0⟩) 0 s

/-! ### Cross-lane -/

/-- The same effect in every participating thread. -/
def allFx (ls : List Nat) (fx : LaneFx) : List (Nat × LaneFx) := ls.map fun l => (l, fx)

/-- R305: BALLOT. -/
def execBallot (g : Guard) (l : Lat) (inv : Bool) (d : VReg) (p : PReg) (s : State) : Out :=
  long g l 0 false [opd1 d] [p.val]
    (fun h ls => allFx ls ⟨[(d.val, maskOf (ls.filter fun j => h.wp.pred p.val j != inv))], [], 0⟩) 0 s

/-- R305: VOTE's answer over the participating threads. -/
def voteVal (op : VoteOp) (bs : List Bool) : Bool :=
  match op with
  | .every => bs.all id
  | .some => bs.any id
  | .none => !bs.any id
  | .agree => bs.all id || !bs.any id

/-- R305: VOTE. -/
def execVote (g : Guard) (l : Lat) (op : VoteOp) (pd ps : PReg) (s : State) : Out :=
  long g l 0 false [] [pd.val, ps.val]
    (fun h ls => allFx ls ⟨[], [(pd.val, voteVal op (ls.map fun j => h.wp.pred ps.val j))], 0⟩) 0 s

/-- R305: MATCH. -/
def execMatch (g : Guard) (l : Lat) (t : Ty) (d a : VReg) (s : State) : Out :=
  long g l 0 false [opd1 d, opd t a] []
    (fun h ls => ls.map fun k => (k, ⟨[(d.val, maskOf (ls.filter fun j => h.wp.src t a j == h.wp.src t a k))], [], 0⟩)) 0 s

/-- R306: the source thread of SHFL, where it is valid. -/
def shflSrc (op : ShflOp) (w l k : Nat) : Option Nat :=
  let b := l - l % w
  match op with
  | .idx => some (b + k % w)
  | .up => if k ≤ l - b then some (l - k) else none
  | .down => if k < b + w - l then some (l + k) else none
  | .xor => some (Nat.xor l (k % w))

/-- R306: SHFL. -/
def execShfl (g : Guard) (l : Lat) (op : ShflOp) (logw : Fin 6) (d a b : VReg) (s : State) : Out :=
  long g l 0 false [opd1 d, opd1 a, opd1 b] []
    (fun h ls => ls.map fun k =>
      let j := match shflSrc op (2 ^ logw.val) k (h.wp.src1 b k) with
        | some j => if ls.contains j then j else k
        | none => k
      (k, ⟨[(d.val, h.wp.reg a.val j)], [], 0⟩)) 0 s

/-- R307: the exclusive identity. -/
def redIdentity (op : RedOp) (t : Ty) : Nat :=
  match op, t with
  | .add, _ => 0
  | .min, .f32 => 0x7F800000
  | .min, .i32 => 0x7FFFFFFF
  | .min, _ => 0xFFFFFFFF
  | .max, .f32 => 0xFF800000
  | .max, .i32 => 0x80000000
  | .max, _ => 0
  | .and, _ => 0xFFFFFFFF
  | .or, _ | .xor, _ => 0

/-- R307: an exact f32 sum of terms, rounded once: an exact zero is -0 in RDN, and where every term is -0. -/
def sumF32 (rm : Rm) (xs : List Nat) : Res :=
  nanFirst .f32 xs fun _ =>
    sumSigned .f32 rm false (rm == .rdn || xs.all fun x => (Fmt.decode .f32 x).isZero && (Fmt.decode .f32 x).sign)
      (xs.map fun x => some (Fmt.decode .f32 x))

/-- R307: a reduction over a nonempty list of values in ascending lane order (log entry 84). -/
def reduce (op : RedOp) (t : Ty) (rm : Rm) (xs : List Nat) : Res :=
  match op, t, xs with
  | _, _, [] => (redIdentity op t, 0)
  | .add, .f32, xs => sumF32 rm xs
  | .min, .f32, x :: xs => xs.foldl (fun r y => let q := fmin false r.1 y; (q.1, r.2 ||| q.2)) (x, 0)
  | .max, .f32, x :: xs => xs.foldl (fun r y => let q := fmax false r.1 y; (q.1, r.2 ||| q.2)) (x, 0)
  | .add, _, x :: xs => (xs.foldl (fun r y => (r + y) % 2 ^ 32) x, 0)
  | .min, t, x :: xs => (xs.foldl (fun r y => imin t r y) x, 0)
  | .max, t, x :: xs => (xs.foldl (fun r y => imax t r y) x, 0)
  | .and, _, x :: xs => (xs.foldl Nat.land x, 0)
  | .or, _, x :: xs => (xs.foldl Nat.lor x, 0)
  | .xor, _, x :: xs => (xs.foldl Nat.xor x, 0)

/-- R307: REDUX. -/
def execRedux (g : Guard) (l : Lat) (op : RedOp) (t : Ty) (rm : Rm) (d a : VReg) (s : State) : Out :=
  long g l 0 (t == .f32) [opd1 d, opd1 a] []
    (fun h ls =>
      let r := reduce op t rm (ls.map fun j => h.wp.src1 a j)
      allFx ls ⟨regsOf d.val 1 r.1, [], r.2⟩) (tdstReg d) s
/-- R307: SCAN. -/
def execScan (g : Guard) (l : Lat) (op : RedOp) (t : Ty) (excl : Bool) (rm : Rm) (d a : VReg) (s : State) : Out :=
  long g l 0 (t == .f32) [opd1 d, opd1 a] []
    (fun h ls => ls.map fun k =>
      let r := reduce op t rm ((ls.filter fun j => decide (j < k) || (!excl && j == k)).map fun j => h.wp.src1 a j)
      (k, ⟨regsOf d.val 1 r.1, [], r.2⟩)) (tdstReg d) s

/-! ### Traps -/

/-- R309, R311: a trap taken after an instruction by its group, where any thread participates. -/
def softTrap (g : Guard) (cause : Nat) (tdst : W32) (s : State) : Out :=
  onLane s fun h =>
    let ls := h.part g
    if h.wp.waitsFor (lanes h.run.mask) [] [g.pred.val] then s.pendWait h g [] [] []
    else match s.compared h ls with
      | .error s' => s'
      | .ok s =>
        let s := s.advance h
        if ls.isEmpty then s
        else s.takeTrap h.uid h.w
          { cause := cause, enter := h.run.mask, tmask := maskOf ls, tdst := tdst, resumeAt := false, seq := false }
          fun _ => h.run.va

/-- R311: TRAP. -/
def execTrap (g : Guard) (code : W32) (s : State) : Out := softTrap g 10 code s
/-- R311: BKPT. -/
def execBkpt (g : Guard) (s : State) : Out := softTrap g 9 0 s

/-- R310, R312, R314: a sequencer that goes on at an address: in the middle of its clause, or at a header, where an address that SWR has
`written` always stands. -/
def Seq.goOn (q : Seq) (va : W64) (written : Bool) : Seq :=
  match q.run with
  | some r =>
    if r.holdsVa va && !written then
      let i := (va - r.hdr).toNat / 8 - 1
      { q with run := some (if i = r.idx then r.again else { r.again with idx := i, blk := none }) }
    else { q with run := none, pc := va }
  | none => { q with pc := va }

/-- R312: what a warp's TRET does for the sequencer whose trap it handled: it resumes at %tpc, or at the word behind it. -/
def Seq.resume (q : Seq) (w : Warp) : Seq :=
  match q.trap, w.handler with
  | some t, some hd =>
    if !bit w.tcause 9 || !t.delivered then q
    else
      let l := (lanes hd.entered).headD 0
      ({ q with trap := none }).goOn (w.resumePc l) (bit w.tpcSet l)
  | _, _ => q

/-- R310: TRET. Outside a handler it is ILLEGAL. -/
def execTret (g : Guard) (s : State) : Out :=
  onLane s fun h =>
    let ls := h.part g
    if h.wp.handler.isNone || !h.run.last then s.illegalAfter h ls
    else if h.wp.waitsFor (lanes h.run.mask) [] [g.pred.val] then s.pendWait h g [] [] []
      else match s.compared h ls with
        | .error s' => s'
        | .ok s =>
          if ls.isEmpty then s.modWarp h.uid h.w fun w => w.depart h.run []
          else
            let s := s.modSeq h.uid fun q => q.resume h.wp
            s.modWarp h.uid h.w Warp.leave

/-! ### Special registers and the rest -/

/-- R313: lane registers that SRD of a special register writes. -/
def specWidth : SpecReg → Nat
  | .blockid | .clusterid | .tpc | .ccount => 2
  | _ => 1

/-- R313: what SRD reads (but for %ccount). -/
def sregVal (h : Here) (dev : Nat) (r : SpecReg) (l : Nat) : Nat :=
  match r with
  | .laneid => l
  | .warpid => h.w
  | .blockid => h.b.blockid
  | .clusterid => h.b.blockid / h.b.rcd.cblocks
  | .dieid => dev * 16 + h.b.die
  | .coreid => h.b.coreNo % 128
  | .tmask => h.wp.tmask.toNat
  | .tpc => (h.wp.tpcOf l).toNat
  | .tcause => h.wp.tcause.toNat
  | .tdst => h.wp.tdst.toNat
  | .stklim => h.wp.stklim.toNat
  | .ccount => 0
  | .fflags => (h.wp.flagsOf l).toNat

/-- R313: SRD. %ccount is read when SRD issues (R16). -/
def execSrd (g : Guard) (r : SpecReg) (d : VReg) (s : State) : Out :=
  match r with
  | .ccount =>
    onLane s fun h =>
      let (n, s') := s.readCycles h.b.die
      match shortH g [opd2 d] [] (fun _ _ => ⟨regsOf d.val 2 n, [], 0⟩) 0 s' with
      | .next t => t
      | _ => s
  | _ =>
    shortH g [(d.val, specWidth r)] [] (fun h l => ⟨regsOf d.val (specWidth r) (sregVal h s.pkg.device r l), [], 0⟩) 0 s

/-- R314: SWR. -/
def execSwr (g : Guard) (r : SpecReg) (b : VReg) (s : State) : Out :=
  onLane s fun h =>
    let ls := h.part g
    let inH := h.wp.handler.isSome
    let n := if r = .tpc then 2 else 1
    if !h.inRange [(b.val, n)] || ((r = .tpc || r = .tcause) && !inH) then s.illegalAfter h ls
    else if h.wp.waitsFor ls [(b.val, n)] [] || h.wp.waitsFor (lanes h.run.mask) [] [g.pred.val] then s.pendWait h g ls [(b.val, n)] []
    else match s.compared h ls with
      | .error s' => s'
      | .ok s =>
        let v := h.wp.reg b.val (ls.headD 0)
        if ls.isEmpty then s.advance h
        else if r = .stklim ∧ h.b.rcd.privWords < v.toNat then s.trapAt h 7 h.run.mask false
        else s.modWarp h.uid h.w fun w =>
          (match r with
            | .fflags => ls.foldl (fun (w : Warp) l => w.setFlags l (BitVec.ofNat 8 ((h.wp.reg b.val l).toNat % 32))) w
            | .stklim => { w with stklim := v }
            | .tpc =>
              { (w.setTpcs ls fun l => BitVec.ofNat 64 (h.wp.wide b.val l 2)) with
                tpcSet := w.tpcSet ||| maskOf ls, tcause := w.tcause ||| 256 }
            | .tcause => { w with tcause := (w.tcause &&& ~~~(256 : W32)) ||| (v &&& 256) }
            | _ => w).advance

/-- R315: NOP. -/
def execNop (g : Guard) (s : State) : Out := maskOp g [] (fun _ _ w => w) s
/-- R244, R315: YIELD: as if the header of its clause had YIELD set. -/
def execYield (g : Guard) (s : State) : Out := maskOp g [] (fun h _ w => w.setRun [{ h.run with yieldBit := true }]) s

/-- R126, R127, R315: PDONE: in the pre-emption handler, with a request pending, the warp is to suspend once its memory
operations have completed; elsewhere it does nothing. -/
def execPdone (g : Guard) (s : State) : Out :=
  onLane s fun h =>
    let ls := h.part g
    let pre := match h.wp.handler with | some x => x.pre | none => false
    if h.wp.waitsFor (lanes h.run.mask) [] [g.pred.val] then s.pendWait h g [] [] []
    else match s.compared h ls with
      | .error s' => s'
      | .ok s =>
        let s := s.advance h
        if ls.isEmpty || !pre || !h.b.preempt then s
        else (s.modWarp h.uid h.w fun w => { w with pdone := some (maskOf ls) }).waits

/-- R316: FETCHB: clauses fetched ahead are discarded, for the warp or for the whole block. -/
def execFetchb (g : Guard) (wide : Bool) (s : State) : Out :=
  onLane s fun h =>
    let ls := h.part g
    if h.wp.waitsFor (lanes h.run.mask) [] [g.pred.val] then s.pendWait h g [] [] []
    else match s.compared h ls with
      | .error s' => s'
      | .ok s =>
        let s := if ls.isEmpty then s
          else if wide then s.modBlock h.uid fun b =>
            { b with warps := tmap (fun _ w => { w with ahead := [] }) b.warps, seq := { b.seq with ahead := [] } }
          else s.modWarp h.uid h.w fun w => { w with ahead := [] }
        s.advance h

/-- R316: ICINV: lines of the issuing core's instruction cache removed. -/
def execIcinv (g : Guard) (all : Bool) (a : VReg) (s : State) : Out :=
  onLane s fun h =>
    let ls := h.part g
    let regs := if all then [] else [opd2 a]
    if !h.inRange regs then s.illegalAfter h ls
    else if h.wp.waitsFor ls regs [] || h.wp.waitsFor (lanes h.run.mask) [] [g.pred.val] then s.pendWait h g ls regs []
    else match s.compared h ls with
      | .error s' => s'
      | .ok s =>
        let va := fun (l : Nat) => h.wp.wide a.val l 2
        if !all && ls.any fun l => highVa (va l) then s.trapAt h 7 h.run.mask false
        else
          let base := h.b.ctx * 2 ^ 64
          let s := if ls.isEmpty then s
            else s.modCore h.b.coreNo fun c =>
              if all then { c with icache := tclear c.icache base (base + 2 ^ 64) }
              else { c with icache := ls.foldl (fun t l =>
                let lo := base + va l / 128 * 16
                tclear t lo (lo + 16)) c.icache }
          s.advance h

end Sys2Proof.Machine
end

