-- ==== Sys2Proof/Machine/LaneMemory.lean ====
section
/-! DEFINITION. Memory, atomic and fence instructions of the lanes (18_memory_instructions.md), and POPQ and PUSHQ (R344). -/

namespace Sys2Proof.Machine

open Sys2Proof

/-! ### The common shape -/

/-- R144, R258, R105: a long-latency lane memory instruction up to the point where it acts: operands in range, nothing
pending, its counter below its bound, both issues equal. -/
def memGate (g : Guard) (l : Lat) (regs : List (Nat × Nat)) (k : Here → List Nat → State → State) (s : State) : Out :=
  onLane s fun h =>
    let ls := h.part g
    if !h.inRange regs then s.illegalAfter h ls
    else if h.wp.waitsFor ls regs [] || h.wp.waitsFor (lanes h.run.mask) [] [g.pred.val] then s.pendWait h g ls regs []
      else if h.wp.ctrBusy l.ctr then s.waits
      else match s.compared h ls with
        | .error s' => s'
        | .ok s => if ls.isEmpty then s.advance h else k h ls s

/-- A new op of the issuing warp (R144): its destinations pending, its counter raised, the clause passed. With no part
outstanding its completion is due. -/
def State.openOp (s : State) (h : Here) (l : Lat) (fin : Fin') (dests : List (Nat × W64)) (left : Nat) : Nat × State :=
  let (id, s) := s.takeId
  let o : Op :=
    { uid := h.uid, st := .warp h.w, ctr := l.ctr, word := h.run.word, pc := h.run.va, dests := dests, flags := [], got := []
      fin := fin, left := left, sfu := 0, bad := 0 }
  let s := ({ s with ops := tset s.ops id o }).modWarp h.uid h.w fun w => (w.issue id l.ctr (dests.map Prod.fst)).advance
  (id, if left = 0 then s.due (.longLatencyCompletion id) else s)

/-- The pending keys of `n` registers from `d` in the threads. -/
def destKeys (ls : List Nat) (d n : Nat) : List (Nat × W64) :=
  ls.flatMap fun l => (List.range n).map fun i => (regKey (d + i) l, 0)

/-- R319: the address of LD, ST, CCTL and PREF, modulo 2^64. -/
def Here.eaMod (h : Here) (a : VReg) (off : BitVec 16) (l : Nat) : Nat :=
  (BitVec.ofNat 64 (h.wp.wide a.val l 2) + off.signExtend 64).toNat

/-- R319: a base of 32 bits plus an offset, exactly. -/
def Here.addr (h : Here) (a : VReg) (off : BitVec 16) (l : Nat) : Int := ((h.wp.reg a.val l).toNat : Int) + off.toInt

/-- R91: whose access it is. -/
def Here.who (h : Here) (acc : Nat) : Who :=
  ⟨.stream h.uid (.warp h.w), h.b.ctx, h.b.die, h.b.coreNo % 128, h.b.slots.getD h.w 0xFF, h.run.va, acc⟩

/-- R157: the pieces of each thread's access. -/
def touchesOf (ls : List Nat) (ea : Nat → Nat) (n : Nat) : List Touch :=
  ls.flatMap fun l => (pieces (ea l) 16 0 n).map fun p => ⟨l, ea l + p.1, p.2⟩

/-- R152: scopes that reach beyond the block. -/
def isWide : Scope → Bool
  | .warp | .block => false
  | _ => true

/-- The request of one piece of a lane's access. -/
def Here.req (h : Here) (acc : Acc) (rt : ReqTy) (wide : Bool) (t : Touch) (ra : Nat) : Req :=
  { acc := acc, agent := .stream h.uid (.warp h.w), ctx := h.b.ctx, die := h.b.die, core := some h.b.coreNo, va := t.va
    ra := ra, len := t.len, req := rt, wide := wide, lane := t.lane, bytes := [], at' := 0, op := none, aop := none, round := 0
    why := .unrouted, noted := false, poison := 0 }

/-- R323: the words of an access that L1 does not serve, or that leaves it (`out`), are first written back; then it waits for the core's
earlier writes of those bytes. Answers the state after the write-backs and whether the access must still wait. -/
def State.prepare (s : State) (core : Nat) (out : Bool) (rs : List Req) : State × Bool :=
  let past := rs.filter fun r => out || !s.l1Serves core r
  let s := past.foldl (fun (s : State) r =>
    match s.line? core (r.ra / 128) with
    | some ln => if r.isStore && !out || (ln.dirty ||| ln.own) &&& r.words = 0 then s else s.cleanLine core (r.ra / 128) none
    | none => s) s
  (s, past.any fun r => s.unlanded core r.ra r.len)

/-- R157: whether the accesses of the threads form a fully coalesced line. -/
def coalesced (ls : List Nat) (ea : Nat → Nat) (n : Nat) : Bool :=
  match ls with
  | [] => false
  | l :: _ =>
    ls.length * n == 128 && ls.all (fun j => ea j % n == 0 && ea j / 128 == ea l / 128) &&
    (ls.map ea).eraseDups.length == ls.length

/-- R157: the requests of a fully coalesced line as the one event that they are. -/
def asLine (rs : List Req) : List Req :=
  match rs with
  | [] => []
  | r :: _ =>
    [{ r with ra := r.ra / 128 * 128, len := 128, parts := rs.flatMap Req.pieces
              bytes := rs.foldl (fun t q => q.bytes.foldl (fun t kv => tset t kv.1 kv.2) t) [] }]

/-! ### Routed loads and stores -/

/-- R320, R321, R323: a routed load of the participating threads from their addresses. -/
def State.loadLanes (s : State) (h : Here) (ls : List Nat) (l : Lat) (sz : Size) (rt : ReqTy) (wide : Bool) (d : VReg)
    (ea : Nat → Nat) : State :=
  let core := h.b.coreNo
  let ts := touchesOf ls ea sz.bytes
  match s.translate core (h.who 0) permRd ts with
  | .error s' => s'
  | .ok ras =>
    let rs := (ts.zip ras).map fun x => { h.req .load rt wide x.1 x.2 with at' := x.1.lane * 16 + (x.1.va - ea x.1.lane) }
    let rs := if coalesced ls ea sz.bytes then asLine rs else rs
    let (s, wait) := s.prepare core (rt == .nc) rs
    if wait then s.waits
    else
      let (id, s) := s.openOp h l (.lanes sz d.val ls) (destKeys ls d.val sz.regs) rs.length
      rs.foldl (fun s r => s.loadPiece core { r with op := some id }) s

/-- R322: the bytes that each thread's store leaves after those of higher threads have been taken away. -/
def ownBytes (ls : List Nat) (ea : Nat → Nat) (n : Nat) (t : Touch) (k : Nat) : Bool :=
  !(ls.any fun j => decide (t.lane < j) && decide (ea j ≤ t.va + k) && decide (t.va + k < ea j + n))

/-- R320, R322, R323: a routed store of the participating threads. -/
def State.storeLanes (s : State) (h : Here) (ls : List Nat) (l : Lat) (sz : Size) (rt : ReqTy) (wide : Bool) (d : VReg)
    (ea : Nat → Nat) : State :=
  let core := h.b.coreNo
  let n := sz.bytes
  let ts := touchesOf ls ea n
  match s.translate core (h.who 1) permWr ts with
  | .error s' => s'
  | .ok ras =>
    let rs := (ts.zip ras).map fun x =>
      let v := h.wp.wide d.val x.1.lane sz.regs / 2 ^ (8 * (x.1.va - ea x.1.lane))
      let bs := (bytesAt x.2 (natLe x.1.len v)).filter fun kv => ownBytes ls ea n x.1 (kv.1 - x.2)
      { h.req .store rt wide x.1 x.2 with bytes := bs }
    let rs := rs.filter fun r => !r.bytes.isEmpty
    let rs := if coalesced ls ea n then asLine rs else rs
    let (s, wait) := s.prepare core (rt == .nc || rt == .wt) rs
    if wait || rs.any (fun r => s.unlanded core r.ra r.len) then s.waits
    else
      let (id, s) := s.openOp h l .plain [] rs.length
      rs.foldl (fun s r => s.storePiece core { r with op := some id }) s

/-- R320, row 2: the threads whose routed address has any of bits [63:57] set. -/
def highLanes (ls : List Nat) (ea : Nat → Nat) : W32 := maskOf (ls.filter fun l => highVa (ea l))

/-- R320, rows 1 and 2, for LD and ST: a full-empty qualifier, or a high address. -/
def ldBad (ls : List Nat) (fe : Fe) (ea : Nat → Nat) : W32 := if fe = .none then highLanes ls ea else maskOf ls

/-- R321: LD. -/
def execLd (g : Guard) (l : Lat) (sz : Size) (rt : ReqTy) (sc : Scope) (fe : Fe) (d a : VReg) (off : BitVec 16) (s : State) : Out :=
  memGate g l [(d.val, sz.regs), opd2 a] (fun h ls s =>
    let ea := h.eaMod a off
    let bad := ldBad ls fe ea
    if bad ≠ 0 then s.trapAt h 7 bad false else s.loadLanes h ls l sz rt (isWide sc) d ea) s

/-- R322: ST. -/
def execSt (g : Guard) (l : Lat) (sz : Size) (rt : ReqTy) (sc : Scope) (fe : Fe) (d a : VReg) (off : BitVec 16) (s : State) : Out :=
  memGate g l [(d.val, sz.regs), opd2 a] (fun h ls s =>
    let ea := h.eaMod a off
    let bad := ldBad ls fe ea
    if bad ≠ 0 then s.trapAt h 7 bad false else s.storeLanes h ls l sz rt (isWide sc) d ea) s

/-! ### Private memory -/

/-- R319: whether a private index is in bounds. -/
def Here.privIn (h : Here) (a : VReg) (off : BitVec 16) (l : Nat) : Bool :=
  decide (0 ≤ h.addr a off l) && decide (h.addr a off l < h.wp.stklim.toNat)

/-- R319: the address of a private word. -/
def Here.privEa (h : Here) (a : VReg) (off : BitVec 16) (l : Nat) : Nat :=
  (h.b.rcd.privBase.toNat +
    ((h.b.blockid * h.b.rcd.warps + h.w) * h.b.rcd.privWords * 32 + (h.addr a off l).toNat * 32 + l) * 4) % 2 ^ 64

/-- R320, R325: a private access: row 2 on the addresses in bounds, then the stack-limit trap. -/
def privGate (g : Guard) (l : Lat) (d a : VReg) (off : BitVec 16) (k : Here → List Nat → (Nat → Nat) → State → State) (s : State) :
    Out :=
  memGate g l [opd1 d, opd1 a] (fun h ls s =>
    let ea := h.privEa a off
    let out := ls.filter fun j => !h.privIn a off j
    let high := highLanes (ls.filter fun j => h.privIn a off j) ea
    if high ≠ 0 then s.trapAt h 7 high false
    else if !out.isEmpty then s.trapAt h 5 (maskOf out) true
    else k h ls ea s) s

/-- R324: LD.priv. -/
def execLdPriv (g : Guard) (l : Lat) (d a : VReg) (off : BitVec 16) (s : State) : Out :=
  privGate g l d a off (fun h ls ea s => s.loadLanes h ls l .b32 .si false d ea) s
/-- R324: ST.priv. -/
def execStPriv (g : Guard) (l : Lat) (d a : VReg) (off : BitVec 16) (s : State) : Out :=
  privGate g l d a off (fun h ls ea s => s.storeLanes h ls l .b32 .si false d ea) s

/-! ### Scratchpads -/

/-- The three scratchpad levels a lane names. -/
inductive Pad where
  | core | cluster | chip
  deriving DecidableEq, Repr

/-- R147: the block of a rank in the issuing block's cluster. -/
def State.ranked (s : State) (b : Block) (rank : Nat) : Option Block :=
  match tget? s.clusters b.cluster with
  | some c => (c.blocks.filterMap fun u => s.block? u).find? fun x => x.rank == rank
  | none => none

/-- R146, R147, R148, R319: the memory key of an access of `n` bytes, or none out of bounds. -/
def State.padKey (s : State) (b : Block) (p : Pad) (a : Int) (n : Nat) : Option Nat :=
  match p with
  | .core => if 0 ≤ a ∧ a + n ≤ b.rcd.scratch then some (keySpad b.coreNo (b.scratchBase + a.toNat)) else none
  | .chip =>
    if 0 ≤ a ∧ a + n ≤ b.rcd.cscratch then
      match tget? s.clusters b.cluster with
      | some c => some (keyChip b.die (c.chipBase + a.toNat))
      | none => none
    else none
  | .cluster =>
    let x := a.toNat
    if 0 ≤ a ∧ a < 2 ^ 32 ∧ x / 2 ^ 22 = 0 ∧ x / 2 ^ 19 < b.rcd.cblocks ∧ x % 2 ^ 19 + n ≤ b.rcd.scratch then
      (s.ranked b (x / 2 ^ 19)).map fun t => keySpad t.coreNo (t.scratchBase + x % 2 ^ 19)
    else none

/-- R154: the scope of a fill and of the load that observes it: .cluster for the scratchpads that a cluster or a die shares. -/
def Pad.wide (p : Pad) : Bool := p != .core

/-- R150: the granules of `n` bytes from a key. -/
def granules (key n : Nat) : List Nat := (List.range ((key + n - 1) / 16 - key / 16 + 1)).map fun i => key / 16 + i

def State.isFull (s : State) (gr : Nat) : Bool := tgetD s.full gr false
def State.setFull (s : State) (v : Bool) (grs : List Nat) : State := { s with full := grs.foldl (fun t k => tput false t k v) s.full }

/-- R150: streams that wait at full-empty bits test them again. -/
def State.wakeFull (s : State) : State :=
  s.dues (s.blocks.flatMap fun kv => kv.2.wakes kv.1 (fun x => x == .fullEmpty) .fullEmptyRelease)

/-- R150: the accesses that wait at full-empty bits, or have been let go and have still to issue. -/
def State.feWaiting (s : State) : List FeWait :=
  s.blocks.flatMap fun kv =>
    (if kv.2.home.isSome then (tvals kv.2.warps).flatMap fun w => w.runs.filterMap Run.fe else []) ++
    (if kv.2.home.isSome then (kv.2.seq.run.bind Run.fe).toList else [])

/-- R150: whether an access that waits for granules to be full (or empty) may act: all of them allow it, and none that arrived before it
at one of them may. -/
def State.feReady (s : State) (mine : Option FeWait) (grs : List Nat) (full : Bool) : Bool :=
  grs.all (fun k => s.isFull k == full) &&
  !(s.feWaiting.any fun x => x.full == full && x.grs.any grs.contains && x.grs.all (fun k => s.isFull k == full) &&
    match mine with | some m => decide (x.since < m.since) | none => true)

/-- R150: a clause's word has arrived at full-empty bits, and waits there. -/
def State.feArrive (s : State) (r : Run) (grs : List Nat) (full : Bool) : Run × State :=
  match r.fe with
  | some _ => (r, s)
  | none => let (t, s) := s.takeId; ({ r with fe := some ⟨t, grs, full⟩ }, s)
def State.feBlock (s : State) (h : Here) (grs : List Nat) (full : Bool) : State :=
  let (r, s) := s.feArrive h.run grs full
  s.block { h with run := r } .fullEmpty
def State.feSeqBlock (s : State) (h : SHere) (grs : List Nat) (full : Bool) : State :=
  let (r, s) := s.feArrive h.run grs full
  s.seqBlock { h with run := r } .fullEmpty

/-- R103, R159: bytes applied at a bank; a granule covered whole is no longer poisoned. -/
def State.putBytes (s : State) (c : Nat) (bs : Tab Byte) : State :=
  let whole := fun (k : Nat) => (List.range 16).all fun i => (tget? bs (k / 16 * 16 + i)).isSome
  let s := bs.foldl (fun (s : State) kv => s.wr c kv.1 kv.2) s
  { s with poison := bs.foldl (fun (t : Tab Nat) kv => if whole kv.1 then tdel t (kv.1 / 16) else t) s.poison }

/-- R159: stores that their banks take now. -/
def State.landPads (s : State) (now : PadOut → Bool) : State :=
  (s.padOut.filter now).foldl (fun (s : State) x => s.putBytes x.ctx x.bytes) { s with padOut := s.padOut.filter fun x => !now x }

/-- R156: a stream's access at granules finds its own earlier stores there performed. -/
def State.ownPads (s : State) (uid : Nat) (st : Stream) (grs : List Nat) : State :=
  s.landPads fun x => x.uid == uid && x.st == st && grs.contains x.gr

/-- R156, R159, R381: the bytes of a store put in their granules. Each bank takes those of one granule as one write; unless the store is
to act at once, it may do so later. -/
def State.storePads (s : State) (h : Here) (grs : List Nat) (bs : Tab Byte) (atOnce : Bool) : State :=
  let s := s.ownPads h.uid (.warp h.w) grs
  let late := if atOnce then [] else grs.filter fun k => Config.padLate k s.next
  let s := s.putBytes h.b.ctx (bs.filter fun kv => !late.contains (kv.1 / 16))
  { s with padOut := s.padOut ++ late.map fun k => ⟨h.uid, .warp h.w, h.b.ctx, k, bs.filter fun kv => kv.1 / 16 == k⟩ }

/-- The memory keys of the threads, and those out of bounds (R320). -/
def State.padKeys (s : State) (h : Here) (p : Pad) (ls : List Nat) (addr : Nat → Int) (n : Nat) : List (Nat × Nat) × W32 :=
  (ls.filterMap fun l => (s.padKey h.b p (addr l) n).map fun k => (l, k),
   maskOf (ls.filter fun l => (s.padKey h.b p (addr l) n).isNone))

/-- R103: consumption of poison at one of the scratchpad granules. -/
def State.padPoison (s : State) (h : Here) (grs : List Nat) : Option State :=
  (grs.find? fun k => tgetD s.poison k 0 != 0).map fun k =>
    s.poisoned (h.who 0) (k * 16 % 2 ^ 64) (tgetD s.poison k 0 - 1)

/-- R251, R321: the value of loaded bytes. -/
def loadValue (sz : Size) (bs : List Byte) : Nat :=
  let x := leNat bs
  match sz with
  | .i8 => ((BitVec.ofNat 8 x).signExtend 32).toNat
  | .i16 => ((BitVec.ofNat 16 x).signExtend 32).toNat
  | _ => x

/-- A value in consecutive registers as completion values. -/
def destVals (d l : Nat) (n x : Nat) : List (Nat × W64) := (regsOf d n x).map fun rv => (regKey rv.1 l, rv.2.zeroExtend 64)

/-- R146, R150, R154, R321, R326: a scratchpad load; one that observes a full bit acquires. -/
def padLoad (p : Pad) (g : Guard) (l : Lat) (sz : Size) (fe : Fe) (d a : VReg) (off : BitVec 16) (s : State) : Out :=
  memGate g l [(d.val, sz.regs), opd1 a] (fun h ls s =>
    let (ks, bad) := s.padKeys h p ls (h.addr a off) sz.bytes
    let grs := (ks.flatMap fun lk => granules lk.2 sz.bytes).eraseDups
    if bad ≠ 0 then s.trapAt h 7 bad false
    else if (fe == .keep || fe == .take) && !s.feReady h.run.fe grs true then s.feBlock h grs true
    else if (fe == .keep || fe == .take) && s.loading h.uid (.warp h.w) then s.waits
    else
      let s := s.ownPads h.uid (.warp h.w) grs
      match s.padPoison h grs with
      | some s' => s'
      | none =>
        let vals := ks.flatMap fun lk => destVals d.val lk.1 sz.regs (loadValue sz (s.rdN h.b.ctx lk.2 sz.bytes))
        let s := if fe == .take then (s.setFull false grs).wakeFull else s
        let s := if (fe == .keep || fe == .take) && p.wide then s.dropShared h.b.coreNo else s
        (s.openOp h l .plain vals 0).2) s

/-- R160, R161: how a fence of a stream begins on its core. Answers none where it cannot yet: a narrow release waits for the stream's
writes, and a wide one for its stores to scratchpads and, where it would open a fifth round, for the oldest; else the round to wait for,
if any, and the state. -/
def State.beginFence (s : State) (core uid : Nat) (st : Stream) (op : FenceOp) (sc : Scope) : Option (Option Nat × State) :=
  if op = .acq then some (none, if isWide sc then s.dropShared core else s)
  else if !isWide sc then (if s.streamOut core uid st then none else some (none, s))
  else if s.padOut.any fun x => x.uid == uid && x.st == st then none
  else match tget? s.cores core with
    | none => some (none, s)
    | some c =>
      if 4 ≤ (c.rels.map fun r => r.round).eraseDups.length then none
      else
        let s := s.cleanCore core
        let k := match tget? s.cores core with | some c => c.rnd | none => 0
        some (some k.toNat, s.modCore core fun c => { c with rnd := k + 1 })

/-- R160: an op that waits for the release of a round of a core. -/
def State.openRound (s : State) (core uid : Nat) (st : Stream) (fin : Fin') (word pc : W64) (acquire : Option Scope) (k : Nat) : Nat × State :=
  let (id, s) := s.takeId
  let o : Op :=
    { uid := uid, st := st, ctr := none, word := word, pc := pc, dests := [], flags := [], got := [], fin := fin, left := 1, sfu := 0, bad := 0 }
  (id, (({ s with ops := tset s.ops id o }).modCore core fun c => { c with rels := c.rels ++ [(⟨k, id, acquire⟩ : Release)] }).due
    (.releaseQueryReply (core / 128) (core % 128) k))

/-- R154, R160: a release that an instruction makes before it acts. At .block it waits for what the stream has written and has left L1.
Beyond (`wide`) it is a release of a round: the instruction is held until that has completed, and then issues again. -/
def State.releaseFirst (s : State) (h : Here) (wide : Bool) : Except State State :=
  let core := h.b.coreNo
  if h.run.relDone then .ok s
  else if !wide then (if s.streamOut core h.uid (.warp h.w) then .error s.waits else .ok s)
  else match s.beginFence core h.uid (.warp h.w) .rel .cluster with
    | none => .error s.waits
    | some (none, s) => .ok s
    | some (some k, s) =>
      let (id, s) := s.openRound core h.uid (.warp h.w) .relFirst h.run.word h.run.va none k
      .error (s.block h (.fence id))

/-- R146, R150, R154, R322, R326: a scratchpad store; of threads that write one byte the highest remains. One that fills releases
first. -/
def padStore (p : Pad) (g : Guard) (l : Lat) (sz : Size) (fe : Fe) (d a : VReg) (off : BitVec 16) (s : State) : Out :=
  memGate g l [(d.val, sz.regs), opd1 a] (fun h ls s =>
    let (ks, bad) := s.padKeys h p ls (h.addr a off) sz.bytes
    let grs := (ks.flatMap fun lk => granules lk.2 sz.bytes).eraseDups
    if bad ≠ 0 then s.trapAt h 7 bad false
    else if fe == .fill && !s.feReady h.run.fe grs false then s.feBlock h grs false
    else
      match if fe == .fill then s.releaseFirst h p.wide else .ok s with
      | .error s' => s'
      | .ok s =>
        let bs := ks.foldl (fun (t : Tab Byte) lk =>
          (bytesAt lk.2 (natLe sz.bytes (h.wp.wide d.val lk.1 sz.regs))).foldl (fun t kv => tset t kv.1 kv.2) t) []
        let s := s.storePads h grs bs (fe == .fill)
        let s := if fe == .fill then (s.setFull true grs).wakeFull else s
        (s.openOp h l .plain [] 0).2) s

/-- R321: LDS. -/
def execLds (g : Guard) (l : Lat) (sz : Size) (fe : Fe) (d a : VReg) (off : BitVec 16) (s : State) : Out :=
  padLoad .core g l sz fe d a off s
/-- R322: STS. -/
def execSts (g : Guard) (l : Lat) (sz : Size) (fe : Fe) (d a : VReg) (off : BitVec 16) (s : State) : Out :=
  padStore .core g l sz fe d a off s
/-- R147: LDC. -/
def execLdc (g : Guard) (l : Lat) (sz : Size) (fe : Fe) (d a : VReg) (off : BitVec 16) (s : State) : Out :=
  padLoad .cluster g l sz fe d a off s
/-- R147: STC. -/
def execStc (g : Guard) (l : Lat) (sz : Size) (fe : Fe) (d a : VReg) (off : BitVec 16) (s : State) : Out :=
  padStore .cluster g l sz fe d a off s
/-- R148: LDP. -/
def execLdp (g : Guard) (l : Lat) (sz : Size) (fe : Fe) (d a : VReg) (off : BitVec 16) (s : State) : Out :=
  padLoad .chip g l sz fe d a off s
/-- R148: STP. -/
def execStp (g : Guard) (l : Lat) (sz : Size) (fe : Fe) (d a : VReg) (off : BitVec 16) (s : State) : Out :=
  padStore .chip g l sz fe d a off s

/-! ### Atomics -/

/-- R252, R327: registers that an atomic's operand takes. -/
def aopRegs (op : Aop) (sz : Size) : Nat := if op = .cas then 2 * sz.regs else sz.regs

/-- R328: the operand and swap value of a thread. -/
def Here.aopReq (h : Here) (op : Aop) (sz : Size) (b : VReg) (l : Nat) : AtomReq :=
  ⟨op, sz.bytes, h.wp.wide b.val l sz.regs, h.wp.wide (b.val + sz.regs) l sz.regs⟩

/-- R320, row 5: the threads that share bytes with another thread of the instruction. -/
def sameAddr (ls : List Nat) (ea : Nat → Nat) (n : Nat) : W32 :=
  maskOf (ls.filter fun l => ls.any fun j => j != l && decide (ea j < ea l + n) && decide (ea l < ea j + n))

/-- R328, R329: ATOM and RED; `dst` is the destination of ATOM. -/
def routedAtomic (g : Guard) (l : Lat) (op : Aop) (sz : Size) (dst : Option VReg) (a b : VReg) (s : State) : Out :=
  memGate g l ((dst.map fun d => (d.val, sz.regs)).toList ++ [opd2 a, (b.val, aopRegs op sz)]) (fun h ls s =>
    let ea := h.eaMod a 0
    let core := h.b.coreNo
    let high := highLanes ls ea
    let mis := maskOf (ls.filter fun j => ea j % sz.bytes != 0)
    let same := sameAddr ls ea sz.bytes
    if high ≠ 0 then s.trapAt h 7 high false
    else if mis ≠ 0 then s.trapAt h 4 mis false
    else if same ≠ 0 then s.trapAt h 6 same false
    else
      let ts := ls.map fun j => (⟨j, ea j, sz.bytes⟩ : Touch)
      match s.translate core (h.who 2) (permRd ||| permWr ||| permAt) ts with
      | .error s' => s'
      | .ok ras =>
        let rs := (ts.zip ras).map fun x =>
          { h.req .atomic .nc true x.1 x.2 with at' := x.1.lane * 16, aop := some (h.aopReq op sz b x.1.lane) }
        let s := rs.foldl (fun s r => s.dropLine core (r.ra / 128) none) s
        if rs.any fun r => s.unlanded core r.ra r.len then s.waits
        else
          let (id, s) := match dst with
            | some d => s.openOp h l (.lanes sz d.val ls) (destKeys ls d.val sz.regs) rs.length
            | none => s.openOp h l .plain [] rs.length
          rs.foldl (fun s r => s.atomPiece core { r with op := some id }) s) s

/-- R328: ATOM. The scope narrows nothing (R160). -/
def execAtom (g : Guard) (l : Lat) (op : Aop) (sz : Size) (_sc : Scope) (d a b : VReg) (s : State) : Out :=
  routedAtomic g l op sz (some d) a b s
/-- R328: RED. -/
def execRed (g : Guard) (l : Lat) (op : Aop) (sz : Size) (_sc : Scope) (a b : VReg) (s : State) : Out :=
  routedAtomic g l op sz none a b s

/-- R328: ATOMS, at the bank of the core scratchpad, in ascending thread order. -/
def execAtoms (g : Guard) (l : Lat) (op : Aop) (sz : Size) (d a b : VReg) (s : State) : Out :=
  memGate g l [(d.val, sz.regs), opd1 a, (b.val, aopRegs op sz)] (fun h ls s =>
    let addr := h.addr a 0
    let n := sz.bytes
    let (ks, bad) := s.padKeys h .core ls addr n
    let ea := fun (j : Nat) => (addr j).toNat
    let mis := maskOf (ls.filter fun j => ea j % n != 0)
    let same := sameAddr ls ea n
    let grs := (ks.flatMap fun lk => granules lk.2 n).eraseDups
    if bad ≠ 0 then s.trapAt h 7 bad false
    else if mis ≠ 0 then s.trapAt h 4 mis false
    else if same ≠ 0 then s.trapAt h 6 same false
    else
      let s := s.ownPads h.uid (.warp h.w) grs
      match s.padPoison h grs with
      | some s' => s'
      | none =>
        let olds := ks.map fun lk => (lk.1, lk.2, leNat (s.rdN h.b.ctx lk.2 n))
        let s := olds.foldl (fun (s : State) x =>
          match aopNew (h.aopReq op sz b x.1) x.2.2 with
          | some v => s.putBytes h.b.ctx (bytesAt x.2.1 (natLe n v))
          | none => s) s
        (s.openOp h l .plain (olds.flatMap fun x => destVals d.val x.1 sz.regs x.2.2) 0).2) s

/-! ### Fences and cache control -/

/-- R161: what an acquire does once the release of its fence has completed. -/
def acquireOf (op : FenceOp) (sc : Scope) : Option Scope := if op = .ar then some sc else none

/-- R331: FENCE. A release waits, with the warp held at the fence, for the reply to its gathered query. -/
def execFence (g : Guard) (op : FenceOp) (sc : Scope) (s : State) : Out :=
  memGate g ⟨0, none⟩ [] (fun h _ s =>
    let core := h.b.coreNo
    if op ≠ .rel ∧ s.loading h.uid (.warp h.w) then s.waits
    else match s.beginFence core h.uid (.warp h.w) op sc with
      | none => s.waits
      | some (none, s) => s.advance h
      | some (some k, s) =>
        let (id, s) := s.openRound core h.uid (.warp h.w) .plain h.run.word h.run.va (acquireOf op sc) k
        s.block h (.fence id)) s

/-- R333: CCTL: lines written back and merged, and under the drop forms dropped. It completes when the write-backs have been
applied. -/
def execCctl (g : Guard) (l : Lat) (op : CctlOp) (_sc : Scope) (a : VReg) (off : BitVec 16) (s : State) : Out :=
  let all := op == .wball || op == .wbdropall
  memGate g l (if all then [] else [opd2 a]) (fun h ls s =>
    let core := h.b.coreNo
    let mine := match tget? s.cores core with
      | some c => (c.l1.filter fun kv => kv.2.tag == s.tagOf h.b.ctx).map Prod.fst
      | none => []
    let named := (ls.filterMap fun j =>
      if highVa (h.eaMod a off j) then none else (s.peek core h.b.ctx (h.eaMod a off j)).map fun x => x.1 / 128).eraseDups
    let lines := if all then mine else named.filter fun k => mine.contains k
    let (id, s) := s.openOp h l .plain [] 1
    let s := lines.foldl (fun s k =>
      if op == .wbdrop || op == .wbdropall then s.dropLine core k (some id) else s.cleanLine core k (some id)) s
    s.opDone (some id)) s

/-- R334: the line of one thread's PREF.l1, filled into L1; a condition that would trap or fault drops it. -/
def State.prefLine (s : State) (h : Here) (rt : ReqTy) (sc : Scope) (j va : Nat) : State :=
  let core := h.b.coreNo
  if highVa va then s
  else match s.peek core h.b.ctx va with
    | none => s
    | some (ra, perm) =>
      if !hasPerm perm permRd then s
      else match (s.engine h.b.die).resolve ra false false with
        | .held _ => s
        | .toward e =>
          let sound := !s.promotes e.holder ra && !s.paused e.holder ra && s.servesAt e false && !s.lockedLine ra e.holder &&
            (List.range 8).all fun i => s.poisonAt (s.keyAt e.holder (ra / 128 * 128 + 16 * i)) == 0
          let other := match s.line? core (ra / 128) with | some ln => ln.tag != s.tagOf h.b.ctx | none => false
          if !sound || other then s
          else
            -- R151: what other cores hold privatised of the word is merged first, as for a load
            let s := s.mergeOwn ((s.arrival e).getD e) (ra / 128) (wordMask (ra % 128) 1) (some core)
            if e.lock && s.mergesWait (ra / 128) (wordMask (ra % 128) 1) (some core) then s
            else s.fillLine (h.req .load rt (isWide sc) ⟨j, va, 1⟩ ra) core e

/-- R334: PREF; PREF.l2 changes no L1. -/
def execPref (g : Guard) (l : Lat) (l2 : Bool) (rt : ReqTy) (sc : Scope) (a : VReg) (off : BitVec 16) (s : State) : Out :=
  memGate g l [opd2 a] (fun h ls s =>
    let s := if l2 then s else ls.foldl (fun s j => s.prefLine h rt sc j (h.eaMod a off j)) s
    (s.openOp h l .plain [] 0).2) s

/-! ### Queues -/

/-- R141: the oldest entry that a warp can pop. -/
def Block.popFor (b : Block) (q w : Nat) : Option QEntry := (tgetD b.queues q []).find? fun e => e.forWarp w

/-- R141: a warp takes an entry. -/
def Block.takeFor (b : Block) (q w : Nat) (e : QEntry) : Block :=
  let es := tgetD b.queues q []
  let es := if e.tag = 63 then es.map fun x => if x.id = e.id then { x with popped := x.popped ||| maskOf [w] } else x
    else es.filter fun x => x.id != e.id
  ({ b with queues := tset b.queues q es }).freeEntries

/-- R154, R344: POPQ, an acquire at .block. -/
def execPopq (g : Guard) (l : Lat) (d : VReg) (q : QReg) (s : State) : Out :=
  memGate g l [opd1 d] (fun h ls s =>
    match h.b.popFor q.val h.w with
    | none => s.block h (.queue q.val)
    | some e =>
      if !e.ready then s.block h (.queue q.val)
      else if s.loading h.uid (.warp h.w) then s.waits
      else
        let s := (s.modBlock h.uid fun b => b.takeFor q.val h.w e).wakeQueues h.uid
        (s.openOp h l .plain (ls.flatMap fun j => destVals d.val j 1 (e.data.getD j 0).toNat) 0).2) s

/-- R141: whether a queue is full. -/
def Block.queueFull (b : Block) (q : Nat) : Bool := decide (16 ≤ (tgetD b.queues q []).length)

/-- R141: an entry pushed. -/
def Block.push (b : Block) (q : Nat) (e : QEntry) : Block := { b with queues := tset b.queues q (tgetD b.queues q [] ++ [e]) }

/-- R154, R344: PUSHQ, a release at .block. -/
def execPushq (g : Guard) (l : Lat) (q : QReg) (a : VReg) (s : State) : Out :=
  memGate g l [opd1 a] (fun h ls s =>
    if h.b.queueFull q.val then s.block h (.queue q.val)
    else if s.streamOut h.b.coreNo h.uid (.warp h.w) then s.waits
    else
      let (id, s) := s.takeId
      let data := (List.range 32).map fun j => if ls.contains j then h.wp.reg a.val j else 0
      let s := (s.modBlock h.uid fun b => b.push q.val ⟨id, data, h.w, 0, true⟩).wakeQueues h.uid
      (s.openOp h l .plain [] 0).2) s

end Sys2Proof.Machine
end

