-- ==== Sys2Proof/Machine/Sequencer.lean ====
section
/-! DEFINITION. The sequencer's scalar, generator, queue, barrier and memory instructions, its fence and its traps
(19_sequencer_instructions.md, R336 to R347). -/

namespace Sys2Proof.Machine

open Sys2Proof

/-! ### The two shapes -/

/-- R337: whether any of the named s registers is pending. -/
def Seq.pending (q : Seq) (rs : List SReg) : Bool := rs.any fun r => r.val != 0 && (tget? q.pend r.val).isSome

/-- R105, R107, R337: a sequencer instruction whose registers are not pending and whose two issues have compared equal. -/
def seqIssue (rs : List SReg) (k : SHere → State → State) (s : State) : Out :=
  onSeq s fun h =>
    if h.b.seq.pending rs then s.seqWaitFor h rs
    else match s.seqCompared h with
      | .error s' => s'
      | .ok s => k h s

/-- R337: a short-latency sequencer instruction. -/
def seqShort (rs : List SReg) (f : SHere → Seq → Seq) (s : State) : Out :=
  seqIssue rs (fun h s => s.modSeq h.uid fun q => (f h q).advance) s

/-- R144, R337: a long-latency sequencer instruction up to the point where it acts. -/
def seqGate (l : Lat) (rs : List SReg) (k : SHere → State → State) (s : State) : Out :=
  seqIssue rs (fun h s => if h.b.seq.ctrBusy l.ctr then s.waits else k h s) s

/-- R144: a new op made outstanding for the sequencer. -/
def Seq.issue (q : Seq) (id : Nat) (ctr : Option (Fin 8)) (keys : List Nat) : Seq :=
  let q := { q with pend := (keys.filter fun k => k != 0).foldl (fun t k => tset t k id) q.pend }
  match ctr with
  | some k => q.setCtr k.val (q.ctrOf k.val + 1)
  | none => q

/-- A new op of the issuing sequencer; the clause does not pass its word. -/
def State.newSeqOp (s : State) (h : SHere) (l : Lat) (fin : Fin') (dests : List (Nat × W64)) (left : Nat) : Nat × State :=
  let (id, s) := s.takeId
  let o : Op :=
    { uid := h.uid, st := .seq, ctr := l.ctr, word := h.run.word, pc := h.run.va, dests := dests, flags := [], got := []
      fin := fin, left := left, sfu := 0, bad := 0 }
  (id, ({ s with ops := tset s.ops id o }).modSeq h.uid fun q => q.issue id l.ctr (dests.map Prod.fst))

/-- A new op of the issuing sequencer; with no part outstanding its completion is due. The clause passes its word. -/
def State.openSeqOp (s : State) (h : SHere) (l : Lat) (fin : Fin') (dests : List (Nat × W64)) (left : Nat) : Nat × State :=
  let (id, s) := s.newSeqOp h l fin dests left
  let s := s.modSeq h.uid Seq.advance
  (id, if left = 0 then s.due (match fin with | .entry .. => .ldqEntryFilled id | _ => .longLatencyCompletion id) else s)

/-- A long-latency instruction that has its results at once. -/
def State.seqDone (s : State) (h : SHere) (l : Lat) (dests : List (Nat × W64)) : State := (s.openSeqOp h l .plain dests 0).2

def SHere.q (h : SHere) : Seq := h.b.seq
def SHere.get (h : SHere) (r : SReg) : W64 := h.b.seq.get r.val

/-! ### Scalars -/

/-- R338: SMOV. -/
def execSmov (op : SmovOp) (d a : SReg) (s : State) : Out :=
  seqShort [d, a] (fun h q =>
    match op with
    | .copy => q.put d.val (h.get a)
    | .readFlags => q.put d.val (q.flags.zeroExtend 64)
    | .writeFlags => { q with flags := (h.get a).truncate 8 &&& 0x1F }) s

/-- R338: SMOVI. -/
def execSmovi (op : SmoviOp) (d : SReg) (imm : W32) (s : State) : Out :=
  seqShort [d] (fun h q =>
    q.put d.val (match op with
      | .sx => imm.signExtend 64
      | .zx => imm.zeroExtend 64
      | .hi => imm ++ (h.get d).truncate 32)) s

/-- R339: the last operand. -/
def SHere.opd (h : SHere) : SOpd → W64
  | .reg r => h.get r
  | .imm v => v.signExtend 64
def opdRegs : SOpd → List SReg
  | .reg r => [r]
  | .imm _ => []

/-- R339: the shape of the arithmetic forms. -/
def scalar (d a : SReg) (b : SOpd) (f : W64 → W64 → W64) (s : State) : Out :=
  seqShort (d :: a :: opdRegs b) (fun h q => q.put d.val (f (h.get a) (h.opd b))) s

/-- R339: SADD. -/
def execSadd (d a : SReg) (b : SOpd) (s : State) : Out := scalar d a b (fun x y => x + y) s
/-- R339: SSUB. -/
def execSsub (d a : SReg) (b : SOpd) (s : State) : Out := scalar d a b (fun x y => x - y) s
/-- R339: SMUL. -/
def execSmul (d a : SReg) (b : SOpd) (s : State) : Out := scalar d a b (fun x y => x * y) s
/-- R339: SAND. -/
def execSand (d a : SReg) (b : SOpd) (s : State) : Out := scalar d a b (fun x y => x &&& y) s
/-- R339: SOR. -/
def execSor (d a : SReg) (b : SOpd) (s : State) : Out := scalar d a b (fun x y => x ||| y) s
/-- R339: SXOR. -/
def execSxor (d a : SReg) (b : SOpd) (s : State) : Out := scalar d a b (fun x y => x ^^^ y) s

/-- R339: a shift count is read unsigned; 64 and more shift everything out. -/
def sshl (x y : W64) : W64 := if 64 ≤ y.toNat then 0 else x <<< y.toNat
def sshr (arith : Bool) (x y : W64) : W64 :=
  if arith then x.sshiftRight (min y.toNat 63) else if 64 ≤ y.toNat then 0 else x >>> y.toNat

/-- R339: SSHL. -/
def execSshl (d a : SReg) (b : SOpd) (s : State) : Out := scalar d a b sshl s
/-- R339: SSHR. -/
def execSshr (arith : Bool) (d a : SReg) (b : SOpd) (s : State) : Out := scalar d a b (sshr arith) s

/-- R339: the conditions of SCMP. -/
def scond : SCond → W64 → W64 → Bool
  | .eq, x, y => x == y
  | .ne, x, y => x != y
  | .lt, x, y => decide (x.toInt < y.toInt)
  | .le, x, y => decide (x.toInt ≤ y.toInt)
  | .gt, x, y => decide (y.toInt < x.toInt)
  | .ge, x, y => decide (y.toInt ≤ x.toInt)
  | .ltu, x, y => decide (x.toNat < y.toNat)
  | .leu, x, y => decide (x.toNat ≤ y.toNat)
  | .gtu, x, y => decide (y.toNat < x.toNat)
  | .geu, x, y => decide (y.toNat ≤ x.toNat)

/-- R339: SCMP. -/
def execScmp (c : SCond) (d a : SReg) (b : SOpd) (s : State) : Out :=
  scalar d a b (fun x y => if scond c x y then 1 else 0) s

/-- R246, R340: what checking the sequencer's branch target finds. -/
inductive STarget where
  | ok | walk | bad
  deriving DecidableEq, Repr

/-- R246: the target of an SBRA checked as the fetch unit obtains it. -/
def State.checkSeqTarget (s : State) (h : SHere) (va : W64) : STarget × State :=
  if highVa va.toNat || va.toNat % 8 != 0 then (.bad, s)
  else match s.targetWord h.b va with
    | (.word w, s) | (.poisoned w .., s) => (if isHeader w then .ok else .bad, s)
    | (.walk, s) => (.walk, s)
    | (.fault, s) => (.ok, s)

/-- R340: SBRA. -/
def execSbra (op : SbraOp) (a : SReg) (off : W32) (s : State) : Out :=
  seqIssue [a] (fun h s =>
    let takes := match op with
      | .always => true
      | .z => h.get a == 0
      | .nz => h.get a != 0
    if !h.run.last then s.seqIllegal h
    else if !takes then s.seqAdvance h
    else
      let va := h.run.va + 8 * off.signExtend 64
      match s.checkSeqTarget h va with
      | (.bad, s) => s.seqIllegal h
      | (.walk, s) => s.waits
      | (.ok, s) => s.modSeq h.uid fun q => { q.advance with pc := va }) s

/-- R340: SEXIT. -/
def execSexit (s : State) : Out :=
  seqIssue [] (fun h s =>
    if !h.run.last then s.seqIllegal h
    else
      let s := s.modSeq h.uid fun q => { q.advance with sexit := true }
      (s.modBlock h.uid Block.barAll).waits) s

/-! ### Routed accesses -/

/-- R91: whose access it is. -/
def SHere.who (h : SHere) (acc : Nat) : Who := ⟨.stream h.uid .seq, h.b.ctx, h.b.die, h.b.coreNo % 128, 0xFE, h.run.va, acc⟩

/-- The request of one piece of a sequencer's access. -/
def SHere.req (h : SHere) (acc : Acc) (rt : ReqTy) (wide : Bool) (t : Touch) (ra : Nat) : Req :=
  { acc := acc, agent := .stream h.uid .seq, ctx := h.b.ctx, die := h.b.die, core := some h.b.coreNo, va := t.va
    ra := ra, len := t.len, req := rt, wide := wide, lane := 0xFF, bytes := [], at' := 0, op := none, aop := none, round := 0
    why := .unrouted, noted := false, poison := 0 }

/-- R157: the pieces of an access of the sequencer. -/
def seqTouches (ea n : Nat) : List Touch := (pieces ea (n + 1) 0 n).map fun p => ⟨0xFF, ea + p.1, p.2⟩

/-- R340: the size of SLD and SST. -/
def ssizeBytes : SSize → Nat
  | .n64 => 8
  | _ => 4

/-- R340: sA + off x size. -/
def SHere.ea (h : SHere) (sz : SSize) (a : SReg) (off : BitVec 8) : Nat :=
  (h.get a + BitVec.ofNat 64 (ssizeBytes sz) * off.signExtend 64).toNat

/-- R340: SLD. -/
def execSld (l : Lat) (sz : SSize) (rt : ReqTy) (sc : Scope) (d a : SReg) (off : BitVec 8) (s : State) : Out :=
  seqGate l [d, a] (fun h s =>
    let ea := h.ea sz a off
    let core := h.b.coreNo
    if highVa ea then s.seqIllegal h
    else
      let ts := seqTouches ea (ssizeBytes sz)
      match s.translate core (h.who 0) permRd ts with
      | .error s' => s'
      | .ok ras =>
        let rs := (ts.zip ras).map fun x => { h.req .load rt (isWide sc) x.1 x.2 with at' := x.1.va - ea }
        let (s, wait) := s.prepare core (rt == .nc) rs
        if wait then s.waits
        else
          let (id, s) := s.openSeqOp h l (.scalar sz d.val) [(d.val, 0)] rs.length
          rs.foldl (fun s r => s.loadPiece core { r with op := some id }) s) s

/-- R322, R340, R342: bytes stored by the sequencer, by VA piece. -/
def State.seqStore (s : State) (h : SHere) (l : Lat) (rt : ReqTy) (sc : Scope) (ps : List (Touch × List Byte))
    (before : State → State) : State :=
  let core := h.b.coreNo
  match s.translate core (h.who 1) permWr (ps.map Prod.fst) with
  | .error s' => s'
  | .ok ras =>
    let rs := (ps.zip ras).map fun x => { h.req .store rt (isWide sc) x.1.1 x.2 with bytes := bytesAt x.2 x.1.2 }
    let (s, wait) := s.prepare core (rt == .nc || rt == .wt) rs
    if wait || rs.any (fun r => s.unlanded core r.ra r.len) then s.waits
    else
      let (id, s) := (before s).openSeqOp h l .plain [] rs.length
      rs.foldl (fun s r => s.storePiece core { r with op := some id }) s

/-- R340: SST. -/
def execSst (l : Lat) (sz : SSize) (rt : ReqTy) (sc : Scope) (a b : SReg) (off : BitVec 8) (s : State) : Out :=
  seqGate l [a, b] (fun h s =>
    let ea := h.ea sz a off
    let n := ssizeBytes sz
    if highVa ea then s.seqIllegal h
    else
      let v := (h.get b).toNat
      s.seqStore h l rt sc ((seqTouches ea n).map fun t => (t, natLe t.len (v / 2 ^ (8 * (t.va - ea))))) id) s

/-! ### Address generators -/

/-- R140: the reset value of a generator. -/
def Gen.zero : Gen := ⟨0, [0, 0, 0, 0], [0, 0, 0, 0], [0, 0, 0, 0], false⟩
def Seq.gen (q : Seq) (k : Nat) : Gen := tgetD q.gens k Gen.zero
def Seq.setGen (q : Seq) (k : Nat) (g : Gen) : Seq := { q with gens := tset q.gens k g }

/-- R140: the generated address, formed exactly and taken modulo 2^64. -/
def Gen.addr (g : Gen) : W64 :=
  BitVec.ofInt 64 ((g.base.toNat : Int) +
    (((List.range 4).map fun j => ((g.idx.getD j 0).toNat : Int) * (g.stride.getD j 0).toInt).foldl (· + ·) 0))

/-- R140: the indices after one step, and whether the last one wrapped. -/
def stepIdx : List (BitVec 16) → List (BitVec 16) → List (BitVec 16) × Bool
  | i :: is, e :: es =>
    if i = e then match stepIdx is es with | (r, d) => (0 :: r, d) else ((i + 1) :: is, false)
  | is, _ => (is, true)

def Gen.step (g : Gen) : Gen :=
  match stepIdx g.idx g.ext with
  | (is, w) => { g with idx := is, done := g.done || w }

def Gen.steps (g : Gen) : Nat → Gen
  | 0 => g
  | n + 1 => g.step.steps n

/-- R140: bits [63:0] of a generator. -/
def Gen.word (g : Gen) : W64 :=
  BitVec.ofNat 64 ((g.idx.getD 3 0).toNat * 2 ^ 48 + (g.idx.getD 2 0).toNat * 2 ^ 32 + (g.idx.getD 1 0).toNat * 2 ^ 16 +
    (g.idx.getD 0 0).toNat % 2 ^ 15 * 2 + (if g.done then 1 else 0))

/-- Half words of a register. -/
def half (x : W64) (j : Nat) : BitVec 16 := BitVec.ofNat 16 (x.toNat / 2 ^ (16 * j))
def word32 (x : W64) (j : Nat) : BitVec 32 := BitVec.ofNat 32 (x.toNat / 2 ^ (32 * j))

/-- R341: the indices that ADEF.idx writes. -/
def idxOf (x : W64) : List (BitVec 16) := [BitVec.ofNat 16 (x.toNat / 2 % 2 ^ 15), half x 1, half x 2, half x 3]

/-- R341: what ADEF makes of a generator; none where it raises cause 7. -/
def Gen.define (g : Gen) (part : AdefPart) (a b : W64) : Option Gen :=
  let clear := { g with idx := [0, 0, 0, 0], done := false }
  match part with
  | .base => some { clear with base := a }
  | .stride => some { clear with stride := [word32 a 0, word32 a 1, word32 b 0, word32 b 1] }
  | .ext => if 32767 < (half a 0).toNat then none else some { clear with ext := [half a 0, half a 1, half a 2, half a 3] }
  | .idx =>
    if ((idxOf a).zip g.ext).any fun x => decide (x.2.toNat < x.1.toNat) then none
    else some { g with idx := idxOf a, done := bit a 0 }

/-- R341: ADEF. -/
def execAdef (part : AdefPart) (k : Nib) (a b : SReg) (s : State) : Out :=
  seqIssue [a, b] (fun h s =>
    match (h.q.gen k.val).define part (h.get a) (h.get b) with
    | none => s.seqIllegal h
    | some g => s.modSeq h.uid fun q => (q.setGen k.val g).advance) s

/-- R341: ASTEP: a reading, then the steps. -/
def execAstep (op : AstepOp) (k : Nib) (d : SReg) (n : BitVec 11) (s : State) : Out :=
  seqShort [d] (fun h q =>
    let g := h.q.gen k.val
    let v : W64 := match op with
      | .addr => g.addr
      | .done => if g.done then 1 else 0
      | .idx => g.word
    (q.setGen k.val (g.steps n.toNat)).put d.val v) s

/-! ### Queues -/

/-- R165: an op of a command, or of an add or a contribution, that has still writes to send. -/
def Fin'.sends : Fin' → Bool
  | .chain _ | .drainPad _ | .drainMem _ | .drainRow .. | .rqTable .. | .rqPush .. | .rqCopy .. | .rowAdd .. | .redc .. => true
  | _ => false

/-- R160, R165: whether a command of a block's sequencer, or an add or a contribution of its own, has still writes to send. -/
def State.commandsOut (s : State) (uid : Nat) : Bool :=
  (s.pushes.any fun p => p.uid == uid) || s.ops.any fun kv => kv.2.uid == uid && kv.2.fin.sends

/-- R160, R165: whether a release of the sequencer at .block has writes to wait for: its own, and those of earlier commands. -/
def State.seqOut (s : State) (core uid : Nat) : Bool := s.streamOut core uid .seq || s.commandsOut uid

/-- R342: addresses that a generator gives one after another. -/
def Gen.addrs (g : Gen) : Nat → List Nat
  | 0 => []
  | n + 1 => g.addr.toNat :: g.step.addrs n

/-- R342: where the 128 bytes of an entry lie: (place in the entry, address, bytes). -/
def qSpans (form : QForm) (g : Gen) : List (Nat × Nat × Nat) :=
  match form with
  | .line | .sline => [(0, g.addr.toNat, 128)]
  | .gather | .sgather => ((List.range 32).zip (g.addrs 32)).map fun x => (4 * x.1, x.2, 4)
def qSteps (form : QForm) : Nat :=
  match form with
  | .line | .sline => 1
  | .gather | .sgather => 32
def qRouted (form : QForm) : Bool := form == .line || form == .gather

/-- R141, R342: a tag names a warp of the block, or every warp. -/
def tagBad (b : Block) (tag : Fin 64) : Bool := decide (tag.val < 32) && decide (b.rcd.warps ≤ tag.val)

/-- R342: the memory keys of scratchpad spans, or none where one is out of bounds. -/
def State.spanKeys (s : State) (b : Block) (sp : List (Nat × Nat × Nat)) : Option (List (Nat × Nat × Nat)) :=
  let ks := sp.map fun x => (s.padKey b .core (x.2.1 : Int) x.2.2).map fun k => (x.1, k, x.2.2)
  if ks.any Option.isNone then none else some (ks.filterMap id)

/-- R157: the pieces of routed spans, each with its place in the entry. -/
def spanTouches (sp : List (Nat × Nat × Nat)) : List (Touch × Nat) :=
  sp.flatMap fun x => (pieces x.2.1 (x.2.2 + 1) 0 x.2.2).map fun p => (⟨0xFF, x.2.1 + p.1, p.2⟩, x.1 + p.1)

/-- The bytes of scratchpad spans, by place in the entry. -/
def State.spanBytes (s : State) (c : Nat) (ks : List (Nat × Nat × Nat)) : Tab Byte :=
  ks.foldl (fun (t : Tab Byte) x => ((List.range x.2.2).zip (s.rdN c x.2.1 x.2.2)).foldl (fun t ib => tset t (x.1 + ib.1) ib.2) t) []

/-- R154, R342: LDQ, a release at .block. Its entry is reserved at issue and filled when all its data has arrived. -/
def execLdq (l : Lat) (form : QForm) (tk : Bool) (rt : ReqTy) (sc : Scope) (q : QReg) (gen : Nib) (tag : Fin 64) (s : State) : Out :=
  seqGate l [] (fun h s =>
    let g := h.q.gen gen.val
    let sp := qSpans form g
    let core := h.b.coreNo
    let reserve := fun (s : State) (id : Nat) =>
      s.modBlock h.uid fun b =>
        { (b.push q.val ⟨id, [], tag.val, 0, false⟩) with seq := b.seq.setGen gen.val (g.steps (qSteps form)) }
    if tagBad h.b tag then s.seqIllegal h
    else if qRouted form then
      if sp.any fun x => highVa x.2.1 then s.seqIllegal h
      else if h.b.queueFull q.val then s.seqBlock h (.queue q.val)
      else if s.seqOut core h.uid then s.waits
      else
        let ts := spanTouches sp
        match s.translate core (h.who 0) permRd (ts.map Prod.fst) with
        | .error s' => s'
        | .ok ras =>
          let rs := (ts.zip ras).map fun x => { h.req .load rt (isWide sc) x.1.1 x.2 with at' := x.1.2 }
          let (s, wait) := s.prepare core (rt == .nc) rs
          if wait then s.waits
          else
            let (eid, s) := s.takeId
            let (id, s) := (reserve s eid).openSeqOp h l (.entry q.val eid) [] rs.length
            rs.foldl (fun s r => s.loadPiece core { r with op := some id }) s
    else match s.spanKeys h.b sp with
      | none => s.seqIllegal h
      | some ks =>
        let grs := (ks.flatMap fun x => granules x.2.1 x.2.2).eraseDups
        if h.b.queueFull q.val then s.seqBlock h (.queue q.val)
        else if tk && !s.feReady h.run.fe grs true then s.feSeqBlock h grs true
        else if s.seqOut core h.uid || (tk && s.loading h.uid .seq) then s.waits
        else match grs.find? fun k => tgetD s.poison k 0 != 0 with
          | some k => s.poisoned (h.who 0) (k * 16 % 2 ^ 64) (tgetD s.poison k 0 - 1)
          | none =>
            let got := s.spanBytes h.b.ctx ks
            let s := if tk then (s.setFull false grs).wakeFull else s
            let (eid, s) := s.takeId
            let (id, s) := (reserve s eid).openSeqOp h l (.entry q.val eid) [] 0
            { s with ops := tmod s.ops id fun o => { o with got := got } }) s

/-- R141, R342: the entry that a selector takes. -/
def Block.select (b : Block) (q : Nat) (sel : Nat) : Option QEntry :=
  (tgetD b.queues q []).find? fun e => sel == 63 || e.tag == sel

/-- R343: a pop by the sequencer removes the entry at once. -/
def Block.remove (b : Block) (q : Nat) (e : QEntry) : Block :=
  { b with queues := tset b.queues q ((tgetD b.queues q []).filter fun x => x.id != e.id) }

/-- The bytes of an entry. -/
def QEntry.bytes (e : QEntry) : List Byte := (List.range 32).flatMap fun l => natLe 4 (e.data.getD l 0).toNat

/-- R322, R342: the pieces that an STQ writes at routed spans; of words that lie over one another the bytes of the highest lane remain. -/
def stqPieces (form : QForm) (sp : List (Nat × Nat × Nat)) (e : QEntry) : List (Touch × List Byte) :=
  let ea := fun (j : Nat) => match sp.getD j (0, 0, 0) with | (_, a, _) => a
  let n := if form == .line then 128 else 4
  let under := fun (j a k : Nat) => (List.range sp.length).any fun i => decide (j < i) && decide (ea i < a + k) && decide (a < ea i + n)
  ((List.range sp.length).zip sp).flatMap fun jx =>
    (pieces jx.2.2.1 (n + 1) 0 n).flatMap fun p =>
      let va := jx.2.2.1 + p.1
      let bs := (e.bytes.drop (jx.2.1 + p.1)).take p.2
      if !under jx.1 va p.2 then [(⟨0xFF, va, p.2⟩, bs)]
      else ((List.range p.2).filter fun i => !under jx.1 (va + i) 1).map fun i => (⟨0xFF, va + i, 1⟩, (bs.drop i).take 1)

/-- R322, R342: the bytes that an STQ writes at scratchpad spans, by memory key. -/
def stqBytes (ks : List (Nat × Nat × Nat)) (e : QEntry) : Tab Byte :=
  ks.foldl (fun (t : Tab Byte) x => (bytesAt x.2.1 ((e.bytes.drop x.1).take x.2.2)).foldl (fun t kv => tset t kv.1 kv.2) t) []

/-- R154, R342: STQ, whose pop is an acquire at .block. -/
def execStq (l : Lat) (form : QForm) (fl : Bool) (rt : ReqTy) (sc : Scope) (q : QReg) (gen : Nib) (sel : Fin 64) (s : State) : Out :=
  seqGate l [] (fun h s =>
    let g := h.q.gen gen.val
    let sp := qSpans form g
    let pop := fun (e : QEntry) (s : State) =>
      (s.modBlock h.uid fun b => { (b.remove q.val e) with seq := b.seq.setGen gen.val (g.steps (qSteps form)) }).wakeQueues h.uid
    if qRouted form && sp.any fun x => highVa x.2.1 then s.seqIllegal h
    else if !qRouted form && (s.spanKeys h.b sp).isNone then s.seqIllegal h
    else match h.b.select q.val sel.val with
      | none => s.seqBlock h (.queue q.val)
      | some e =>
        if !e.ready then s.seqBlock h (.queue q.val)
        else if s.loading h.uid .seq then s.waits
        else if qRouted form then
          s.seqStore h l rt sc (stqPieces form sp e) (pop e)
        else match s.spanKeys h.b sp with
          | none => s.seqIllegal h
          | some ks =>
            let grs := (ks.flatMap fun x => granules x.2.1 x.2.2).eraseDups
            if fl && !s.feReady h.run.fe grs false then s.feSeqBlock h grs false
            else
              let s := (pop e s).putBytes h.b.ctx (stqBytes ks e)
              let s := if fl then (s.setFull true grs).wakeFull else s
              s.seqDone h l []) s

/-- R154, R343: QPUSH, a release at .block. -/
def execQpush (l : Lat) (iota : Bool) (q : QReg) (a b : SReg) (tag : Fin 64) (s : State) : Out :=
  seqGate l [a, b] (fun h s =>
    if tagBad h.b tag then s.seqIllegal h
    else if h.b.queueFull q.val then s.seqBlock h (.queue q.val)
    else if s.seqOut h.b.coreNo h.uid then s.waits
    else
      let (id, s) := s.takeId
      let data := (List.range 32).map fun j =>
        ((if iota then h.get a + BitVec.ofNat 64 j * h.get b else h.get a).truncate 32 : W32)
      ((s.modBlock h.uid fun b => (b.push q.val ⟨id, data, tag.val, 0, true⟩).freeEntries).wakeQueues h.uid).seqDone h l []) s

/-- R154, R343: QPOP, an acquire at .block. -/
def execQpop (l : Lat) (d : SReg) (q : QReg) (sel : Fin 64) (j : Nib) (s : State) : Out :=
  seqGate l [d] (fun h s =>
    match h.b.select q.val sel.val with
    | none => s.seqBlock h (.queue q.val)
    | some e =>
      if !e.ready then s.seqBlock h (.queue q.val)
      else if s.loading h.uid .seq then s.waits
      else
        let v : W64 := BitVec.ofNat 64 (leNat ((e.bytes.drop (8 * j.val)).take 8))
        ((s.modBlock h.uid fun b => b.remove q.val e).wakeQueues h.uid).seqDone h l [(d.val, v)]) s

/-! ### Barriers, fence and traps -/

/-- R143, R346: the sequencer's arrival; a second one in the same phase is not counted. -/
def Block.seqArrive (b : Block) (k : Nat) : Block :=
  match tget? b.seq.arr k with
  | some _ => b
  | none => ({ b with seq := { b.seq with arr := tset b.seq.arr k true } }).arrive k 1

/-- R154, R346: BARA; an arrival is a release at .block. -/
def execBara (exp : Bool) (k : Nib) (a : SReg) (s : State) : Out :=
  seqIssue [a] (fun h s =>
    if !exp then
      if s.seqOut h.b.coreNo h.uid then s.waits
      else s.modBlock h.uid fun b => { b with seq := b.seq.advance }.seqArrive k.val
    else
      let n := (h.get a).toNat
      if 1025 < n then s.seqIllegal h
      else
        s.modBlock h.uid fun b =>
          let bar := tgetD b.bars k.val ⟨false, 0, 0⟩
          let b := { b with bars := tset b.bars k.val { bar with expect := n }, seq := b.seq.advance }
          if n = 0 then b else b.barStep k.val) s

/-- R154, R346: BARW: it waits while the sequencer's arrival stands in the current phase, and then acquires at .block. -/
def execBarw (k : Nib) (s : State) : Out :=
  seqIssue [] (fun h s =>
    match tget? h.q.arr k.val with
    | some _ => s.seqBlock h (.barrier k.val)
    | none => if s.loading h.uid .seq then s.waits else s.seqAdvance h) s

/-- R347: the sequencer's FENCE. A release waits for the writes of earlier commands (R165). -/
def execFenceSequencer (l : Lat) (op : FenceOp) (sc : Scope) (s : State) : Out :=
  seqGate l [] (fun h s =>
    let core := h.b.coreNo
    if op ≠ .rel ∧ s.loading h.uid .seq then s.waits
    else if op ≠ .acq ∧ s.commandsOut h.uid then s.waits
    else match s.beginFence core h.uid .seq op sc with
      | none => s.waits
      | some (none, s) => s.seqDone h l []
      | some (some k, s) =>
        let (id, s) := s.newSeqOp h l .plain [] 1
        let s := s.modCore core fun c => { c with rels := c.rels ++ [(⟨k, id, acquireOf op sc⟩ : Release)] }
        match s.block? h.uid with
        | some b => (s.seqBlock ⟨h.uid, b, h.run⟩ (.fence id)).due (.releaseQueryReply (core / 128) (core % 128) k)
        | none => s) s

/-- R347, R312: the sequencer's TRAP: it stops after the word, with cause 10. -/
def execTrapSequencer (code : W32) (s : State) : Out :=
  seqIssue [] (fun h s => (s.seqAdvance h).seqTrap h.uid 10 false h.run.va code) s

/-- R310, R347: TRET returns from PRESEQ, where a SAWAIT then looks at its row again (R212); elsewhere it is ILLEGAL (R312). -/
def execTretSequencer (s : State) : Out :=
  seqIssue [] (fun h s =>
    if !h.q.inPre || !h.run.last then s.seqIllegal h
    else
      ((s.modSeq h.uid fun q => ({ q with inPre := false, run := q.saved, saved := none, preTaken := true }).goOn q.tpc false).due
        (.sawaitRelease h.uid)).waits) s

/-- R126, R127, R347: PDONE: inside PRESEQ with a request pending, the sequencer is to suspend. -/
def execPdoneSequencer (s : State) : Out :=
  seqIssue [] (fun h s =>
    let s := s.seqAdvance h
    if h.q.inPre && h.b.preempt then (s.modSeq h.uid fun q => { q with pdone := true }).waits else s) s

end Sys2Proof.Machine
end

