-- ==== Sys2Proof/Machine/Issue.lean ====
section
/-! DEFINITION. What happens inside a core between instructions: grouping, fetching and starting clauses (R136, R137, R143,
R243 to R245), completions, releases of waits, traps delivered at boundaries (R126, R312). -/

namespace Sys2Proof.Machine

open Sys2Proof

/-! ### Groups -/

/-- R144: at its end a clause waits for the pending registers of instructions that named no counter. -/
def State.clauseClear (s : State) (w : Warp) (m : W32) : Bool :=
  w.pend.all fun kv => !(bit m (kv.1 % 32)) || match tget? s.ops kv.2 with | some o => o.ctr.isSome | none => true

/-- R136: threads that stand at a header: not exited, not held by a handler, in no clause. -/
def State.standing (s : State) (w : Warp) : W32 :=
  let m := w.live &&& (match w.handler with | some h => h.entered | none => BitVec.allOnes 32)
  w.runs.foldl (fun m r => if r.done && s.clauseClear w r.mask then m else m &&& ~~~r.mask) m

/-- R136: the threads that stand at one pc with a thread. -/
def State.groupAt (s : State) (w : Warp) (pc : W64) : W32 := maskOf ((lanes (s.standing w)).filter fun l => w.pcOf l == pc)

/-- R243: whether the DWAIT and QWAIT of a lane header are met. -/
def Block.laneWaits (b : Block) (wn : Nat) (w : Warp) (h : Header) : Bool :=
  (List.range 8).all fun k =>
    (!bit h.dwait k || w.ctrOf k == 0) &&
    (!bit h.qwait k || (tgetD b.queues k []).any fun e => e.ready && e.forWarp wn)

/-- R243: whether the waits of a sequencer header are met. -/
def Block.seqWaits (b : Block) (h : Header) : Bool :=
  (List.range 8).all fun k =>
    (!bit h.dwait k || b.seq.ctrOf k == 0) && (!bit h.qwait k || (tgetD b.queues k []).any fun e => e.ready)

/-- R143: threads of a group that have still to arrive at barrier `k` in its present phase. -/
def Warp.unarrived (w : Warp) (m : W32) (k : Nat) : List Nat := (lanes m).filter fun l => (tget? w.arr (l * 16 + k)).isNone
/-- R143: threads whose arrival, made at this header, has been released. -/
def Warp.through (w : Warp) (m : W32) (pc : W64) (k : Nat) : W32 :=
  maskOf ((lanes m).filter fun l => match tget? w.arr (l * 16 + k) with | some a => a.released && a.hdr == pc | none => false)
/-- R143: threads that have arrived in the present phase, but at another header, or whose release another header took. -/
def Warp.moved (w : Warp) (m : W32) (pc : W64) (k : Nat) : List Nat :=
  (lanes m).filter fun l => match tget? w.arr (l * 16 + k) with | some a => a.hdr != pc | none => false

/-- R136, R243: the threads of a group that can start the clause now. -/
def Block.starters (b : Block) (wn : Nat) (w : Warp) (m : W32) (pc : W64) (h : Header) : W32 :=
  let m := match h.bar with | some k => w.through m pc k.val | none => m
  if m ≠ 0 ∧ b.laneWaits wn w h then m else 0

/-- R154, R160, R161: whether the threads of a group can arrive at a header's barrier, which is a release at .block, and those that can
start its clause, an acquire where it names one. -/
def State.canArrive (s : State) (uid : Nat) (b : Block) (wn : Nat) (w : Warp) (m : W32) (pc : W64) (h : Header) : Bool :=
  match h.bar with
  | some k => (!(w.unarrived m k.val).isEmpty || !(w.moved m pc k.val).isEmpty) && !s.streamOut b.coreNo uid (.warp wn)
  | none => false
def State.canStart (s : State) (uid : Nat) (b : Block) (wn : Nat) (w : Warp) (m : W32) (pc : W64) (h : Header) : W32 :=
  if h.bar.isSome && s.loading uid (.warp wn) then 0 else b.starters wn w m pc h

/-! ### What a stream does next -/

/-- The timers of the machine that can run out, and what caches and engines do of their own accord. -/
inductive Timer where
  | reevaluate (q : Nat)
  | waitto (q : Nat)
  | flush (node : Nat)
  | stall (uid : Nat)
  | deadline (cluster : Nat)
  | collective (key rank : Nat)
  | cond (uid slot : Nat) (expired : Bool)
  | hold (req : Nat)
  | ack (line holder : Nat)
  | merge (loc : ErrLoc)
  | resume (stack channel : Nat)
  | refresh (eng : Nat)
  | forget (eng pfx len holder : Nat)
  | evict (die core line : Nat)
  | land (granule : Nat)
  deriving DecidableEq, Repr

/-- What is to happen next. -/
inductive Pick where
  | event (i : Instr)
  | timer (t : Timer)
  | word (uid : Nat) (st : Stream)
  | fetch (uid : Nat) (st : Stream) (lane : Nat)
  | arrive (uid : Nat) (st : Stream) (lane : Nat)
  | start (uid : Nat) (st : Stream) (lane : Nat)
  deriving DecidableEq, Repr

/-- Whether a stream's fetch waits for a walk or for the memory processor. -/
def State.fetching (s : State) (a : Agent) : Bool :=
  (s.walks.any fun k => k.who.agent == a && k.who.acc == 3) || s.reqs.any fun kv => kv.2.agent == a && kv.2.acc == .fetch

/-- R312: the warp that takes a trap of the sequencer: the lowest that has not exited. -/
def Block.firstWarp (b : Block) : Option (Nat × Warp) := b.warps.find? fun kv => kv.2.exited != BitVec.allOnes 32

/-- R332: whether a warp has a fence in progress. -/
def Warp.fencing (w : Warp) : Bool := w.runs.any fun r => match r.blk with | some (.fence _) => true | _ => false

/-- R312: whether a sequencer trap can be delivered now. -/
def Block.delivers (b : Block) : Bool :=
  match b.seq.trap with
  | some t => !t.delivered && match b.firstWarp with
    | none => true
    | some kv => kv.2.handler.isNone && !kv.2.suspended && !kv.2.fencing
  | none => false

/-- R126: whether a warp takes the pre-emption trap now. -/
def State.warpPreempts (s : State) (uid wn : Nat) (w : Warp) : Bool :=
  w.exited != BitVec.allOnes 32 && !w.preTaken && !w.suspended && w.handler.isNone && !w.fencing &&
    s.queued uid wn 1 == 0 && s.queued uid wn 2 == 0

/-- R126: whether the sequencer takes it. -/
def Seq.preempts (q : Seq) : Bool :=
  !q.sexit && !q.preTaken && !q.suspended && !q.inPre && q.trap.isNone &&
    !(match q.run with | some r => (match r.blk with | some (.fence _) => true | _ => false) | none => false)

/-- Whether a pick issues the next word of a clause. -/
def Pick.isWord : Pick → Bool
  | .word .. => true
  | .event _ | .timer _ | .start .. | .fetch .. | .arrive .. => false
/-- Whether a pick starts a clause. -/
def Pick.starts : Pick → Bool
  | .start .. => true
  | .event _ | .timer _ | .word .. | .fetch .. | .arrive .. => false

/-- R137, R243: what a group of a warp could do: fetch its clause, start it (or take the trap of an invalid header), or make its barrier
arrivals. -/
def State.groupPick (s : State) (uid : Nat) (b : Block) (wn : Nat) (w : Warp) (l : Nat) : Option Pick :=
  let pc := w.pcOf l
  let m := s.groupAt w pc
  match tget? w.ahead pc.toNat with
  | none => if s.fetching (.stream uid (.warp wn)) then none else some (.fetch uid (.warp wn) l)
  | some ws =>
    match decodeHeader false (ws.headD 0) with
    | .error _ => some (.start uid (.warp wn) l)
    | .ok h =>
      if s.canStart uid b wn w m pc h ≠ 0 then some (.start uid (.warp wn) l)
      else if s.canArrive uid b wn w m pc h then some (.arrive uid (.warp wn) l) else none

/-- The lowest threads of the groups, in ascending order, those after `last` first (R137). -/
def State.leaders (s : State) (w : Warp) : List Nat :=
  let m := s.standing w
  let ls := (lanes m).filter fun l => !(lanes m).any fun j => decide (j < l) && w.pcOf j == w.pcOf l
  (ls.filter fun l => decide (w.lastLane < l)) ++ ls.filter fun l => decide (l ≤ w.lastLane)

/-- R137: whether a clause that a warp runs holds it although it cannot issue: at a fence, or at its end for pending registers. -/
def State.clauseHeld (s : State) (w : Warp) : Bool :=
  w.runs.any fun r => (match r.blk with | some (.fence _) => true | _ => false) || (r.done && !s.clauseClear w r.mask)

/-- R137: the clause that a warp can issue from: it never runs two at once. -/
def State.warpRun (s : State) (w : Warp) : Option Run := if s.clauseHeld w then none else w.run?

/-- R126, R312: whether a warp takes a trap at this boundary, the pre-emption trap or one of the sequencer, before it issues anything. -/
def State.trapDue (s : State) (uid : Nat) (b : Block) (wn : Nat) (w : Warp) : Bool :=
  (b.preempt && s.warpPreempts uid wn w) || (b.delivers && b.firstWarp.any fun kv => kv.1 == wn)

/-- What a warp can do next: the next word of its clause, or, group by group, a fetch or its arrivals, and the start of the first
group whose waits are met (R137). -/
def State.warpPicks (s : State) (uid : Nat) (b : Block) (wn : Nat) (w : Warp) : List Pick :=
  if w.suspended || w.pdone.isSome || s.clauseHeld w || s.trapDue uid b wn w then []
  else match w.run? with
    | some _ => [.word uid (.warp wn)]
    | none =>
      let ps := (s.leaders w).filterMap fun l => s.groupPick uid b wn w l
      ps.filter fun p => !p.starts || ps.find? Pick.starts == some p

/-- R144: whether the sequencer's clause has nothing uncounted pending. -/
def State.seqClear (s : State) (q : Seq) : Bool :=
  q.pend.all fun kv => match tget? s.ops kv.2 with | some o => o.ctr.isSome | none => true

/-- R118: whether a push that has found no free slot holds the sequencer that issued it. -/
def State.pushHeld (s : State) (uid : Nat) (b : Block) : Bool :=
  !b.seq.inPre && s.pushes.any fun p => p.uid == uid && p.slot.isNone

/-- What a sequencer does next. -/
def State.seqPick (s : State) (uid : Nat) (b : Block) : Option Pick :=
  let q := b.seq
  if q.sexit || q.suspended || q.pdone || q.trap.isSome || s.pushHeld uid b || (b.preempt && q.preempts) then none
  else
    let idle := match q.run with | some r => r.done && s.seqClear q | none => true
    if idle then
      match tget? q.ahead q.pc.toNat with
      | none => if s.fetching (.stream uid .seq) then none else some (.fetch uid .seq 0)
      | some ws =>
        match decodeHeader true (ws.headD 0) with
        | .error _ => some (.start uid .seq 0)
        | .ok h => if b.seqWaits h then some (.start uid .seq 0) else none
    else match q.run with
      | some r => if r.open then some (.word uid .seq) else none
      | none => none

/-- R135, R139: the issue unit of a stream: a quadrant of its core, or the sequencer unit. -/
def Block.unit (b : Block) : Stream → Nat
  | .warp w => b.coreNo * 5 + b.slots.getD w 0 % 4
  | .seq => b.coreNo * 5 + 4
/-- R132, R139: a stream's warp slot, or its sequencer context. -/
def Block.slot (b : Block) : Stream → Nat
  | .warp w => b.slots.getD w 0
  | .seq => b.seqCtx

/-- R244: whether a sequencer's last clause asked to be passed over. -/
def Seq.yields (q : Seq) : Bool := q.yielded || match q.run with | some r => r.done && r.yieldBit | none => false

/-- A stream that can go on: its unit, its slot, whether it yields, and what it does. -/
structure Ready where
  unit : Nat
  slot : Nat
  yields : Bool
  pick : Pick
  deriving DecidableEq, Repr

/-- R106: whether a block's core is quarantined. -/
def State.coreOut (s : State) (b : Block) : Bool := match tget? s.cores b.coreNo with | some c => c.quarantined | none => false

/-- The streams of a resident block that can go on. -/
def State.readyOf (s : State) (uid : Nat) (b : Block) : List Ready :=
  if !b.active || s.coreOut b then []
  else
    (b.warps.flatMap fun kv => (s.warpPicks uid b kv.1 kv.2).map fun p =>
      ⟨b.unit (.warp kv.1), b.slot (.warp kv.1), kv.2.yields, p⟩) ++
    ((s.seqPick uid b).map fun p => (⟨b.unit .seq, b.slot .seq, b.seq.yields, p⟩ : Ready)).toList

/-- R244: a yielding stream is passed over at a clause choice while another of its unit has a group whose waits are met. -/
def unyielded (rs : List Ready) : List Ready :=
  rs.filter fun r => !r.yields || !r.pick.starts || !(rs.any fun x => x.unit == r.unit && !x.yields && x.pick.starts)

/-- R137: the stream whose clause is under way in a quadrant: the one that issues now, or one that has been left while it could go on. -/
def State.inQuadrant (s : State) (unit : Nat) : Option (Nat × Stream) :=
  match s.cur.filter fun x => (s.block? x.1).any fun b => b.unit x.2 == unit with
  | some x => some x
  | none => tget? s.underway unit

/-- R137: a quadrant turns to another clause only at the end of the one under way, or while that is stalled. -/
def State.unbroken (s : State) (rs : List Ready) : List Ready :=
  rs.filter fun r =>
    r.unit % 5 == 4 || !(r.pick.starts || r.pick.isWord) || match s.inQuadrant r.unit with
      | some x => r.pick == .word x.1 x.2 || !(rs.any fun y => y.pick == .word x.1 x.2)
      | none => true

/-- R137, R139: of the clauses that a unit could start, the one of the first slot behind that which last started one. -/
def State.chosen (s : State) (rs : List Ready) : List Ready :=
  rs.filter fun r => !r.pick.starts ||
    ((following Ready.slot (tgetD s.lastStarts r.unit 64) (rs.filter fun x => x.unit == r.unit && x.pick.starts)).map Ready.slot ==
      some r.slot)

/-! ### Events that the state itself makes due -/

/-- Whether a stream has an operation that has not completed. -/
def State.busy (s : State) (uid : Nat) (st : Stream) : Bool := s.ops.any fun kv => kv.2.uid == uid && kv.2.st == st

/-- R115: whether a block has completed: every thread and the sequencer have exited and no operation is left. -/
def State.blockDone (s : State) (uid : Nat) (b : Block) : Bool :=
  b.finished && !b.gone && !(s.ops.any fun kv => kv.2.uid == uid) && !(s.rops.any fun kv => kv.2.uid == some uid) &&
    !(s.pushes.any fun p => p.uid == uid) && !(s.contribs.any fun kv => kv.2.uid == uid) && !(s.padOut.any fun x => x.uid == uid) &&
    b.chains.all (fun kv => !kv.2.running) && b.colls.all fun kv => !kv.2.busy

/-- R150: whether a clause that waits at full-empty bits may go on. -/
def State.feGoes (s : State) (r : Run) : Bool :=
  r.blk == some .fullEmpty && match r.fe with | some x => s.feReady (some x) x.grs x.full | none => false

/-- The events of a resident block that its state makes due. -/
def State.blockEvents (s : State) (uid : Nat) (b : Block) : List Instr :=
  if !b.active || s.coreOut b then []
  else
    (if b.delivers then [.sequencerTrapDelivery uid] else []) ++
    (if b.preempt then
      (b.warps.filterMap fun kv => if s.warpPreempts uid kv.1 kv.2 then some (.preemptionTrap uid (.warp kv.1)) else none) ++
      (if b.seq.preempts then [.preemptionTrap uid .seq] else []) else []) ++
    (b.warps.filterMap fun kv =>
      if kv.2.pdone.isSome && !s.busy uid (.warp kv.1) then some (.streamSuspend uid (.warp kv.1)) else none) ++
    (if b.seq.pdone && !s.busy uid .seq then [.streamSuspend uid .seq] else []) ++
    (b.warps.filterMap fun kv => if kv.2.runs.any s.feGoes then some (.fullEmptyRelease uid (.warp kv.1)) else none) ++
    (if b.seq.run.any s.feGoes then [.fullEmptyRelease uid .seq] else [])

/-! ### Fetching and starting clauses -/

/-- R245: what fetching ahead brings: words, and the RA and store of the first poisoned one among them. -/
structure Ahead where
  words : List W64
  bad : Option (Nat × Nat)
  deriving DecidableEq, Repr

/-- R245: words of a clause, one after another; none where a word is not to be had now. -/
def State.fetchWords (s : State) (b : Block) (a : Agent) (slot : Nat) (va : W64) : Nat → Option Ahead × State
  | 0 => (some ⟨[], none⟩, s)
  | n + 1 =>
    let rest := fun (w : W64) (bad : Option (Nat × Nat)) (s : State) =>
      match fetchWords s b a slot (va + 8) n with
      | (some x, s) => (some (⟨w :: x.words, bad.orElse fun _ => x.bad⟩ : Ahead), s)
      | (none, s) => (none, s)
    match s.fetch b a slot va with
    | (.word w, s) => rest w none s
    | (.poisoned w ra x, s) => rest w (some (ra, x)) s
    | (_, s) => (none, s)

/-- R245: a whole clause; the words behind a word that is no header are not fetched. An address that names no code word
stands for a word that is no header (R314). -/
def State.fetchClause (s : State) (b : Block) (a : Agent) (sq : Bool) (slot : Nat) (pc : W64) : Option Ahead × State :=
  if highVa pc.toNat || pc.toNat % 8 != 0 then (some ⟨[0], none⟩, s)
  else match s.fetchWords b a slot pc 1 with
    | (some x, s) =>
      match decodeHeader sq (x.words.headD 0) with
      | .error _ => (some x, s)
      | .ok hd =>
        match s.fetchWords b a slot (pc + 8) hd.count with
        | (some y, s) => (some ⟨x.words ++ y.words, x.bad.orElse fun _ => y.bad⟩, s)
        | (none, s) => (none, s)
    | (none, s) => (none, s)

/-- R245: a clause fetched ahead. -/
def Warp.setAhead (w : Warp) (pc : W64) (x : Ahead) : Warp :=
  { w with
    ahead := tset w.ahead pc.toNat x.words
    badAhead := match x.bad with | some p => tset w.badAhead pc.toNat p | none => tdel w.badAhead pc.toNat }
def Seq.setAhead (q : Seq) (pc : W64) (x : Ahead) : Seq :=
  { q with
    ahead := tset q.ahead pc.toNat x.words
    badAhead := match x.bad with | some p => tset q.badAhead pc.toNat p | none => tdel q.badAhead pc.toNat }

/-- R245: CLAUSE_FETCH: the clause that a thread's group, or the sequencer, stands at is fetched ahead. -/
def execClauseFetch (uid : Nat) (st : Stream) (lane : Nat) (s : State) : Out :=
  .next (match s.block? uid with
    | none => s
    | some b =>
      if b.home.isNone then s
      else match st with
        | .warp w =>
          match tget? b.warps w with
          | none => s
          | some wp =>
            let pc := wp.pcOf lane
            match s.fetchClause b (.stream uid st) false (b.slots.getD w 0xFF) pc with
            | (some x, s) => s.modWarp uid w fun w => w.setAhead pc x
            | (none, s) => s
        | .seq =>
          let pc := b.seq.pc
          match s.fetchClause b (.stream uid st) true 0xFE pc with
          | (some x, s) => s.modSeq uid fun q => q.setAhead pc x
          | (none, s) => s)

/-- R244: the streams of a unit may be chosen again. -/
def State.unyield (s : State) (unit : Nat) : State :=
  { s with blocks := tmap (fun _ (b : Block) =>
      if b.home.isNone then b
      else
        { b with
          warps := tmap (fun k (w : Warp) => if b.unit (.warp k) = unit then { w with yielded := false, runs := w.runs.map fun r =>
            if r.done then { r with yieldBit := false } else r } else w) b.warps
          seq := if b.unit .seq = unit then { b.seq with yielded := false, run := b.seq.run.map fun r =>
            if r.done then { r with yieldBit := false } else r } else b.seq }) s.blocks }

/-- R143: the arrivals that a group makes on reaching a header that names barrier `k`. -/
def Block.groupArrives (b : Block) (wn : Nat) (w : Warp) (m : W32) (pc : W64) (k : Nat) : Block :=
  let fresh := (w.unarrived m k) ++ (w.moved m pc k).filter fun l =>
    match tget? w.arr (l * 16 + k) with | some a => a.released | none => false
  let put := fun (t : Tab Arrival) (l : Nat) => tset t (l * 16 + k) ⟨pc, false⟩
  let w := { w with arr := (w.unarrived m k ++ w.moved m pc k).foldl put w.arr }
  let b := { b with warps := tset b.warps wn w }
  if fresh.isEmpty then b else b.arrive k fresh.length

/-- R136, R243: the clause of a group started. -/
def Warp.begin (w : Warp) (m : W32) (pc : W64) (h : Header) (ws : List W64) (clear : W32 → Bool) : Warp :=
  { w with
    runs := (w.runs.filter fun r => !(r.done && clear r.mask)) ++
      [{ mask := m, hdr := pc, cls := h.cls, words := ws, idx := 0, yieldBit := h.yieldBit, blk := none }]
    ahead := tdel w.ahead pc.toNat
    arr := match h.bar with
      | some k => (lanes m).foldl (fun t l => tdel t (l * 16 + k.val)) w.arr
      | none => w.arr
    lastLane := (lanes m).headD 0 }

/-- R103, R245: whose the start of a clause is, where it consumes a poisoned word. -/
def Block.startWho (b : Block) (uid : Nat) (st : Stream) (pc : W64) : Who :=
  ⟨.stream uid st, b.ctx, b.die, b.coreNo % 128, match st with | .warp w => b.slots.getD w 0xFF | .seq => 0xFE, pc, 3⟩

/-- R137, R139, R244: a stream's clause has been chosen. -/
def State.started (s : State) (uid : Nat) (b : Block) (st : Stream) : State :=
  { s.unyield (b.unit st) with cur := some (uid, st), lastStarts := tset s.lastStarts (b.unit st) (b.slot st) }

/-- R143, R243, R245, R260: CLAUSE_START of a lane group: its clause starts, or its threads arrive at their barrier. -/
def State.startLane (s : State) (uid : Nat) (b : Block) (wn : Nat) (w : Warp) (lane : Nat) : State :=
  let pc := w.pcOf lane
  let m := s.groupAt w pc
  match tget? w.ahead pc.toNat with
  | none => s
  | some ws =>
    if m = 0 then s
    else match tget? w.badAhead pc.toNat, decodeHeader false (ws.headD 0) with
      | some x, .error _ => s.poisoned (b.startWho uid (.warp wn) pc) x.1 x.2
      | none, .error _ =>
        (s.modWarp uid wn fun x => { x with ahead := tdel x.ahead pc.toNat }).takeTrap uid wn
          { cause := 7, enter := m, tmask := m, tdst := 0, resumeAt := true, seq := false } fun _ => pc
      | bad, .ok h =>
        let go := s.canStart uid b wn w m pc h
        if go ≠ 0 && bad.isSome then s.poisoned (b.startWho uid (.warp wn) pc) (bad.getD (0, 0)).1 (bad.getD (0, 0)).2
        else if go ≠ 0 then (s.modWarp uid wn fun w => w.begin go pc h (ws.drop 1) (s.clauseClear w)).started uid b (.warp wn)
        else match h.bar with
          | some k => if s.canArrive uid b wn w m pc h then s.modBlock uid fun b => b.groupArrives wn w m pc k.val else s
          | none => s

/-- R139, R243, R260: CLAUSE_START of the sequencer. -/
def State.startSeq (s : State) (uid : Nat) (b : Block) : State :=
  let pc := b.seq.pc
  match tget? b.seq.ahead pc.toNat with
  | none => s
  | some ws =>
    match tget? b.seq.badAhead pc.toNat, decodeHeader true (ws.headD 0) with
    | some x, .error _ => s.poisoned (b.startWho uid .seq pc) x.1 x.2
    | none, .error _ => (s.modSeq uid fun q => { q with ahead := tdel q.ahead pc.toNat }).seqTrap uid 7 true pc 0
    | bad, .ok h =>
      if !b.seqWaits h then s
      else match bad with
        | some x => s.poisoned (b.startWho uid .seq pc) x.1 x.2
        | none =>
          (s.modSeq uid fun q =>
            { q with
              run := some { mask := 0, hdr := pc, cls := h.cls, words := ws.drop 1, idx := 0, yieldBit := h.yieldBit, blk := none }
              ahead := tdel q.ahead pc.toNat }).started uid b .seq

/-- R243: CLAUSE_START. -/
def execClauseStart (uid : Nat) (st : Stream) (lane : Nat) (s : State) : Out :=
  .next (match s.block? uid with
    | none => s
    | some b =>
      if b.home.isNone then s
      else match st with
        | .warp w => match tget? b.warps w with | some wp => s.startLane uid b w wp lane | none => s
        | .seq => s.startSeq uid b)

/-- R260: ILLEGAL: the trap of cause 7 at the word that the issuing stream stands at. -/
def execIllegal (s : State) : Out :=
  match s.here? with
  | some h => .next (s.illegalWord h)
  | none =>
    match s.seqHere? with
    | some h => .next (s.seqIllegal h)
    | none => .fault .noStream

/-- R136: ISSUE_GROUP_REGROUP. Groups are formed anew at every choice, so nothing is left to change. -/
def execIssueGroupRegroup (_die _core _quadrant : Nat) (s : State) : Out := .next s

/-! ### Completions and releases -/

/-- R144, R321: the values that a load's bytes give its destinations. -/
def Op.results (o : Op) : Op :=
  match o.fin with
  | .lanes sz d ls =>
    { o with dests := ls.flatMap fun l =>
        destVals d l sz.regs (loadValue sz ((List.range sz.bytes).map fun j => tgetD o.got (l * 16 + j) 0)) }
  | .scalar sz d =>
    let x := leNat ((List.range (ssizeBytes sz)).map fun j => tgetD o.got j 0)
    { o with dests := [(d, match sz with
        | .i32 => (BitVec.ofNat 32 x).signExtend 64
        | _ => BitVec.ofNat 64 x)] }
  | _ => o

/-- R369: an f32 tile element, by row and column. -/
def tileKey (z i j : Nat) : Nat := (z * 128 + i) * 128 + j

/-- A tile with new elements, numbered row by row. -/
def Block.setTile (b : Block) (z : Nat) (f : Nat → W32) : Block :=
  let lo := tileKey z 0 0
  let new := (((List.range 16384).map fun e => (lo + e, f e))).filter fun kv => kv.2 != 0
  { b with
    tiles := (b.tiles.filter fun kv => decide (kv.1 < lo)) ++ new ++ b.tiles.filter fun kv => decide (lo + 16384 ≤ kv.1)
    tileBad := b.tileBad &&& ~~~BitVec.ofNat 8 (2 ^ z), tilePoison := tclear b.tilePoison (z * 4096) (z * 4096 + 4096) }

/-- R342: LDQ_ENTRY_FILLED: the entry's data is there. -/
def execLdqEntryFilled (op : Nat) (s : State) : Out :=
  .next (match tget? s.ops op with
    | none => s
    | some o =>
      if o.left ≠ 0 then s
      else match o.fin with
      | .entry q id =>
        let data : List W32 := (List.range 32).map fun l =>
          BitVec.ofNat 32 (leNat ((List.range 4).map fun j => tgetD o.got (4 * l + j) 0))
        let s := s.modBlock o.uid fun b =>
          Block.freeEntries { b with queues := tset b.queues q ((tgetD b.queues q []).map fun e =>
              if e.id = id then { e with data := data, ready := true } else e) }
        (s.wakeQueues o.uid).completeOp op
      | _ => s)

/-- A stream whose wait has ended issues its instruction again. -/
def State.unblock (s : State) (uid : Nat) (st : Stream) (p : Wait → Bool) : State :=
  let sel := fun (r : Run) => match r.blk with | some x => p x | none => false
  let f := fun (r : Run) => { r with blk := none }
  match st with
  | .warp w => s.modWarp uid w fun wp => { wp with runs := letRunsGo sel f wp.runs }
  | .seq => s.modSeq uid fun q => { q with run := q.run.map fun r => if sel r then f r else r }

/-- R141: QUEUE_WAIT_RELEASE. -/
def execQueueWaitRelease (uid : Nat) (st : Stream) (s : State) : Out :=
  .next (s.unblock uid st fun x => match x with | .queue _ => true | _ => false)

/-- R150: FULL_EMPTY_RELEASE. -/
def execFullEmptyRelease (uid : Nat) (st : Stream) (s : State) : Out := .next (s.unblock uid st fun x => x == .fullEmpty)

/-- R212: SAWAIT_RELEASE: a SAWAIT that its row's home has decided completes; another waits on. -/
def execSawaitRelease (uid : Nat) (s : State) : Out :=
  .next (match s.block? uid with
    | none => s
    | some b =>
      match b.seq.run with
      | some r =>
        match r.blk with
        | some (.sawait _ st _ ctr (some status)) => if b.active then s.seqDone ⟨uid, b, r⟩ ⟨0, ctr⟩ [(st, BitVec.ofNat 64 status)] else s
        | _ => s
      | none => s)

/-- A stream passes its fence. -/
def State.passFence (s : State) (id : Nat) (o : Op) : State :=
  let pass := fun (r : Run) => if r.blk = some (.fence id) then r.next else r
  match o.st with
  | .warp w => s.modWarp o.uid w fun wp =>
    let ended := wp.runs.filter fun r => r.blk = some (.fence id) && r.idx + 1 == r.words.length
    let wp := ended.foldl (fun (w : Warp) r => w.setPcs (lanes r.mask) r.after) wp
    { wp with runs := wp.runs.map pass }
  | .seq => s.modSeq o.uid fun q =>
    match q.run with
    | some r => if r.blk = some (.fence id) then
        let r' := pass r
        { q with run := some r', pc := if r'.done then r.after else q.pc }
      else q
    | none => q

/-- R154: the release that an instruction makes first has completed: it issues again. -/
def State.releasedFirst (s : State) (id : Nat) (o : Op) : State :=
  match o.st with
  | .warp w => s.modWarp o.uid w fun wp =>
    { wp with runs := wp.runs.map fun r => if r.blk = some (.fence id) then { r with blk := none, relDone := true } else r }
  | .seq => s

/-- R160, R161, R331: one release whose round has landed: its acquire, if any, then its fence completes. -/
def State.endRelease (s : State) (core : Nat) (r : Release) : State :=
  let s := s.modCore core fun c => { c with rels := c.rels.filter fun x => x != r }
  let s := match r.acquire with | some sc => if isWide sc then s.dropShared core else s | none => s
  match tget? s.ops r.op with
  | none => s
  | some o =>
    match o.fin with
    | .plain => (s.passFence r.op o).completeOp r.op
    | .relFirst => (s.releasedFirst r.op o).completeOp r.op
    | _ => s.opDone (some r.op)

/-- R160: RELEASE_QUERY_REPLY: the gathered query of a round answered; releases whose writes have all landed complete. -/
def execReleaseQueryReply (die core round : Nat) (s : State) : Out :=
  let k := coreNo die core
  .next (match tget? s.cores k with
    | none => s
    | some c =>
      if !c.landed round then s
      else ((c.rels.filter fun r => r.round == round).foldl (fun s r => s.endRelease k r) s).modCore k fun c => c.forgetRounds round)

/-- R162: L1_EVICTION: a line's dirty bytes written back and its privatised bytes merged, and the line dropped. -/
def execL1Eviction (die core line : Nat) (s : State) : Out := .next (s.dropLine (coreNo die core) line none)

/-! ### Traps at boundaries -/

/-- R309: where a thread resumes: its clause's next word, or its header. -/
def Warp.resumePoint (w : Warp) (l : Nat) : W64 :=
  match w.runs.find? fun r => bit r.mask l && !r.done with
  | some r => r.va
  | none => w.pcOf l

/-- R126, R309: every thread of a warp enters a handler, each to resume where it stands. -/
def State.trapAll (s : State) (uid wn cause : Nat) (m : W32) : State :=
  match s.block? uid with
  | none => s
  | some b =>
    match tget? b.warps wn with
    | none => s
    | some w =>
      s.takeTrap uid wn { cause := cause, enter := w.live, tmask := m, tdst := 0, resumeAt := true, seq := false } w.resumePoint

/-- R126, R309: PREEMPTION_TRAP: a stream takes the pre-emption trap at its instruction boundary. -/
def execPreemptionTrap (uid : Nat) (st : Stream) (s : State) : Out :=
  .next (match s.block? uid with
    | none => s
    | some b =>
      if !b.preempt || !b.active then s
      else match st with
        | .warp wn =>
          match tget? b.warps wn with
          | none => s
          | some w =>
            if s.warpPreempts uid wn w then
              (s.trapAll uid wn 11 w.live).modWarp uid wn fun x => { x with preTaken := true }
            else s
        | .seq =>
          if b.seq.preempts then
            s.modSeq uid fun q =>
              let at' := match q.run with | some r => if r.done then q.pc else r.va | none => q.pc
              { q with
                tpc := at', inPre := true, preTaken := true, pc := b.rcd.preSeq, run := none
                saved := match q.run with | some r => if r.done then none else some r.again | none => none }
          else s)

/-- R312: SEQUENCER_TRAP_DELIVERY: the lowest warp that has not exited enters the handler for the sequencer's trap; if there
is none, the context is lost. -/
def execSequencerTrapDelivery (uid : Nat) (s : State) : Out :=
  .next (match s.block? uid with
    | none => s
    | some b =>
      if !b.delivers then s
      else match b.seq.trap, b.firstWarp with
        | some _, none => (s.modSeq uid fun q => { q with trap := q.trap.map fun t => { t with delivered := true } }).lose b.ctx 0
        | some t, some (wn, w) =>
          let s := s.takeTrap uid wn
            { cause := t.cause, enter := w.live, tmask := 0, tdst := t.code, resumeAt := t.header, seq := true } fun _ => b.seq.tpc
          s.modSeq uid fun q => { q with trap := some { t with delivered := true } }
        | none, _ => s)

/-! ### The block-stall trap -/

/-- R124: a wait that counts as blocked for the stall rule. -/
def Wait.stalls : Wait → Bool
  | .queue _ | .mask _ | .fullEmpty | .barrier _ => true
  | .fence _ | .sawait .. | .engine => false

/-- R124, R141, R243: whether a header waits for a queue that holds no entry for its warp (none: for the sequencer). -/
def Block.queueWait (b : Block) (wn : Option Nat) (h : Header) : Bool :=
  (List.range 8).any fun k =>
    bit h.qwait k && !(tgetD b.queues k []).any fun e => e.ready && match wn with | some w => e.forWarp w | none => true

/-- R124: whether a warp is blocked: every thread waits in a clause, or at a header for its barrier or a queue. -/
def State.warpBlocked (s : State) (b : Block) (wn : Nat) (w : Warp) : Bool :=
  (w.runs.all fun r => r.done || (match r.blk with | some x => x.stalls | none => false)) &&
  (lanes (s.standing w)).all fun l =>
    match tget? w.ahead (w.pcOf l).toNat with
    | some ws =>
      match decodeHeader false (ws.headD 0) with
      | .ok h => b.queueWait (some wn) h || match h.bar with
        | some k => match tget? w.arr (l * 16 + k.val) with | some a => !a.released && a.hdr == w.pcOf l | none => false
        | none => false
      | .error _ => false
    | none => false

/-- R124: whether the sequencer is blocked on a wait that counts, or in SAWAIT. -/
def Block.seqBlocked (b : Block) : Bool :=
  let header := match tget? b.seq.ahead b.seq.pc.toNat with
    | some ws => (match decodeHeader true (ws.headD 0) with | .ok h => b.queueWait none h | .error _ => false)
    | none => false
  match b.seq.run with
  | some r => if r.done then header else match r.blk with | some (.sawait ..) => true | some x => x.stalls | none => false
  | none => header

/-- R124: whether a block can be stalled: all streams blocked, nothing outstanding, no warp in a handler. -/
def State.stalled (s : State) (uid : Nat) (b : Block) : Bool :=
  b.home.isSome &&
  (b.warps.any fun kv => kv.2.exited != BitVec.allOnes 32) &&
  (b.warps.all fun kv => kv.2.exited == BitVec.allOnes 32 || (kv.2.handler.isNone && !kv.2.suspended && s.warpBlocked b kv.1 kv.2)) &&
  (b.seq.sexit || b.seqBlocked) &&
  !(s.ops.any fun kv => kv.2.uid == uid) && !(s.rops.any fun kv => kv.2.uid == some uid) &&
  !(s.pushes.any fun p => p.uid == uid) && !(s.contribs.any fun kv => kv.2.uid == uid) &&
  b.chains.all (fun kv => !kv.2.running) && b.colls.all (fun kv => !kv.2.busy) &&
  !(s.writes.any fun kv => kv.2.core == some b.coreNo) &&
  !(s.reqs.any fun kv => kv.2.agent == .stream uid .seq || kv.2.agent == .engine uid || kv.2.agent == .chain uid ||
    b.warps.any fun w => kv.2.agent == .stream uid (.warp w.1))

/-- R124, R309: BLOCK_STALL: when 2^20 cycles of a stall have passed, every warp that has not exited takes cause 8 at its
blocking instruction. -/
def execBlockStall (uid : Nat) (s : State) : Out :=
  .next (match s.block? uid with
    | none => s
    | some b =>
      if !s.stalled uid b then s
      else b.warps.foldl (fun s kv => if kv.2.exited == BitVec.allOnes 32 then s else s.trapAll uid kv.1 8 kv.2.live) s)

end Sys2Proof.Machine
end

