-- ==== Sys2Proof/Machine/CopyEngine.lean ====
section
/-! DEFINITION. The copy engine's command chains (R348 to R351, R359): CHAIN, CWAIT and the events of a chain's entries. -/

namespace Sys2Proof.Machine

open Sys2Proof

/-- R74: the conditions of waits: EQ, NE, GEU, LTU. -/
def waitCond (code x y : Nat) : Bool :=
  match code with
  | 0 => x == y
  | 1 => x != y
  | 2 => decide (y ≤ x)
  | _ => decide (x < y)

/-! ### Entries -/

/-- A field of an entry's bytes. -/
def efld (bs : List Byte) (lo n : Nat) : Nat := leNat ((bs.drop lo).take n)
def esig (bs : List Byte) (lo n : Nat) : Int := (BitVec.ofNat (8 * n) (efld bs lo n)).toInt

def Chain.status' (ch : Chain) (code slot : Nat) : W64 := BitVec.ofNat 64 (code + slot * 2 ^ 12 + ch.idx % 2 ^ 16 * 2 ^ 16)

/-- R103: a poisoned granule among spans of `n` bytes. -/
def State.rowsPoison (s : State) (ks : List Nat) (n : Nat) : Option (Nat × Nat) :=
  ks.findSome? fun k => let p := s.poisonIn k n; if p = 0 then none else some (k % 2 ^ 64, p - 1)

/-- The key of a chain's present entry. -/
def Block.entryKey (b : Block) (ch : Chain) : Nat := keySpad b.coreNo (b.scratchBase + (ch.base + 64 * ch.idx))

/-- R349: the bytes of a chain's present entry: those read when the walk reached it, else those at the core scratchpad; none beyond
SCRATCH or index 4,095. -/
def State.entryBytes (s : State) (b : Block) (ch : Chain) : Option (List Byte) :=
  if 4096 ≤ ch.idx ∨ b.rcd.scratch < ch.base + 64 * ch.idx + 64 then none
  else if !ch.entry.isEmpty then some ch.entry
  else some (s.rdN b.ctx (b.entryKey ch) 64)

/-- R103, R349: the poisoned granule that the read of a chain's present entry consumes. -/
def State.entryPoison (s : State) (b : Block) (ch : Chain) : Option (Nat × Nat) :=
  if !ch.entry.isEmpty then none else s.rowsPoison [b.entryKey ch] 64

/-- R349: whether the entry at an index lies within the chain's reach. -/
def Block.entryIn (b : Block) (ch : Chain) (i : Nat) : Bool := decide (i < 4096) && decide (ch.base + 64 * i + 64 ≤ b.rcd.scratch)

/-- R350: the bytes of one row at the destination: the same for COPY, R351's image for QUANT. -/
def rowOut (quant : Bool) (rowBytes : Nat) : Nat :=
  if quant then
    let n := (rowBytes / 4 + 31) / 32 * 32
    (n + n / 32 + 15) / 16 * 16 + 16
  else rowBytes

/-- The space of SRCK and DSTK. -/
def padOf (k : Nat) : Pad := if k = 1 then .core else .chip

/-- R349: a scratchpad side of a COPY: every row within its allocation; the offsets are linear in the row. -/
def Block.rowsIn (b : Block) (kind : Nat) (base stride : Int) (rows n : Nat) : Bool :=
  let lim := if kind = 1 then b.rcd.scratch else b.rcd.cscratch
  let ok := fun (a : Int) => decide (0 ≤ a) && decide (a + n ≤ lim)
  kind == 0 || (ok base && ok (base + stride * ((rows : Int) - 1)))

/-- R80, R349: a COPY or QUANT entry that keeps the rule. DEDUCED: a routed row that reaches an address with any of bits [63:57] set has a
field out of its range; no instruction is being issued then that could trap (notes/assumptions/87.md). -/
def Block.copyOk (b : Block) (ch : Chain) (bs : List Byte) (quant : Bool) : Bool :=
  let rows := efld bs 4 4
  let rb := efld bs 24 4
  let src := (efld bs 8 8 : Int) + ch.os
  let dst := (efld bs 16 8 : Int) + ch.od
  let out := rowOut quant rb
  let ss := esig bs 28 4
  let ds := esig bs 32 4
  let high := fun (k : Nat) (a st : Int) (n : Nat) =>
    let z := a + st * ((rows : Int) - 1)
    k == 0 && (decide (a < 0) || decide (2 ^ 57 < a + n) || decide (z < 0) || decide (2 ^ 57 < z + n))
  decide (efld bs 1 1 ≤ 2) && decide (efld bs 2 1 ≤ 2) && efld bs 3 1 / 32 == 0 && efld bs 3 1 / 4 % 8 != 7 &&
  decide (1 ≤ rows) && decide (rows ≤ 65536) && rb % 16 == 0 && decide (16 ≤ rb) && decide (rb ≤ 2 ^ 20) &&
  efld bs 8 8 % 16 == 0 && efld bs 16 8 % 16 == 0 && src % 16 == 0 && dst % 16 == 0 && (rows == 1 || (ss % 16 == 0 && ds % 16 == 0)) &&
  (bs.drop 36).all (· == 0) &&
  b.rowsIn (efld bs 1 1) src ss rows rb && b.rowsIn (efld bs 2 1) dst ds rows out &&
  !high (efld bs 1 1) src ss rb && !high (efld bs 2 1) dst ds out && b.entryIn ch (ch.idx + 1)

/-- R349: a LOOP entry that keeps the rule. -/
def loopOk (ch : Chain) (bs : List Byte) : Bool :=
  efld bs 1 3 == 0 && efld bs 6 2 == 0 && efld bs 12 4 == 0 && decide (efld bs 4 2 < ch.idx) && (bs.drop 32).all (· == 0)

/-- R80, R349: a COND entry that keeps the rule (log entry 87). A wait has no use for its TARGET, which may be anything. -/
def condOk (ch : Chain) (bs : List Byte) : Bool :=
  efld bs 1 2 == 0 && efld bs 3 1 / 32 == 0 && efld bs 3 1 / 4 % 8 != 7 && decide (efld bs 4 1 ≤ 1) && decide (efld bs 5 1 ≤ 3) &&
  efld bs 8 8 % 8 == 0 && (bs.drop 36).all (· == 0) &&
  (efld bs 4 1 == 0 || decide (ch.idx < efld bs 6 2)) && !highVa (efld bs 8 8)

/-- R80, R349: a SIGNAL entry that keeps the rule (log entry 87). -/
def signalOk (bs : List Byte) : Bool :=
  efld bs 1 2 == 0 && efld bs 3 1 / 32 == 0 && efld bs 3 1 / 4 % 8 != 7 && decide (efld bs 4 1 ≤ 1) && efld bs 5 3 == 0 &&
  efld bs 8 8 % 8 == 0 && (bs.drop 24).all (· == 0) && !highVa (efld bs 8 8)

/-! ### A chain's state -/

def State.chain? (s : State) (uid slot : Nat) : Option (Block × Chain) :=
  match s.block? uid with
  | some b => match tget? b.chains slot with
    | some ch => if ch.running && b.home.isSome then some (b, ch) else none
    | none => none
  | none => none
def State.modChain (s : State) (uid slot : Nat) (f : Chain → Chain) : State :=
  s.modBlock uid fun b => { b with chains := tmod b.chains slot f }
/-- R349: the walk has read its present entry, and keeps it until it leaves it (log entry 85). -/
def State.latch (s : State) (uid slot : Nat) (bs : List Byte) : State := s.modChain uid slot fun c => { c with entry := bs }

/-- R348: a chain stops with a status; its CHAIN completes, and a sequencer that waits for it goes on. -/
def State.stopChain (s : State) (uid slot code : Nat) : State :=
  match s.chain? uid slot with
  | none => s
  | some (_, ch) =>
    let s := s.modChain uid slot fun c => { c with running := false, status := c.status' code slot }
    (s.completeOp ch.op).unblock uid .seq fun x => x == .engine

/-- R350: the chain goes on at an index, or stops with BADENTRY at this entry where that lies out of reach. -/
def State.chainTo (s : State) (uid slot i : Nat) : State :=
  s.modChain uid slot fun c => { c with idx := i, row := 0, piece := 0, reading := false, expired := false, waits := false, entry := [] }

/-- The bytes that a chain's read has brought. -/
def State.chainGot (s : State) (ch : Chain) : Tab Byte := match tget? s.ops ch.op with | some o => o.got | none => []
def State.chainBad (s : State) (ch : Chain) : Nat := match tget? s.ops ch.op with | some o => o.bad | none => 0
def State.setGot (s : State) (ch : Chain) (t : Tab Byte) : State := { s with ops := tmod s.ops ch.op fun o => { o with got := t, bad := 0 } }
/-- R159: whether every write of the chain has landed; the op's own count is 1. -/
def State.chainLanded (s : State) (ch : Chain) : Bool := match tget? s.ops ch.op with | some o => decide (o.left ≤ 1) | none => true

def Block.engineWho (b : Block) (uid acc : Nat) (pc : W64) : Who := ⟨.engine uid, b.ctx, b.die, b.coreNo % 128, 0xFF, pc, acc⟩

/-- R91, R350: whose accesses those of a chain are. -/
def Block.chainWho (b : Block) (uid acc : Nat) (pc : W64) : Who := { b.engineWho uid acc pc with agent := .chain uid }

def reqOfAcc (n : Nat) : ReqTy := (reqTyOf (n % 4)).getD .own
def scopeOfAcc (n : Nat) : Scope := (scopeOf (n / 4 % 8)).getD .sys

/-- A request of a block's chain. -/
def Block.engineReq (b : Block) (uid : Nat) (acc : Acc) (rt : ReqTy) (wide : Bool) (va ra n op : Nat) : Req :=
  { acc := acc, agent := .chain uid, ctx := b.ctx, die := b.die, core := some b.coreNo, va := va, ra := ra, len := n, req := rt
    wide := wide, lane := 0xFF, bytes := [], at' := 0, op := some op, aop := none, round := 0, why := .unrouted, noted := false
    poison := 0 }

/-- R350: one piece read by an engine into its op's bytes at a place; false where it has still to wait. `use` says that the
bytes are consumed (QUANT), not moved. -/
def State.engineRead (s : State) (uid : Nat) (b : Block) (op : Nat) (pc : W64) (kind : Nat) (acc : Nat) (use : Bool) (a : Int)
    (n at' : Nat) : Bool × State :=
  if kind != 0 then
    match s.padKey b (padOf kind) a n with
    | none => (false, s)
    | some k =>
      let p := tgetD s.poison (k / 16) 0
      if use && p != 0 then (false, s.poisoned (b.chainWho uid 4 pc) (k % 2 ^ 64) (p - 1))
      else (true, (s.give (some op) at' (s.rdN b.ctx k n)).taint (some op) p)
  else
    match s.translate b.coreNo (b.chainWho uid 4 pc) permRd [⟨0xFF, a.toNat, n⟩] with
    | .error s => (false, s)
    | .ok ras =>
      let ra := ras.headD 0
      let rt := reqOfAcc acc
      let r := { b.engineReq uid (if use then .engineUse else .engineRead) rt (isWide (scopeOfAcc acc)) a.toNat ra n op with at' := at' }
      let (s, wait) := s.prepare b.coreNo (rt == .nc) [r]
      if wait then (false, s) else (true, (s.opMore (some op)).loadPiece b.coreNo r)

/-- R165, R350: one piece written by an engine; false where it has still to wait. Scratchpad writes set full-empty bits. -/
def State.engineWrite (s : State) (uid : Nat) (b : Block) (op : Nat) (pc : W64) (kind : Nat) (acc : Nat) (a : Int) (bs : List Byte)
    (poison : Nat) : Bool × State :=
  if kind != 0 then
    match s.padKey b (padOf kind) a bs.length with
    | none => (false, s)
    | some k =>
      let s := s.putBytes b.ctx (bytesAt k bs)
      let s := if poison != 0 then { s with poison := tset s.poison (k / 16) poison } else s
      (true, (s.setFull true (granules k bs.length)).wakeFull)
  else
    match s.translate b.coreNo (b.chainWho uid 5 pc) permWr [⟨0xFF, a.toNat, bs.length⟩] with
    | .error s => (false, s)
    | .ok ras =>
      let ra := ras.headD 0
      let s := s.dropLine b.coreNo (ra / 128) none
      if s.unlanded b.coreNo ra bs.length then (false, s)
      else
        let (rd, s) := s.countSent (some b.coreNo)
        let r := { b.engineReq uid .engineWrite .nc (isWide (scopeOfAcc acc)) a.toNat ra bs.length op with
          bytes := bytesAt ra bs, round := rd, poison := poison }
        (true, (s.opMore (some op)).serve r)

/-! ### Entries at work -/

/-- R351: a row's image: e4m3 elements, block scales, padding, and the trailer. -/
def rowImage (words : List Nat) : List Byte :=
  let e := words.length
  let nb := (e + 31) / 32
  let blocks := (List.range nb).map fun k => quantBlock ((List.range 32).map fun j => words.getD (32 * k + j) 0)
  let els := blocks.flatMap fun x => x.2.1
  let scs := blocks.map fun x => x.1
  let pad := rowOut true (4 * e) - 16 - 33 * nb
  (els.map fun x => BitVec.ofNat 8 x) ++ (scs.map fun x => BitVec.ofNat 8 x) ++ List.replicate pad 0 ++
    natLe 4 e ++ natLe 1 (if blocks.any fun x => x.2.2 then 1 else 0) ++ List.replicate 11 0

/-- The 32-bit words of a table of bytes. -/
def gotWords (t : Tab Byte) (n : Nat) : List Nat :=
  (List.range n).map fun i => leNat ((List.range 4).map fun j => tgetD t (4 * i + j) 0)

/-- R350: one step of a COPY: the present piece read, or, once it is read, written; false where it waits. -/
def State.copyPiece (s : State) (uid slot : Nat) (b : Block) (ch : Chain) (bs : List Byte) : Bool × State :=
  let acc := efld bs 3 1
  let src := (efld bs 8 8 : Int) + ch.os + esig bs 28 4 * ch.row + 16 * ch.piece
  let dst := (efld bs 16 8 : Int) + ch.od + esig bs 32 4 * ch.row + 16 * ch.piece
  let got := s.chainGot ch
  if got.isEmpty then
    if ch.reading then (false, s)
    else
      match s.engineRead uid b ch.op ch.word (efld bs 1 1) acc false src 16 0 with
      | (false, s) => (false, s)
      | (true, s) =>
        let s := s.modChain uid slot fun c => { c with reading := true }
        (!(s.chainGot ch).isEmpty, s)
  else
    match s.engineWrite uid b ch.op ch.word (efld bs 2 1) acc dst ((List.range 16).map fun j => tgetD got j 0) (s.chainBad ch) with
    | (false, s) => (false, s)
    | (true, s) =>
      let last := decide (efld bs 24 4 / 16 ≤ ch.piece + 1)
      (true, (s.setGot ch []).modChain uid slot fun c =>
        { c with reading := false, piece := if last then 0 else c.piece + 1, row := if last then c.row + 1 else c.row })

/-- R350, R351: one step of a QUANT: the row's pieces read, then its image's pieces written. -/
def State.quantPiece (s : State) (uid slot : Nat) (b : Block) (ch : Chain) (bs : List Byte) : Bool × State :=
  let acc := efld bs 3 1
  let rb := efld bs 24 4
  let n := rb / 16
  let src := (efld bs 8 8 : Int) + ch.os + esig bs 28 4 * ch.row
  let dst := (efld bs 16 8 : Int) + ch.od + esig bs 32 4 * ch.row
  let got := s.chainGot ch
  if ch.piece < n then
    if ch.reading then
      if (tget? got (16 * ch.piece)).isSome then (true, s.modChain uid slot fun c => { c with reading := false, piece := c.piece + 1 })
      else (false, s)
    else match s.engineRead uid b ch.op ch.word (efld bs 1 1) acc true (src + 16 * ch.piece) 16 (16 * ch.piece) with
      | (false, s) => (false, s)
      | (true, s) => (true, s.modChain uid slot fun c => { c with reading := true })
  else
    let img := rowImage (gotWords got (rb / 4))
    let j := ch.piece - n
    match s.engineWrite uid b ch.op ch.word (efld bs 2 1) acc (dst + 16 * j) ((img.drop (16 * j)).take 16) 0 with
    | (false, s) => (false, s)
    | (true, s) =>
      let last := decide (rowOut true rb ≤ 16 * (j + 1))
      (true, (if last then s.setGot ch [] else s).modChain uid slot fun c =>
        { c with piece := if last then 0 else c.piece + 1, row := if last then c.row + 1 else c.row })

/-- Pieces one after another until the entry's rows are done or one waits. R359: none begins while the block is being saved. -/
def State.rowsOf (s : State) (uid slot : Nat) (quant : Bool) : Nat → State
  | 0 => s
  | fuel + 1 =>
    match s.chain? uid slot with
    | none => s
    | some (b, ch) =>
      match s.entryBytes b ch with
      | none => s
      | some bs =>
        if b.saving.isSome && !ch.reading then s
        else if efld bs 4 4 ≤ ch.row then s.chainTo uid slot (ch.idx + 1)
        else match (if quant then s.quantPiece uid slot b ch bs else s.copyPiece uid slot b ch bs) with
          | (true, s) => rowsOf s uid slot quant fuel
          | (false, s) => s

/-- R349, R350: a COPY or QUANT entry. -/
def State.copyEntry (s : State) (uid slot : Nat) (b : Block) (ch : Chain) (bs : List Byte) (quant : Bool) : State :=
  if ch.row = 0 ∧ ch.piece = 0 ∧ !ch.reading ∧ !b.copyOk ch bs quant then s.stopChain uid slot 1
  else s.rowsOf uid slot quant (efld bs 4 4 * (efld bs 24 4 / 4 + 16) + 2)

/-- R350: a LOOP entry. -/
def State.loopEntry (s : State) (uid slot : Nat) (b : Block) (ch : Chain) (bs : List Byte) : State :=
  let n := tgetD ch.counts ch.idx 0
  let cnt := efld bs 8 4
  if !loopOk ch bs || (decide (cnt ≤ n) && !b.entryIn ch (ch.idx + 1)) then s.stopChain uid slot 1
  else if n < cnt then
    (s.modChain uid slot fun c =>
      { c with counts := tset c.counts c.idx (n + 1), os := c.os + esig bs 16 8, od := c.od + esig bs 24 8 }).chainTo uid slot
        (efld bs 4 2)
  else
    (s.modChain uid slot fun c =>
      { c with counts := tset c.counts c.idx 0, os := c.os - cnt * esig bs 16 8, od := c.od - cnt * esig bs 24 8 }).chainTo uid slot
        (ch.idx + 1)

/-- R350: a COND entry: the word is read as .nc; a condition that holds acquires. -/
def State.condEntry (s : State) (uid slot : Nat) (b : Block) (ch : Chain) (bs : List Byte) : State :=
  if !condOk ch bs then s.stopChain uid slot 1
  else if ch.expired && efld bs 4 1 == 0 && efld bs 32 4 != 0 then s.stopChain uid slot 2
  else
    let got := s.chainGot ch
    if got.isEmpty then
      if ch.reading then s
      else match s.engineRead uid b ch.op ch.word 0 3 true (efld bs 8 8) 8 0 with
        | (false, s) => s
        | (true, s) => s.modChain uid slot fun c => { c with reading := true }
    else
      let w := leNat ((List.range 8).map fun j => tgetD got j 0)
      let m := efld bs 24 8
      let holds := waitCond (efld bs 5 1) (Nat.land w m) (Nat.land (efld bs 16 8) m)
      let s := (s.setGot ch []).modChain uid slot fun c => { c with reading := false }
      let next := if efld bs 4 1 = 1 ∧ holds then efld bs 6 2 else ch.idx + 1
      if efld bs 4 1 = 0 ∧ !holds then s.modChain uid slot fun c => { c with waits := true }
      else if !b.entryIn ch next then s.stopChain uid slot 1
      else
        let s := if holds && isWide (scopeOfAcc (efld bs 3 1)) then s.dropShared b.coreNo else s
        s.chainTo uid slot next

/-- R350: a SIGNAL entry: once every earlier write of the chain has landed, a 64-bit atomic at the word's home. -/
def State.signalEntry (s : State) (uid slot : Nat) (b : Block) (ch : Chain) (bs : List Byte) : State :=
  if !signalOk bs || !b.entryIn ch (ch.idx + 1) then s.stopChain uid slot 1
  else if !s.chainLanded ch then s
  else
    let va := efld bs 8 8
    match s.translate b.coreNo (b.chainWho uid 5 ch.word) (permRd ||| permWr ||| permAt) [⟨0xFF, va, 8⟩] with
    | .error s => s
    | .ok ras =>
      let ra := ras.headD 0
      let s := s.dropLine b.coreNo (ra / 128) none
      if s.unlanded b.coreNo ra 8 then s
      else
        let (rd, s) := s.countSent (some b.coreNo)
        let r := { b.engineReq uid .engineWrite .nc true va ra 8 ch.op with
          at' := 2 ^ 20, round := rd, aop := some ⟨if efld bs 4 1 = 0 then .exch else .add, 8, efld bs 16 8, 0⟩ }
        ((s.opMore (some ch.op)).serve r).chainTo uid slot (ch.idx + 1)

/-- R350: END, or an entry of no kind. -/
def State.endEntry (s : State) (uid slot : Nat) (ch : Chain) (bs : Option (List Byte)) : State :=
  match bs with
  | none => s.stopChain uid slot 1
  | some bs => if bs.any (· != 0) then s.stopChain uid slot 1 else if s.chainLanded ch then s.stopChain uid slot 0 else s

/-- A chain moved on where its present entry is of the kind named; another kind is left to its own event. R359: while its block is being
saved it only finishes the piece that it has begun. -/
def State.chainStep (s : State) (uid slot kind : Nat) : State :=
  match s.chain? uid slot with
  | none => s
  | some (b, ch) =>
    if b.saving.isSome && !ch.reading then s
    else match s.entryBytes b ch with
    | none => if kind = 0 then s.endEntry uid slot ch none else s
    | some bs =>
      let k := if 5 < efld bs 0 1 then 0 else efld bs 0 1
      if k ≠ kind then s
      else match s.entryPoison b ch with
        | some (loc, store) => s.poisoned (b.chainWho uid 4 ch.word) loc store
        | none =>
          let s := s.latch uid slot bs
          match kind with
          | 1 => s.copyEntry uid slot b ch bs false
          | 2 => s.copyEntry uid slot b ch bs true
          | 3 => s.loopEntry uid slot b ch bs
          | 4 => s.condEntry uid slot b ch bs
          | 5 => s.signalEntry uid slot b ch bs
          | _ => s.endEntry uid slot ch (some bs)

/-- R350: COPY. -/
def execCopy (uid slot : Nat) (s : State) : Out := .next (s.chainStep uid slot 1)
/-- R350, R351: QUANT. -/
def execQuant (uid slot : Nat) (s : State) : Out := .next (s.chainStep uid slot 2)
/-- R350: LOOP. -/
def execLoop (uid slot : Nat) (s : State) : Out := .next (s.chainStep uid slot 3)
/-- R350: COND. -/
def execCond (uid slot : Nat) (s : State) : Out := .next (s.chainStep uid slot 4)
/-- R350: SIGNAL. -/
def execSignal (uid slot : Nat) (s : State) : Out := .next (s.chainStep uid slot 5)
/-- R348, R350: CHAIN_END. -/
def execChainEnd (uid slot : Nat) (s : State) : Out := .next (s.chainStep uid slot 0)

/-- R350: COND_REEVALUATE: the word is read again; `expired` says that the entry's TIMEOUT has passed first. -/
def execCondReevaluate (uid slot : Nat) (expired : Bool) (s : State) : Out :=
  .next ((s.modChain uid slot fun c => { c with expired := c.expired || expired, waits := false }).chainStep uid slot 4)

/-- The event that moves a running chain on, by its present entry. -/
def State.chainEvent (s : State) (uid slot : Nat) : Option Instr :=
  match s.chain? uid slot with
  | none => none
  | some (b, ch) =>
    match s.entryBytes b ch with
    | none => some (.chainEnd uid slot)
    | some bs =>
      match efld bs 0 1 with
      | 1 => some (.copy uid slot)
      | 2 => some (.quant uid slot)
      | 3 => some (.loop uid slot)
      | 4 => some (.cond uid slot)
      | 5 => some (.signal uid slot)
      | _ => some (.chainEnd uid slot)

/-! ### The instructions -/

/-- R348: CHAIN. A slot whose chain still runs makes it wait. -/
def execChain (l : Lat) (a : SReg) (slot : Nib) (s : State) : Out :=
  seqGate l [a] (fun h s =>
    let off := (h.get a).toNat
    let busy := match tget? h.b.chains slot.val with | some ch => ch.running | none => false
    if off % 64 != 0 || decide (h.b.rcd.scratch ≤ off) then s.seqIllegal h
    else if busy then s.seqBlock h .engine
    else
      let (id, s) := s.openSeqOp h l (.chain slot.val) [] 1
      let ch : Chain :=
        { base := off, idx := 0, counts := [], os := 0, od := 0, row := 0, piece := 0, running := true, status := 0, op := id
          expired := false, reading := false, word := h.run.va }
      s.modBlock h.uid fun b => { b with chains := tset b.chains slot.val ch }) s

/-- R348: the status that CWAIT.all writes: 0, or that of the lowest slot that is not DONE. -/
def allStatus (chs : Tab Chain) : W64 :=
  match chs.find? fun kv => kv.2.status.toNat % 256 != 0 with
  | some kv => kv.2.status
  | none => 0

/-- R348: CWAIT. A slot that was never used reads DONE. -/
def execCwait (l : Lat) (all : Bool) (d : SReg) (slot : Nib) (s : State) : Out :=
  seqGate l [d] (fun h s =>
    if all then
      if h.b.chains.any fun kv => kv.2.running then s.seqBlock h .engine else s.seqDone h l [(d.val, allStatus h.b.chains)]
    else match tget? h.b.chains slot.val with
      | none => s.seqDone h l [(d.val, BitVec.ofNat 64 (slot.val * 2 ^ 12))]
      | some ch => if ch.running then s.seqBlock h .engine else s.seqDone h l [(d.val, ch.status)]) s

end Sys2Proof.Machine
end

