-- ==== Sys2Proof/Machine/Matrix.lean ====
section
/-! DEFINITION. The matrix engine (R361 to R371, R193 to R197): pins, exact chunk sums and promotions, tiles. Drains are with the
stream accumulator. -/

namespace Sys2Proof.Machine

open Sys2Proof

/-! ### Tiles and pins a block holds -/

def Block.holdsTile (b : Block) (z : Nat) : Bool := decide (z < 8) && bit b.zheld z
/-- R364: two pins for each tile held. -/
def Block.pinCount (b : Block) : Nat := 2 * ((List.range 8).filter (bit b.zheld)).length

/-- Whether an operation of a block with the named end is under way. -/
def State.under (s : State) (uid : Nat) (p : Fin' → Bool) : Bool := s.ops.any fun kv => kv.2.uid == uid && p kv.2.fin

/-- An operation that has still to read or write tiles. -/
def Fin'.onTiles : Fin' → Bool
  | .tile _ | .drainPad _ | .drainMem _ | .drainRow .. => true
  | _ => false

/-- R362: a matrix instruction takes effect behind the earlier ones of its block: it waits for tiles still on their way. -/
def matGate (l : Lat) (rs : List SReg) (k : SHere → State → State) (s : State) : Out :=
  seqGate l rs (fun h s => if s.under h.uid Fin'.onTiles then s.waits else k h s) s

/-! ### Fetching and releasing pins -/

/-- R365: TFETCH. -/
def execTfetch (l : Lat) (rt : ReqTy) (sc : Scope) (pin : Nib) (a b : SReg) (s : State) : Out :=
  matGate l [a, b] (fun h s =>
    let core := h.b.coreNo
    let sA := h.get a
    let sB := h.get b
    let ts := (List.range 128).map fun r => (⟨0xFF, (sA + BitVec.ofNat 64 r * sB).toNat, 128⟩ : Touch)
    if sA.toNat % 128 != 0 || sB.toNat % 128 != 0 || decide (2 ^ 32 ≤ sB.toNat) || decide (h.b.pinCount ≤ pin.val) ||
        ts.any (fun t => highVa t.va) then s.seqIllegal h
    else if s.under h.uid fun f => f == .pin pin.val then s.waits
    else match s.translate core (h.who 4) permRd ts with
      | .error s' => s'
      | .ok ras =>
        let rs := ((List.range 128).zip (ts.zip ras)).map fun x =>
          { h.req .engineRead rt (isWide sc) x.2.1 x.2.2 with at' := 128 * x.1 }
        let (s, wait) := s.prepare core (rt == .nc) rs
        if wait then s.waits
        else
          let (id, s) := s.openSeqOp h l (.pin pin.val) [] 128
          let s := s.modBlock h.uid fun b => { b with pins := tset b.pins pin.val ⟨[], 0, false⟩ }
          rs.foldl (fun s r => s.loadPiece core { r with op := some id }) s) s

/-- R365: TREL. -/
def execTrel (l : Lat) (all : Bool) (pin : Nib) (s : State) : Out :=
  seqGate l [] (fun h s =>
    if !all && decide (h.b.pinCount ≤ pin.val) then s.seqIllegal h
    else (s.modBlock h.uid fun b => { b with pins := if all then [] else tdel b.pins pin.val }).seqDone h l []) s

/-! ### Chunks and promotion -/

/-- R366: the shape of a matrix multiply: operand formats, elements (or complex elements) of a chunk, fraction width. -/
structure MmaShape where
  fa : Fmt
  fb : Fmt
  chunk : Nat
  w : Nat
  cplx : Bool
  deriving DecidableEq, Repr

/-- R193: CHUNK of the products that are finite: their exact sum after truncation to the chunk's grid. -/
def chunkSum (w : Nat) (ps : List Dyadic) : Dyadic :=
  let f := ps.filter fun p => p.m != 0
  match f with
  | [] => ⟨0, 0⟩
  | p :: t =>
    let top := fun (x : Dyadic) => (Nat.log2 x.m.natAbs : Int) + x.e
    let u := t.foldl (fun m x => max m (top x)) (top p) - w
    let cut := fun (x : Dyadic) =>
      let n := if u ≤ x.e then x.m.natAbs * 2 ^ (x.e - u).toNat else x.m.natAbs / 2 ^ (u - x.e).toNat
      if x.m < 0 then -(n : Int) else n
    ⟨f.foldl (fun a x => a + cut x) 0, u⟩

/-- R194, R195: acc + S x sa x sw, rounded once; `acc` is no NaN and S is not zero. -/
def promote (acc : Nat) (S : Fp) (scales : List Nat) : Res :=
  nanFirst .f32 scales fun _ =>
    let t := scales.foldl (fun (t : Term) x => match t with | none => none | some y => mulTerm y (Fmt.decode .f32 x)) (some S)
    match t with
    | none => (Fmt.genNan .f32, Flg.nv)
    | some y =>
      let x := Fmt.decode .f32 acc
      if x.isInf && y.isInf && x.sign != y.sign then (Fmt.genNan .f32, Flg.nv)
      else if x.isInf then (acc, 0)
      else if y.isInf then (Fmt.withSign .f32 y.sign (Fmt.infCode .f32), 0)
      else roundDy .f32 .rne false false (x.dy.add y.dy)

/-- R193: the exact products of a chunk; for complex operands those of the real or of the imaginary part. -/
def products (cplx im : Bool) : List Fp → List Fp → List Term
  | a :: a' :: as, b :: b' :: bs =>
    (if !cplx then [mulTerm a b, mulTerm a' b']
     else if im then [mulTerm a b', mulTerm a' b]
     else [mulTerm a b, mulTerm a'.neg b']) ++ products cplx im as bs
  | _, _ => []

/-- R195, R366: one chunk of one element. -/
def chunkStep (sh : MmaShape) (im : Bool) (scales : List Nat) (acc : Res) (as bs : List Fp) : Res :=
  match Fmt.decode .f32 acc.1 with
  | .nan _ _ sn => (Fmt.quiet .f32 acc.1, acc.2 ||| Flg.when sn Flg.nv)
  | _ =>
    let bad := (Fmt.genNan .f32, acc.2 ||| Flg.nv)
    if (as ++ bs).any Fp.isNan then (Fmt.genNan .f32, acc.2)
    else
      let ps := products sh.cplx im as bs
      let xs := ps.filterMap id
      let up := xs.any fun x => x.isInf && !x.sign
      let dn := xs.any fun x => x.isInf && x.sign
      if ps.any Option.isNone || (up && dn) then bad
      else
        let go := fun (S : Fp) => let r := promote acc.1 S scales; (r.1, acc.2 ||| r.2)
        if up || dn then go (.inf dn)
        else
          let S := chunkSum sh.w (xs.map Fp.dy)
          if S.m = 0 then acc else go (.fin (decide (S.m < 0)) S.m.natAbs S.e)

/-- R193, R197: one element over all chunks, in ascending K. -/
def mmaElem (sh : MmaShape) (im : Bool) (scales : List Nat) (acc : Nat) (a b : List Fp) : Res :=
  let n := if sh.cplx then 2 * sh.chunk else sh.chunk
  (List.range (a.length / n)).foldl (fun r c => chunkStep sh im scales r ((a.drop (n * c)).take n) ((b.drop (n * c)).take n))
    (acc, 0)

/-! ### Operands -/

/-- The bytes of a format. -/
def fmtBytes (t : Fmt) : Nat := (t.x + t.f + 1) / 8

/-- R363: a row or column of 128 bytes as values. -/
def rowFps (t : Fmt) (bs : List Byte) : List Fp :=
  (List.range (128 / fmtBytes t)).map fun k => t.decode (leNat ((bs.drop (fmtBytes t * k)).take (fmtBytes t)))

/-- What reading an operand finds. -/
inductive Operand where
  | rows (bs : List (List Byte))
  | wait
  | bad
  | poison (loc store : Nat)
  deriving DecidableEq, Repr

/-- R146, R148: the memory keys of 128 rows of `n` bytes in a scratchpad, or none where one is out of bounds. -/
def State.padRows (s : State) (b : Block) (p : Pad) (loc pitch n : Nat) : Option (List Nat) :=
  let ks := (List.range 128).map fun r => s.padKey b p ((loc + r * pitch : Nat) : Int) n
  if ks.any Option.isNone then none else some (ks.filterMap id)

/-- R363, R365, R368: an operand read as its descriptor names it. -/
def State.operand (s : State) (b : Block) (d : W64) : Operand :=
  let sp := d.toNat / 2 ^ 62
  let pitch := d.toNat / 2 ^ 32 % 2 ^ 16
  let loc := d.toNat % 2 ^ 32
  if d.toNat / 2 ^ 48 % 2 ^ 14 ≠ 0 then .bad
  else if sp = 1 then
    if pitch ≠ 0 ∨ 16 ≤ loc ∨ b.pinCount ≤ loc then .bad
    else match tget? b.pins loc with
      | none => .bad
      | some p =>
        if !p.ready then .wait
        else if p.poison != 0 then .poison 0 (p.poison - 1)
        else .rows ((List.range 128).map fun r => (List.range 128).map fun j => tgetD p.bytes (128 * r + j) 0)
  else if sp = 3 ∨ pitch % 16 ≠ 0 ∨ pitch < 128 ∨ loc % 16 ≠ 0 then .bad
  else match s.padRows b (if sp = 0 then .core else .chip) loc pitch 128 with
    | none => .bad
    | some ks =>
      match s.rowsPoison ks 128 with
      | some (a, st) => .poison a st
      | none => .rows (ks.map fun k => s.rdN b.ctx k 128)

/-! ### Rotated redundant issue of the array -/

/-- Array rows of a core's matrix engine are numbered from 32 among its defects, behind its lanes. -/
def arrayRow (r : Nat) : Nat := 32 + r

/-- R105, R369: the lowest row whose two issues disagree. -/
def rowMismatch (ds : List Defect) : Option Nat :=
  (List.range 128).find? fun r => (ds.any fun d => d.lane == arrayRow r) != ds.any fun d => d.lane == arrayRow ((r + 1) % 128)

/-- R369: the record of a mismatch of rows. -/
def rowRec (code : Nat) (h : SHere) (st row : Nat) (matched : Bool) : ErrRec :=
  { code := code, exact := true, redun := true, ctx := h.b.ctx, die := h.b.die, core := h.b.coreNo % 128, warp := 0xFE
    pc := h.run.va, stamp := st
    body := natLe 8 h.run.word.toNat ++ natLe 4 0 ++ natLe 2 row ++ natLe 1 (if matched then 1 else 0) ++ natLe 17 0
    keep := code == 0x15 }

/-- R369: both issues of a multiply compared before the tile is written. -/
def State.rowsCompared (s : State) (h : SHere) : Except State State :=
  let redun := match tget? s.ctxs h.b.ctx with | some c => c.redun | none => false
  let ds := (defectsOf s h.b).filter fun d => decide (32 ≤ d.lane) && decide (d.lane < 160)
  if !redun then .ok s
  else match rowMismatch ds with
    | none => .ok s
    | some row =>
      let d := h.b.die
      let c := h.b.coreNo % 128
      let s := { s with defects := s.defects.filter fun x => !(x.die == d && x.core == c && !x.sticky && decide (32 ≤ x.lane) && decide (x.lane < 160)) }
      let (st, s) := s.readCycles d
      match rowMismatch (ds.filter Defect.sticky) with
      | none => .ok (s.record (rowRec 0x14 h st row true))
      | some row' => .error (((s.record (rowRec 0x15 h st row' false)).quarantineCore d c).lose h.b.ctx 0x15)

/-- Without redundant issue, a row that a faulty array row computes has wrong bits (which is open). -/
def State.spoilTile (s : State) (h : SHere) (row : Nat) (v : W32) : W32 :=
  let redun := match tget? s.ctxs h.b.ctx with | some c => c.redun | none => false
  if !redun && (defectsOf s h.b).any fun d => d.lane == arrayRow row then v ^^^ Config.faultyResult (s.fresh + row) else v

/-! ### Multiplies -/

/-- R366: the elements of one tile after a multiply, row by row, with the flags raised. -/
def Block.multiply (b : Block) (sh : MmaShape) (im z : Bool) (zd : Nat) (A B : List (List Fp)) (scales : Nat → List Nat) :
    List Res :=
  ((List.range 128).zip A).flatMap fun ia =>
    let old := trange b.tiles (tileKey zd ia.1 0) (tileKey zd (ia.1 + 1) 0)
    ((List.range 128).zip B).map fun nb =>
      mmaElem sh im (scales ia.1) (if z then 0 else (tgetD old (tileKey zd ia.1 nb.1) 0).toNat) ia.2 nb.2

/-- R103: a tile that holds poison is read: consumption. -/
def State.badTile (s : State) (h : SHere) (z : Nat) : State := s.poisoned (h.b.engineWho h.uid 4 h.run.va) (z * 65536) 8

/-- A tile written with results. -/
def State.putTile (s : State) (h : SHere) (z : Nat) (rs : List Res) : State :=
  s.modBlock h.uid fun b =>
    let b := b.setTile z fun e => s.spoilTile h (e / 128) (BitVec.ofNat 32 (rs.getD e (0, 0)).1)
    { b with seq := b.seq.orFlags (rs.foldl (fun f r => f ||| r.2) 0) }

/-- R366 to R369: a multiply. `ok` is what the form needs of its tiles and window. -/
def multiply (l : Lat) (sh : MmaShape) (z : Bool) (zd : ZReg) (a b : SReg) (ok : Block → Bool) (scales : Block → Nat → List Nat)
    (s : State) : Out :=
  matGate l [a, b] (fun h s =>
    if !ok h.b || !h.b.holdsTile zd.val || (sh.cplx && !h.b.holdsTile (zd.val + 1)) then s.seqIllegal h
    else if !z && (bit h.b.tileBad zd.val || (sh.cplx && bit h.b.tileBad (zd.val + 1))) then s.badTile h zd.val
    else match s.operand h.b (h.get a), s.operand h.b (h.get b) with
      | .bad, _ => s.seqIllegal h
      | _, .bad => s.seqIllegal h
      | .wait, _ => s.waits
      | _, .wait => s.waits
      | .poison x st, _ => s.poisoned (h.b.engineWho h.uid 4 h.run.va) x st
      | _, .poison x st => s.poisoned (h.b.engineWho h.uid 4 h.run.va) x st
      | .rows ra, .rows rb =>
        match s.rowsCompared h with
        | .error s' => s'
        | .ok s =>
          let A := ra.map (rowFps sh.fa)
          let B := rb.map (rowFps sh.fb)
          let s1 := s.putTile h zd.val (h.b.multiply sh false z zd.val A B (scales h.b))
          let s2 := if sh.cplx then s1.putTile h (zd.val + 1) (h.b.multiply sh true z (zd.val + 1) A B (scales h.b)) else s1
          s2.seqDone h l []) s

/-- R366: MMA and MMAC have scales of 1. -/
def noScales (_ : Block) (_ : Nat) : List Nat := []

/-- R366: MMA.bf16. -/
def execMmaBf16 (l : Lat) (z : Bool) (zd : ZReg) (a b : SReg) (s : State) : Out :=
  multiply l ⟨.bf16, .bf16, 64, 48, false⟩ z zd a b (fun _ => true) noScales s
/-- R366: MMA.f16. -/
def execMmaF16 (l : Lat) (z : Bool) (zd : ZReg) (a b : SReg) (s : State) : Out :=
  multiply l ⟨.f16, .f16, 64, 48, false⟩ z zd a b (fun _ => true) noScales s
/-- R366: MMA.f32. -/
def execMmaF32 (l : Lat) (z : Bool) (zd : ZReg) (a b : SReg) (s : State) : Out :=
  multiply l ⟨.f32, .f32, 8, 64, false⟩ z zd a b (fun _ => true) noScales s
/-- R186, R366: MMAC.cf32, over an even pair of tiles. -/
def execMmacCf32 (l : Lat) (z : Bool) (zd : ZReg) (a b : SReg) (s : State) : Out :=
  multiply l ⟨.f32, .f32, 8, 64, true⟩ z zd a b (fun _ => zd.val % 2 == 0) noScales s

/-- R196: a word of the scale window, of warp 0. -/
def Block.windowWord (b : Block) (vw j : Nat) : Nat :=
  match tget? b.warps 0 with
  | some w => (w.reg (8 * vw + j / 32) (j % 32)).toNat
  | none => 0

/-- R196: the scales of a row under SEL. -/
def mmasScales (sel : BitVec 8) (vw : Fin 32) (b : Block) (i : Nat) : List Nat :=
  let ah := if bit sel 7 then 1 else 0
  [b.windowWord vw.val (128 * ah + i), b.windowWord vw.val (128 * (1 - ah) + sel.toNat % 128)]

/-- R196, R367: MMAS over one pair of formats. -/
def mmas (fa fb : Fmt) (l : Lat) (z : Bool) (zd : ZReg) (a b : SReg) (sel : BitVec 8) (vw : Fin 32) (s : State) : Out :=
  multiply l ⟨fa, fb, 128, 64, false⟩ z zd a b (fun b => decide (vw.val < b.rcd.vregs)) (mmasScales sel vw) s

/-- R366: MMAS.e4m3.e4m3. -/
def execMmasE4m3E4m3 (l : Lat) (z : Bool) (zd : ZReg) (a b : SReg) (sel : BitVec 8) (vw : Fin 32) (s : State) : Out :=
  mmas .e4m3 .e4m3 l z zd a b sel vw s
/-- R366: MMAS.e4m3.e5m2. -/
def execMmasE4m3E5m2 (l : Lat) (z : Bool) (zd : ZReg) (a b : SReg) (sel : BitVec 8) (vw : Fin 32) (s : State) : Out :=
  mmas .e4m3 .e5m2 l z zd a b sel vw s
/-- R366: MMAS.e5m2.e4m3. -/
def execMmasE5m2E4m3 (l : Lat) (z : Bool) (zd : ZReg) (a b : SReg) (sel : BitVec 8) (vw : Fin 32) (s : State) : Out :=
  mmas .e5m2 .e4m3 l z zd a b sel vw s
/-- R366: MMAS.e5m2.e5m2. -/
def execMmasE5m2E5m2 (l : Lat) (z : Bool) (zd : ZReg) (a b : SReg) (sel : BitVec 8) (vw : Fin 32) (s : State) : Out :=
  mmas .e5m2 .e5m2 l z zd a b sel vw s

/-! ### Tiles cleared, loaded and stored -/

/-- R370: a tile of +0. -/
def Block.clearTile (b : Block) (z : Nat) : Block :=
  { b with tiles := tclear b.tiles (tileKey z 0 0) (tileKey (z + 1) 0 0), tileBad := b.tileBad &&& ~~~BitVec.ofNat 8 (2 ^ z)
           tilePoison := tclear b.tilePoison (z * 4096) (z * 4096 + 4096) }

/-- R370: ZCLR. -/
def execZclr (l : Lat) (zd : ZReg) (s : State) : Out :=
  matGate l [] (fun h s =>
    if !h.b.holdsTile zd.val then s.seqIllegal h
    else (s.modBlock h.uid fun b => b.clearTile zd.val).seqDone h l []) s

/-- R370: address and pitch of ZLD and ZST. -/
def tileMoveOk (a p : W64) : Bool :=
  a.toNat % 16 == 0 && p.toNat % 16 == 0 && decide (512 ≤ p.toNat) && decide (p.toNat ≤ 2 ^ 20)

/-- The routed addresses of 128 rows. -/
def rowVas (a p : W64) : List Nat := (List.range 128).map fun r => (a + BitVec.ofNat 64 r * p).toNat

/-- The routed 16-byte pieces of 128 rows of `n` bytes, with the place of each in the tile's image. -/
def rowTouches (a p : W64) (n : Nat) : List (Touch × Nat) :=
  ((List.range 128).zip (rowVas a p)).flatMap fun rv =>
    (List.range (n / 16)).map fun k => (⟨0xFF, rv.2 + 16 * k, 16⟩, n * rv.1 + 16 * k)

/-- R361: the scratchpad of a space code. -/
def spacePad : Space → Option Pad
  | .sp => some .core
  | .cp => some .chip
  | _ => none

/-- R370: ZLD. -/
def execZld (l : Lat) (space : Space) (rt : ReqTy) (sc : Scope) (zd : ZReg) (a b : SReg) (s : State) : Out :=
  matGate l [a, b] (fun h s =>
    let core := h.b.coreNo
    if !h.b.holdsTile zd.val || !tileMoveOk (h.get a) (h.get b) then s.seqIllegal h
    else match spacePad space with
      | some p =>
        match s.padRows h.b p (h.get a).toNat (h.get b).toNat 512 with
        | none => s.seqIllegal h
        | some ks =>
          match s.rowsPoison ks 512 with
          | some (x, st) => s.poisoned (h.b.engineWho h.uid 4 h.run.va) x st
          | none =>
            let f := fun (e : Nat) => BitVec.ofNat 32 (leNat (s.rdN h.b.ctx (ks.getD (e / 128) 0 + 4 * (e % 128)) 4))
            (s.modBlock h.uid fun b => b.setTile zd.val f).seqDone h l []
      | none =>
        let ts := rowTouches (h.get a) (h.get b) 512
        if ts.any fun t => highVa t.1.va then s.seqIllegal h
        else match s.translate core (h.who 0) permRd (ts.map Prod.fst) with
          | .error s' => s'
          | .ok ras =>
            let rs := (ts.zip ras).map fun x => { h.req .load rt (isWide sc) x.1.1 x.2 with agent := .engine h.uid, at' := x.1.2 }
            let (s, wait) := s.prepare core (rt == .nc) rs
            if wait then s.waits
            else
              let (id, s) := s.openSeqOp h l (.tile zd.val) [] rs.length
              rs.foldl (fun s r => s.loadPiece core { r with op := some id }) s) s

/-- The bytes of a tile's rows, four an element, with each element changed by `f`. -/
def Block.tileBytes (b : Block) (z : Nat) (n : Nat) (f : W32 → Nat) : List (List Byte) :=
  (List.range 128).map fun i =>
    let row := trange b.tiles (tileKey z i 0) (tileKey z (i + 1) 0)
    (List.range 128).flatMap fun j => natLe n (f (tgetD row (tileKey z i j) 0))

/-- R350, R370, R379: pieces of a tile sent to routed memory; the core's copies of their lines are dropped. `bad` is each one's poison. -/
def State.tileOut (s : State) (h : SHere) (l : Lat) (who : Who) (acc : Acc) (wide : Bool) (ps : List (Touch × List Byte))
    (dests : List (Nat × W64)) (before : State → State) (bad : Nat → Nat := fun _ => 0) (fin : Fin' := .plain) : State :=
  let core := h.b.coreNo
  match s.translate core who permWr (ps.map Prod.fst) with
  | .error s' => s'
  | .ok ras =>
    let s := ras.foldl (fun (s : State) ra => s.dropLine core (ra / 128) none) s
    if ras.any fun ra => s.unlanded core ra 16 then s.waits
    else
      let (id, s) := (before s).openSeqOp h l fin dests ps.length
      ((ps.zip ras).zipIdx).foldl (fun (s : State) y =>
        let x := y.1
        let (rd, s) := s.countSent (some core)
        s.serve { h.req acc .nc wide x.1.1 x.2 with
          agent := who.agent, bytes := bytesAt x.2 x.1.2, round := rd, op := some id, poison := bad y.2 }) s

/-- Rows of bytes as 16-byte pieces at routed addresses. -/
def rowPieces (vas : List Nat) (rows : List (List Byte)) : List (Touch × List Byte) :=
  (vas.zip rows).flatMap fun vr =>
    (List.range (vr.2.length / 16)).map fun k => (⟨0xFF, vr.1 + 16 * k, 16⟩, (vr.2.drop (16 * k)).take 16)

/-- Rows of bytes written at scratchpad keys. -/
def State.putRows (s : State) (c : Nat) (ks : List Nat) (rows : List (List Byte)) : State :=
  (ks.zip rows).foldl (fun (s : State) x => s.putBytes c (bytesAt x.1 x.2)) s

/-- R103: the poison of a tile's granules, of 16 bytes each, written with them at scratchpad keys. -/
def State.padTaint (s : State) (b : Block) (z : Nat) (ks : List Nat) : State :=
  { s with poison := (trange b.tilePoison (z * 4096) (z * 4096 + 4096)).foldl (fun (t : Tab Nat) kv =>
      tset t ((ks.getD (kv.1 % 4096 / 32) 0 + 16 * (kv.1 % 32)) / 16) kv.2) s.poison }

/-- R370: ZST. The request type narrows nothing: the core's copies of the lines are dropped (R379). It moves bits, and their poison with
them (R103). -/
def execZst (l : Lat) (space : Space) (_rt : ReqTy) (sc : Scope) (zd : ZReg) (a b : SReg) (s : State) : Out :=
  matGate l [a, b] (fun h s =>
    if !h.b.holdsTile zd.val || !tileMoveOk (h.get a) (h.get b) then s.seqIllegal h
    else
      let rows := h.b.tileBytes zd.val 4 BitVec.toNat
      match spacePad space with
      | some p =>
        match s.padRows h.b p (h.get a).toNat (h.get b).toNat 512 with
        | none => s.seqIllegal h
        | some ks => ((s.putRows h.b.ctx ks rows).padTaint h.b zd.val ks).seqDone h l []
      | none =>
        let vas := rowVas (h.get a) (h.get b)
        if vas.any fun v => highVa v || highVa (v + 511) then s.seqIllegal h
        else s.tileOut h l (h.who 1) .store (isWide sc) (rowPieces vas rows) [] id fun i => tgetD h.b.tilePoison (zd.val * 4096 + i) 0) s

end Sys2Proof.Machine
end

