-- ==== Sys2Proof/Machine/Aes.lean ====
section
/-! DEFINITION. AES-256 (FIPS 197), XTS on a 128-byte line (IEEE 1619, R32) and CMAC (NIST SP 800-38B, R96). Bytes are numbers below
256; a block is sixteen of them, column by column. -/

namespace Sys2Proof.Machine.Aes

open Sys2Proof

/-! ### The field of bytes -/

/-- A byte times x, modulo x^8 + x^4 + x^3 + x + 1. -/
def xtime (a : Nat) : Nat := if a < 128 then 2 * a else (2 * a - 256) ^^^ 0x1B

/-- A product: `a` is taken for each bit of `b`, the lowest first, over `n` bits. -/
def gmul : Nat → Nat → Nat → Nat
  | 0, _, _ => 0
  | n + 1, a, b => (if b % 2 = 1 then a else 0) ^^^ gmul n (xtime a) (b / 2)

/-- A power of two of a byte: squared `n` times. -/
def sq : Nat → Nat → Nat
  | 0, a => a
  | n + 1, a => sq n (gmul 8 a a)

/-- The inverse of a byte: its power 254; 0 stays 0. -/
def inv (a : Nat) : Nat := ((List.range 7).map fun i => sq (i + 1) a).foldl (gmul 8) 1

/-- The substitution of a byte. -/
def sbox (a : Nat) : Nat :=
  let x := inv a
  let rot := fun (k : Nat) => (x * 2 ^ k) % 256 + x * 2 ^ k / 256
  x ^^^ rot 1 ^^^ rot 2 ^^^ rot 3 ^^^ rot 4 ^^^ 0x63

def xorN (a b : List Nat) : List Nat := (a.zip b).map fun p => p.1 ^^^ p.2

/-! ### The cipher -/

/-- The words of the key schedule, newest first, from the key's eight, until there are sixty: `n` are still to come, the next is word
`i`, `rc` is the next round constant. -/
def expand : Nat → Nat → Nat → List (List Nat) → List (List Nat)
  | 0, _, _, ws => ws
  | n + 1, i, rc, ws =>
    let t := ws.headD []
    let t' := if i % 8 = 0 then (xorN ((t.drop 1 ++ t.take 1).map sbox) [rc, 0, 0, 0]) else if i % 8 = 4 then t.map sbox else t
    expand n (i + 1) (if i % 8 = 0 then xtime rc else rc) (xorN (ws.getD 7 []) t' :: ws)

/-- The fifteen round keys of a key of thirty-two bytes. -/
def roundKeys (key : List Nat) : List (List Nat) :=
  let ws := (expand 52 8 1 (((List.range 8).map fun i => (key.drop (4 * i)).take 4).reverse)).reverse
  (List.range 15).map fun r => ((ws.drop (4 * r)).take 4).flatten

/-- The rows shifted: row r by r columns. -/
def shiftRows (b : List Nat) : List Nat := (List.range 16).map fun i => b.getD ((i + 4 * (i % 4)) % 16) 0

/-- The columns mixed. -/
def mixColumns (b : List Nat) : List Nat :=
  (List.range 16).map fun i =>
    let a := fun (k : Nat) => b.getD (i / 4 * 4 + (i + k) % 4) 0
    xtime (a 0) ^^^ (xtime (a 1) ^^^ a 1) ^^^ a 2 ^^^ a 3

/-- The rounds after the first key: all but the last mix. -/
def rounds : List (List Nat) → List Nat → List Nat
  | [], b => b
  | [k], b => xorN (shiftRows (b.map sbox)) k
  | k :: t, b => rounds t (xorN (mixColumns (shiftRows (b.map sbox))) k)

/-- A block encrypted under round keys. -/
def encrypt (ks : List (List Nat)) (b : List Nat) : List Nat := rounds (ks.drop 1) (xorN b (ks.headD []))

/-- The blocks of a message. -/
def blocks : Nat → List Nat → List (List Nat)
  | 0, _ => []
  | n + 1, m => if m.isEmpty then [] else m.take 16 :: blocks n (m.drop 16)

/-! ### XTS -/

/-- A tweak times alpha: its bytes are a number, the first the least significant. -/
def timesAlpha (t : List Nat) : List Nat :=
  let x := t.foldr (fun b n => b + 256 * n) 0
  let y := if x < 2 ^ 127 then 2 * x else (2 * x - 2 ^ 128) ^^^ 0x87
  (List.range 16).map fun i => y / 256 ^ i % 256

/-- The blocks of a data unit encrypted one after another. -/
def xtsBlocks (ks : List (List Nat)) : List Nat → List (List Nat) → List Nat
  | _, [] => []
  | t, b :: rest => xorN (encrypt ks (xorN b t)) t ++ xtsBlocks ks (timesAlpha t) rest

/-- R32: a line of 128 bytes encrypted with its routed address divided by 128 for tweak, under a data key and a tweak key. -/
def xtsLine (key tweakKey : List (List Nat)) (line : Nat) (bs : List Nat) : List Nat :=
  xtsBlocks key (encrypt tweakKey ((List.range 16).map fun i => line / 256 ^ i % 256)) (blocks 8 bs)

/-! ### CMAC -/

/-- A block doubled: its bytes are a number, the first the most significant. -/
def doubled (b : List Nat) : List Nat :=
  let x := b.foldl (fun n y => 256 * n + y) 0
  let y := if x < 2 ^ 127 then 2 * x else (2 * x - 2 ^ 128) ^^^ 0x87
  (List.range 16).map fun i => y / 256 ^ (15 - i) % 256

/-- The chain of blocks; the last is whole, or filled up with a one bit and zeros, and takes its subkey. -/
def chain (ks : List (List Nat)) (k1 k2 : List Nat) : List Nat → List (List Nat) → List Nat
  | c, [] => encrypt ks (xorN (xorN c (0x80 :: List.replicate 15 0)) k2)
  | c, [b] =>
    let last := if b.length = 16 then xorN b k1 else xorN (b ++ 0x80 :: List.replicate (15 - b.length) 0) k2
    encrypt ks (xorN c last)
  | c, b :: t => chain ks k1 k2 (encrypt ks (xorN c b)) t

/-- The tag of a message under a key of thirty-two bytes. -/
def cmac (key msg : List Nat) : List Nat :=
  let ks := roundKeys key
  let k1 := doubled (encrypt ks (List.replicate 16 0))
  chain ks k1 (doubled k1) (List.replicate 16 0) (blocks (msg.length / 16 + 1) msg)

/-! ### A page's tag -/

/-- Bytes of a key that a memory processor has drawn. -/
def drawn (f : Nat → Byte) (from' : Nat) : List Nat := (List.range 32).map fun i => (f (from' + i)).toNat

/-- R32, R96: the integrity tag of a page by its RA / 2^14: over its ciphertext and the page number as eight bytes. -/
def pageTag (keyNo page : Nat) (bytes : List Byte) : Nat :=
  let data := roundKeys (drawn (Config.xtsKey keyNo) 0)
  let tweak := roundKeys (drawn (Config.xtsKey keyNo) 32)
  let cipher := (List.range 128).flatMap fun i =>
    xtsLine data tweak (page * 128 + i) (((bytes.drop (128 * i)).take 128).map BitVec.toNat)
  ((cmac (drawn (Config.tagKey keyNo) 0) (cipher ++ (natLe 8 page).map BitVec.toNat)).take 8).foldl (fun n b => 256 * n + b) 0

end Sys2Proof.Machine.Aes
end

