-- ==== Sys2Proof/Machine/Routes.lean ====
section
/-! DEFINITION. Route engines and the Ifemer protocol (R9 to R11, R36 to R47, R397): neighbours, messages, the steps of an
engine that receives one, line locks, propagated stores, and held requests that go on. -/

namespace Sys2Proof.Machine

open Sys2Proof

/-! ### The package's links -/

/-- R9, R10: the Mortar edges: ten of the mesh and the two of the IOD (8). DESIGN CHOICE: their order here is their number, which the
spec does not give (notes/assumptions/90.md). -/
def edges : List (Nat × Nat) :=
  [(0, 1), (1, 2), (2, 3), (4, 5), (5, 6), (6, 7), (0, 4), (1, 5), (2, 6), (3, 7), (1, 8), (2, 8)]

def State.dieLive (s : State) (d : Nat) : Bool := d == 8 || (decide (d < 8) && bit s.pkg.livemap d && !bit s.pkg.outDies d)
/-- R12: an edge with a live sublink, both ends live. -/
def State.edgeUp (s : State) (i : Nat) : Bool :=
  match edges[i]? with
  | some (a, b) => tgetD s.pkg.retired i 0 != BitVec.allOnes 16 && s.dieLive a && s.dieLive b
  | none => false
/-- R21: a port that carries traffic. -/
def State.portUp (s : State) (p : Nat) : Bool := match tget? s.pkg.ports p with | some x => x.enabled && !x.down | none => false
def State.portCost (s : State) (p : Nat) : Nat := match tget? s.pkg.ports p with | some x => x.cost | none => 16

/-- R36, R54: whether a peer device can be reached. -/
def State.peerUp (s : State) (dev : Nat) : Bool := (List.range 18).any s.portUp && Config.peerReachable dev s.next

def hopOf (eng : Nat) : Hop := if eng = 8 then .iod else .die eng

/-- R43: the neighbours of an engine. -/
def State.neighbours (s : State) (eng : Nat) : List Hop :=
  let links := ((List.range 12).zip edges).filterMap fun ie =>
    if !s.edgeUp ie.1 then none
    else if ie.2.1 = eng then some (hopOf ie.2.2)
    else if ie.2.2 = eng then some (hopOf ie.2.1)
    else none
  links ++ if eng = 8 then ((List.range 18).filter s.portUp).map .port else []

/-- R43: the cost of the edge that a message arrives over. -/
def State.hopCost (s : State) : Hop → Nat
  | .port p => s.portCost p
  | .here => 0
  | _ => 1

/-- R10: hop counts from a die over live edges: those reached within `n` more steps. -/
def State.reach (s : State) (from' : List Nat) : Nat → List Nat
  | 0 => from'
  | n + 1 =>
    let next := from'.flatMap fun d => if d = 8 then [] else (s.neighbours d).filterMap fun h => match h with
      | .die k => some k
      | _ => none
    reach s ((from' ++ next).eraseDups) n
/-- R10: the hop count between two compute dies; 9 where there is no path. -/
def State.hops (s : State) (a b : Nat) : Nat := ((List.range 9).find? fun n => (s.reach [a] n).contains b).getD 9

/-- R54: the engines of this device to which live edges lead from one of them. -/
def State.side (s : State) (eng : Nat) : List Nat :=
  let gates := (s.neighbours 8).filterMap fun h => match h with | .die k => some k | _ => none
  let ds := s.reach (if eng = 8 then gates else [eng]) 8
  if eng = 8 ∨ ds.any gates.contains then 8 :: ds else ds
/-- R54: whether a path leads from one engine of this device to another. -/
def State.joined (s : State) (a b : Nat) : Bool := a == b || (List.range 12).all s.edgeUp || (s.side a).contains b

/-! ### Holders -/

/-- R36: a stack that is announced. -/
def State.stackUp (s : State) (die st : Nat) : Bool := bit s.pkg.livemap die && !bit s.pkg.outDies die && bit s.pkg.livemap (8 + 2 * die + st)

/-- R36: whether a holder number is valid. Of a peer device, its LIVEMAP is not held here: whether the holder is live there is a free
value (notes/assumptions/78.md). -/
def State.validHolder (s : State) (h : Nat) : Bool :=
  let die := holderDie h
  let st := holderStore h
  decide (h < 2 ^ 17) && decide (st ≤ 4) && (if st = 4 then die == 8 else decide (die < 8)) &&
  (if holderDev h = s.pkg.device then s.dieLive die && (decide (2 ≤ st) || s.stackUp die st)
   else s.peerUp (holderDev h) && Config.peerHolder h s.next)

/-- Pages of 16 KiB that a store of this device holds in all (R13, R148, R201); host memory is not bounded here. -/
def State.capacity (s : State) (h : Nat) : Nat :=
  match holderStore h with
  | 0 | 1 => 6291456
  | 2 => 2048 - (s.clusters.foldl (fun n kv => if kv.2.resident && kv.2.die == holderDie h then n + kv.2.chipSize / 2 ^ 14 else n) 0)
  | 3 => 91 * 64
  | _ => 2 ^ 44

/-- Pages of a store that placements hold or that are retired (R108). -/
def State.placed (s : State) (h : Nat) : Nat :=
  (tvals (trange s.places (keyHolder h 0) (keyHolder (h + 1) 0))).foldl (· + ·) 0 + (s.badFrames.filter (· == h)).length

/-- The number of 16 KiB pages of a prefix. -/
def pagesOf (len : Nat) : Nat := 2 ^ (42 - len)
/-- A prefix's lowest RA and size. -/
def pfxBase (pfx : Nat) : Nat := pfx * 2 ^ 14
def pfxSize (len : Nat) : Nat := 2 ^ (56 - len)

/-- R36: whether a store has room for a prefix; of a peer's store that is a free value (notes/assumptions/78.md). -/
def State.hasRoom (s : State) (h len : Nat) : Bool :=
  if holderDev h = s.pkg.device then decide (s.placed h + pagesOf len ≤ s.capacity h) else Config.peerRoom h len s.next

/-- The key of a placement: its holder, its prefix's base and its length. -/
def placeKey (h pfx len : Nat) : Nat := keyHolder h (pfxBase pfx) + len

/-- R36: space for a prefix allocated in a store. What it holds has a number of its own until a copy gives it another's. -/
def State.place (s : State) (h pfx len : Nat) : State :=
  let (id, s) := s.takeId
  { s with places := tset s.places (placeKey h pfx len) (pagesOf len), images := tset s.images (placeKey h pfx len) id }

/-- R49, R68, R201: an entry of a context's prefix counted against the context's route quota: of the context of the domain that the
prefix's RA and the number in its entries name together, as device * 1024 + number. -/
def State.charge (s : State) (h pfx len c : Nat) : State :=
  { s with charges := tset s.charges (placeKey h pfx len) (pfx / 2 ^ 32 * 1024 + c) }

/-- R37: whether the engines' tables have an entry left for `n` more. The spec gives no rule for an announcement that finds none
(notes/assumptions/80.md). -/
def State.entriesLeft (s : State) (n : Nat) : Bool := decide ((s.engine 8).entries.length + n ≤ 16384)

/-- R39: whether a holder serves a memory key for a longer prefix than one of the length given. -/
def State.servesInner (s : State) (h len k : Nat) : Bool := (s.placements h).any fun p => decide (p.2 < pagesOf len) && placeCovers p k

/-- What a table holds outside a range, and inside it at keys that are kept. -/
def tfree {α : Type} (t : Tab α) (lo hi : Nat) (keep : Nat → Bool) : Tab α :=
  t.filter fun kv => decide (kv.1 < lo) || decide (hi ≤ kv.1) || keep kv.1

/-- R53: a placement released: what it alone held is gone. -/
def State.unplace (s : State) (h pfx len : Nat) : State :=
  let lo := keyHolder h (pfxBase pfx)
  let hi := lo + pfxSize len
  let k := placeKey h pfx len
  let s := { s with places := tdel s.places k, images := tdel s.images k, charges := tdel s.charges k }
  let kept := fun (k : Nat) => (s.placements h).any fun p => placeCovers p k
  { s with
    mem := tfree s.mem lo hi kept
    tags := tfree s.tags (lo / 128) (hi / 128) fun k => kept (128 * k)
    poison := tfree s.poison (lo / 16) (hi / 16) fun k => kept (16 * k) }

/-! ### Tables -/

def State.setEngine (s : State) (e : Nat) (en : Engine) : State := { s with engines := tset s.engines e en }

/-- R38: an engine's version of a prefix. -/
def Engine.version (en : Engine) (pfx len : Nat) : Nat :=
  let a := (en.entries.filter fun e => e.pfx == pfx && e.len == len).foldl (fun m e => max m e.ver) 0
  (en.retired.filter fun e => e.pfx == pfx && e.len == len).foldl (fun m e => max m e.ver) a

/-- R43: whether an entry is the one of a triple; a regeneration handle is no holder number (notes/assumptions/45.md). -/
def Entry.is (e : Entry) (pfx len holder : Nat) : Bool := e.pfx == pfx && e.len == len && e.holder == holder

/-- R43: the entry that a message names. -/
def Engine.named (en : Engine) (m : Msg) : Option Entry := en.entries.find? fun e => e.is m.pfx m.len m.holder

/-- Messages by number (R41). -/
def mAnnounce : Nat := 0
def mFill : Nat := 1
def mDrain : Nat := 2
def mFinal : Nat := 3
def mFail : Nat := 4
def mHomemove : Nat := 5
def mFqry : Nat := 6
def mFack : Nat := 7
def mRegen : Nat := 8
def mRecost : Nat := 9

/-- R43: what a message makes of the entry it names; FINAL leaves none. -/
def msgEntry (m : Msg) (nc : Nat) (hop : Hop) (old : Option Entry) : Option Entry :=
  let base : Entry := old.getD
    { pfx := m.pfx, len := m.len, st := .active, home := m.home, lock := m.lock, holder := m.holder, cost := nc, nhop := hop
      ctx := m.ctx, ver := m.ver }
  let e := { base with cost := nc, nhop := hop, ver := m.ver }
  if m.op = mFinal then none
  else if m.op = mAnnounce then some { e with st := .active, home := m.home, lock := m.lock, ctx := m.ctx }
  else if m.op = mFill then some { e with st := .filling, lock := m.lock, ctx := m.ctx }
  else if m.op = mDrain then some { e with st := .draining }
  else if m.op = mFail then some { e with st := .failed }
  else if m.op = mHomemove then some { e with st := .active, home := true }
  else some { e with st := .regen, home := false, lock := m.lock, ctx := m.ctx }

/-- R43, R397: a message other than RECOST, FQRY or FACK applied to an engine's table. DESIGN CHOICE: an announcement of a peer that finds
all 16,384 entries (R37) in use is kept all the same (notes/assumptions/80.md). -/
def Engine.apply (en : Engine) (m : Msg) (nc : Nat) (hop : Hop) : Engine :=
  let was := en.version m.pfx m.len
  let isIt := fun (e : Entry) => e.is m.pfx m.len m.holder
  let new := msgEntry m nc hop (en.named m)
  let rest := en.entries.filter fun e => !isIt e
  -- at HOMEMOVE the home bit leaves every other entry of the prefix
  let rest := if m.op = mHomemove then rest.map fun e => if e.pfx == m.pfx && e.len == m.len then { e with home := false } else e
    else rest
  let entries := match new with | some e => rest ++ [e] | none => rest
  let entries := if was ≤ m.ver then
      entries.map fun e => if e.pfx == m.pfx && e.len == m.len then { e with lock := m.lock } else e
    else entries
  let ret := en.retired.filter fun r => !(r.pfx == m.pfx && r.len == m.len && r.holder == m.holder)
  let ret := match new with
    | some _ => ret
    | none => (if 16384 ≤ ret.length then ret.drop 1 else ret) ++ [⟨m.pfx, m.len, m.holder, m.ver⟩]
  { en with entries := entries, retired := ret }

/-- R43: the version and cost that a message is compared with. -/
def Engine.standing (en : Engine) (m : Msg) : Nat × Nat :=
  match en.named m with
  | some e => (e.ver, e.cost)
  | none =>
    match en.retired.find? fun r => r.pfx == m.pfx && r.len == m.len && r.holder == m.holder with
    | some r => (r.ver, 0)
    | none => (0, 0)

/-! ### Sending -/

/-- The event of a message that reaches an engine. -/
def msgEvent (eng : Nat) (hop : Hop) (m : Msg) : Instr :=
  match m.op with
  | 0 => .announceMessage eng hop m
  | 1 => .fill eng hop m
  | 2 => .drain eng hop m
  | 3 => .final eng hop m
  | 4 => .fail eng hop m
  | 5 => .homemove eng hop m
  | 6 => .fqry eng hop m
  | 7 => .fack eng hop m
  | 8 => .regen eng hop m
  | 9 => .recost eng hop m
  | _ => .ifemerMessageDiscard eng m

/-- A message sent over an edge; over a port it leaves the device. -/
def State.send (s : State) (eng : Nat) (m : Msg) : Hop → State
  | .port p => { s with portOut := s.portOut ++ [(p, m)] }
  | .die n => s.due (msgEvent n (hopOf eng) m)
  | .iod => s.due (msgEvent 8 (hopOf eng) m)
  | .here => s

def Hop.isPort : Hop → Bool
  | .port _ => true
  | _ => false

/-- R43: an applied message forwarded. The IOD appends its element only from port to port, and never joins two dies. -/
def State.forward (s : State) (eng : Nat) (hop : Hop) (m : Msg) (nc : Nat) : State :=
  if 63 ≤ m.path.length then s
  else
    let own := { m with cost := nc, path := m.path ++ [(s.pkg.device, eng)] }
    let plain := { m with cost := nc }
    let outs := (s.neighbours eng).filter fun h => h != hop
    if eng = 8 then
      outs.foldl (fun s h =>
        if Hop.isPort h then s.send 8 (if Hop.isPort hop then own else plain) h
        else if Hop.isPort hop then s.send 8 plain h
        else s) s
    else outs.foldl (fun s h => s.send eng own h) s

/-! ### What a change of a table sets going -/

/-- R41, R54, R58: the queries that an engine can now answer: with the version fenced, or its own for a takeover query. -/
def State.answer (s : State) (eng : Nat) : State :=
  let en := s.engine eng
  let (now, later) := en.queries.partition fun q => q.ver == 0 || decide (q.ver ≤ en.version q.pfx q.len)
  let s := s.setEngine eng { en with queries := later }
  now.foldl (fun s q =>
    let asker := q.path.headD (0, 0)
    let m := { q with op := mFack, ver := if q.ver = 0 then en.version q.pfx q.len else q.ver, path := [asker, (s.pkg.device, eng)] }
    if asker.1 = s.pkg.device then s.due (.fack asker.2 .here m)
    else ((List.range 18).filter s.portUp).foldl (fun s p => s.send 8 m (.port p)) s) s

/-- Whether a held request can now be served. DESIGN CHOICE: one whose home has failed, so that only a regeneration entry is left, stays
held until its bound runs out or a regeneration brings a home (notes/assumptions/86.md). -/
def State.freed (s : State) (r : Req) : Bool :=
  match (s.engine r.die).resolve r.ra r.aop.isSome r.isStore with
  | .toward e => !((r.aop.isSome || (r.isStore && e.lock)) && s.awaitsMarker e) && !(s.lockedLine r.ra e.holder && !r.isStore && r.aop.isNone)
  | .held .lostData => true
  | .held _ => false

/-- R40: what a request waits for that the routes may bring within a bound. -/
def Held.waitsRoute : Held → Bool
  | .unreachable | .homeless => true
  | _ => false

/-- R40, R53: held requests that can go on. -/
def State.release (s : State) : State :=
  s.dues ((s.reqs.filter fun kv => (kv.2.why.waitsRoute || kv.2.why == .handover) && s.freed kv.2).map fun kv => .requestHoldRelease kv.1)

/-- R47: loads that waited for a line. -/
def State.unlockLoads (s : State) (line : Nat) : State :=
  s.dues ((s.reqs.filter fun kv => kv.2.why == .locked && kv.2.ra / 128 == line && !kv.2.isStore && kv.2.aop.isNone && s.freed kv.2).map fun kv => .requestHoldRelease kv.1)

/-! ### Route operations that go on -/

def State.setRop (s : State) (id : Nat) (r : ROp) : State := { s with rops := tset s.rops id r }

/-- A route operation ends: its status goes to its instruction's destination. -/
def State.endRop (s : State) (id status : Nat) : State :=
  match tget? s.rops id with
  | none => s
  | some r =>
    let s := { s with rops := tdel s.rops id, filled := tdel s.filled id }
    match tget? s.ops r.op with
    | none => s
    | some o =>
      ({ s with ops := tset s.ops r.op { o with left := 0, dests := o.dests.map fun (kv : Nat × W64) => (kv.1, BitVec.ofNat 64 status) } }).due
        (.longLatencyCompletion r.op)

/-- R51: whether an operation that waits for a version at its issuing die has it. -/
def ROp.reached (r : ROp) (s : State) : Bool :=
  let en := s.engine r.die
  let got := decide (r.ver ≤ en.version r.pfx r.len)
  match r.kind with
  | .announceHome | .announceReplica => got
  | .replicate => r.phase == 1 && got
  | .withdraw => r.phase == 1 && got && (en.entry? r.pfx r.len r.holder).isNone
  | .migrate => r.phase == 4 && got && (en.entry? r.pfx r.len r.old).isNone
  | .rfence | .takeover | .peerFill => false

/-- R51: operations that have reached their ends. -/
def State.endRops (s : State) : State :=
  s.rops.foldl (fun (s : State) kv => if kv.2.reached s then s.endRop kv.1 0 else s) s

/-- What follows every change of an engine's table. -/
def State.changed (s : State) (eng : Nat) : State := ((s.answer eng).release).endRops

/-- R43: a message originated at an engine: applied there with the next hop given, then sent to every neighbour. -/
def State.originate (s : State) (eng : Nat) (m : Msg) (cost : Nat) (hop : Hop) : State :=
  let m := { m with path := [(s.pkg.device, eng)], cost := cost }
  let s := s.setEngine eng ((s.engine eng).apply m cost hop)
  ((s.neighbours eng).foldl (fun s h => s.send eng m h) s).changed eng

/-- The key of a prefix. -/
def pfxKey (pfx len : Nat) : Nat := pfx * 64 + len

/-- R42, R43: a message about a holder of a peer, which the holder's own engine originates there: it leaves over every live port with
an empty path (how an authority has an engine of another device originate a message is not in the spec:
notes/assumptions/78.md), and what comes back applies here like any other. -/
def State.tellPeer (s : State) (m : Msg) : State :=
  ((List.range 18).filter s.portUp).foldl (fun s p => s.send 8 { m with path := [], cost := 0 } (.port p))
    { s with versions := tset s.versions (pfxKey m.pfx m.len) (max m.ver (tgetD s.versions (pfxKey m.pfx m.len) 0)) }

/-- R43: a message about a holder, originated at the holder's own engine, or, where that is gone, at `proxy` with the cost
and the next hop that its entry has. A regeneration entry has no holder: `proxy` originates its messages with COST 0. -/
def State.say (s : State) (proxy : Nat) (m : Msg) : State :=
  let isRegen := m.op == mRegen || holderStore m.holder == 7
  if !isRegen && holderDev m.holder != s.pkg.device && s.peerUp (holderDev m.holder) then s.tellPeer m
  else if !isRegen && holderDev m.holder == s.pkg.device && s.dieLive (holderDie m.holder) && s.joined proxy (holderDie m.holder) then
    if holderStore m.holder = 4 then s.originate 8 m 2 .here else s.originate (holderDie m.holder) m 0 .here
  else match (s.engine proxy).named m with
    | some e => s.originate proxy m e.cost e.nhop
    | none => s.originate proxy m (if isRegen then 0 else 2047) .here

/-! ### Edges that go down -/

/-- R41: a message discarded and counted. -/
def State.discard (s : State) (eng : Nat) : State :=
  let en := s.engine eng
  s.setEngine eng { en with discards := en.discards + 1 }

/-- R44: an edge or a port has gone down: at each end, entries through it cost 2,047, and RECOST says so. -/
def State.cut (s : State) (eng : Nat) (hop : Hop) : State :=
  let en := s.engine eng
  let hit := en.entries.filter fun e => e.nhop == hop && e.cost != 2047
  let s := s.setEngine eng { en with entries := en.entries.map fun e => if e.nhop == hop then { e with cost := 2047 } else e }
  hit.foldl (fun s e =>
    let m : Msg :=
      { op := mRecost, pfx := e.pfx, len := e.len, home := e.home, lock := e.lock, holder := e.holder, ver := e.ver, ctx := e.ctx
        cost := 2047, path := [(s.pkg.device, eng)], rsv := 0 }
    (s.neighbours eng).foldl (fun s h => s.send eng m h) s) s

/-! ### Propagated stores and line locks -/

/-- R159: one holder less to reach; with none left the write has landed. -/
def State.wrDone (s : State) (id : Nat) (w : Wr) (holder : Nat) : State :=
  let left := w.left.filter fun h => h != holder
  if left.isEmpty then (({ s with writes := tdel s.writes id }).countLanded w.core w.round w.holder).opDone w.op
  else { s with writes := tset s.writes id { w with left := left } }

/-- Whether a holder of this device still takes propagated stores of an RA. -/
def State.takes (s : State) (holder ra : Nat) : Bool :=
  holderDev holder != s.pkg.device ||
  let eng := if holderStore holder = 4 then 8 else holderDie holder
  (s.engine eng).entries.any fun e => e.holder == holder && e.covers ra && e.receives

/-- Bytes of a write applied at one more holder. -/
def State.applyWr (s : State) (w : Wr) (holder : Nat) : State :=
  match w.bytes with
  | [] => s
  | (ra, _) :: _ =>
    if s.takes holder ra then (s.applyAt w.agent w.ctx holder w.bytes w.poison w.op).noteFilled holder w.bytes else s

/-- R177: writes of one holder to the same line reach each other holder in the order in which they were sent: whether an earlier one
has still to be applied. -/
def State.behind (s : State) (id : Nat) (w : Wr) (holder : Nat) : Bool :=
  s.writes.any fun kv => decide (kv.1 < id) && kv.2.holder == w.holder && kv.2.left.contains holder &&
    kv.2.bytes.any fun b => w.bytes.any fun x => b.1 / 128 == x.1 / 128

/-- R109: whether a write would reach a channel of a holder that is paused. -/
def State.pausedFor (s : State) (w : Wr) (holder : Nat) : Bool := w.bytes.any fun b => s.paused holder b.1

/-- R68: the context here of a number in the routing domain, as an RA's assigner counts it; 1024 names none. -/
def State.domainCtx (s : State) (dev n : Nat) : Nat :=
  if dev = s.pkg.device then n
  else match s.ctxs.find? fun kv => kv.2.origin == some (dev, n) with
    | some kv => kv.1
    | none => 1024

/-- R46, R109, R177: a write applied at one more holder, once those sent before it are, and not while the channel is paused. -/
def State.propagate (s : State) (write holder : Nat) : State :=
  match tget? s.writes write with
  | none => s
  | some w =>
    if !w.left.contains holder || s.pausedFor w holder then s
    else if s.behind write w holder then s.due (.propagatedStore (.own write) holder)
    else (s.applyWr w holder).wrDone write w holder

/-- R46, R168: a store that a holder of a peer propagates to a holder of this device. -/
def State.peerStore (s : State) (holder : Nat) (p : PeerStore) : State :=
  let c := s.domainCtx (p.ra / 2 ^ 46) p.ctx
  let (id, s) := s.takeId
  let w : Wr :=
    { agent := .mp c, core := none, round := 0, ctx := c, bytes := bytesAt p.ra p.bytes, holder := p.src, left := [holder], op := none
      poison := p.poison }
  ({ s with writes := tset s.writes id w }).propagate id holder

/-- R46, R52, R53, R168: PROPAGATED_STORE: of a store that a holder here has sent on, or of one that arrives from a peer's holder. -/
def execPropagatedStore (store : Propagated) (holder : Nat) (s : State) : Out :=
  .next (match store with
    | .own write => s.propagate write holder
    | .peer p => if holderDev p.src = s.pkg.device ∨ holderDev holder ≠ s.pkg.device then s else s.peerStore holder p)

/-- R109: what waited for a channel, once it runs again. -/
def State.afterPause (s : State) : State :=
  (s.dues ((s.reqs.filter fun kv => kv.2.why == .channel).map fun kv => .requestHoldRelease kv.1)).dues
    (((s.writes.filter fun kv => !s.locks.any fun l => l.2.write == some kv.1).flatMap fun kv => kv.2.left.map fun h =>
        Instr.propagatedStore (.own kv.1) h) ++
      s.locks.flatMap fun kv => if kv.2.applied then kv.2.acks.map fun h => Instr.lockAcknowledgement kv.1 h else [])

/-- R47: the first write of a locked line applied at the home, its bytes on their way to the locked holders. -/
def State.applyLocked (s : State) (line : Nat) : State :=
  match tget? s.locks line with
  | none => s
  | some l =>
    match l.queue with
    | [] => { s with locks := tdel s.locks line }.unlockLoads line
    | id :: rest =>
      match tget? s.reqs id with
      | none => (({ s with locks := tset s.locks line { l with queue := rest, locked := [], acks := [] } }).unlockLoads line).due
          (.lockedWrite line)
      | some r =>
        let s := { s with reqs := tdel s.reqs id }
        let e : Entry :=
          { pfx := 0, len := 0, st := .active, home := true, lock := true, holder := l.home, cost := 0, nhop := .here, ctx := r.ctx
            ver := 0 }
        s.applyReq r e fun s bs op =>
          let s := s.applyAt r.agent r.ctx l.home bs r.poison op
          if bs.isEmpty && !l.locked.isEmpty then
            -- R329: a failed .cas is complete; its locked holders only unlock
            ((({ s with locks := tset s.locks line { l with queue := rest, acks := l.locked, applied := true, write := none } }).countLanded r.core
              r.round l.home).opDone op).dues (l.locked.map fun h => .lockAcknowledgement line h)
          else if l.locked.isEmpty then
            (((({ s with locks := tset s.locks line { l with queue := rest, acks := [] } }).countLanded r.core r.round l.home).opDone op)).due
              (.lockedWrite line)
          else
            let (wid, s) := s.takeId
            let w : Wr :=
              { agent := r.agent, core := r.core, round := r.round, ctx := r.ctx, bytes := bs, holder := l.home, left := l.locked
                op := op, poison := r.poison }
            ({ s with
              writes := tset s.writes wid w
              locks := tset s.locks line { l with queue := rest, acks := l.locked, applied := true, write := some wid } }).dues
              (l.locked.map fun h => .lockAcknowledgement line h)

/-- R47: LOCKED_WRITE: the home takes the next write to a line, and locks the line at the other holders. -/
def execLockedWrite (line : Nat) (s : State) : Out :=
  .next (match tget? s.locks line with
    | none => s
    | some l =>
      if !l.acks.isEmpty || l.applied then s
      else match l.queue with
        | [] => { s with locks := tdel s.locks line }.unlockLoads line
        | id :: _ =>
          match tget? s.reqs id with
          | none => s.applyLocked line
          | some r =>
            let eng := if holderDev l.home = s.pkg.device then holderDie l.home else 8
            let others := ((s.engine eng).longest r.ra).filter fun f => f.receives && f.holder != l.home
            let hs := others.map Entry.holder
            if hs.isEmpty then s.applyLocked line
            else ({ s with locks := tset s.locks line { l with acks := hs } }).dues (hs.map fun h => .lockAcknowledgement line h))

/-- R47: a line's lock ends: loads that waited are served, and the home takes the next write. -/
def State.unlock (s : State) (line : Nat) (l : LineLock) : State :=
  let l := { l with locked := [], acks := [], applied := false, write := none }
  if l.queue.isEmpty then ({ s with locks := tdel s.locks line }).unlockLoads line
  else (({ s with locks := tset s.locks line l }).unlockLoads line).due (.lockedWrite line)

/-- R109, R177: whether a locked holder cannot apply the bytes of a line's write yet: others sent before it are still to come there,
or its channel is paused. -/
def State.lockWaits (s : State) (l : LineLock) (holder : Nat) : Bool × Bool :=
  match if l.applied then l.write.bind fun id => (tget? s.writes id).map fun w => (id, w) else none with
  | some x => (s.behind x.1 x.2 holder, s.pausedFor x.2 holder)
  | none => (false, false)

/-- R47: an acknowledgement of a holder: that it has marked the line locked, or that it has applied the bytes and unlocked. -/
def State.acknowledge (s : State) (line holder : Nat) : State :=
  match tget? s.locks line with
  | none => s
  | some l =>
    if !l.acks.contains holder then s
    else
      let acks := l.acks.filter fun h => h != holder
      if !l.applied then
        let s := { s with locks := tset s.locks line { l with acks := acks, locked := l.locked ++ [holder] } }
        if acks.isEmpty then s.applyLocked line else s
      else
        let l' := { l with acks := acks, locked := l.locked.filter fun h => h != holder }
        let s := match l.write with
          | some wid =>
            match tget? s.writes wid with
            | some w => (s.applyWr w holder).wrDone wid w holder
            | none => s
          | none => s
        if acks.isEmpty then s.unlock line l'
        else ({ s with locks := tset s.locks line l' }).unlockLoads line

/-- R47: LOCK_ACKNOWLEDGEMENT. -/
def execLockAcknowledgement (line holder : Nat) (s : State) : Out :=
  .next (match tget? s.locks line with
    | none => s
    | some l =>
      let w := s.lockWaits l holder
      if w.2 then s else if w.1 then s.due (.lockAcknowledgement line holder) else s.acknowledge line holder)

/-! ### Held requests -/

/-- A held request served again. Loads that wait for a write to a locked line look again, as that may have been applied without a lock. -/
def State.serveAgain (s : State) (id : Nat) : State :=
  match tget? s.reqs id with
  | none => s
  | some r =>
    let s := ({ s with reqs := tdel s.reqs id }).serve r
    if r.isStore then s.unlockLoads (r.ra / 128) else s

/-- R40, R47: REQUEST_HOLD_RELEASE. -/
def execRequestHoldRelease (req : Nat) (s : State) : Out := .next (s.serveAgain req)

/-- R40: REQUEST_BOUNCE: the request resolved again at the die it had reached. -/
def execRequestBounce (req : Nat) (s : State) : Out := .next (s.serveAgain req)

/-- R40, R109: whether the bound of a held request runs: not while a channel that it would go to is paused. -/
def State.holdRuns (s : State) (r : Req) : Bool :=
  r.why.waitsRoute && !((s.engine r.die).longest r.ra).any fun e => s.paused e.holder r.ra

/-- R40: HOLD_TIMEOUT: no holder became reachable in time: the request consumes lost data. -/
def execHoldTimeout (req : Nat) (s : State) : Out :=
  .next (match tget? s.reqs req with
    | none => s
    | some r =>
      if s.holdRuns r then ({ s with reqs := tdel s.reqs req }).poisoned (s.whoOf r) r.ra (s.waitedStore r)
      else s)

end Sys2Proof.Machine
end

