-- ==== Sys2Proof/Machine/RouteOps.lean ====
section
/-! DEFINITION. Route operations (R49 to R54, R58, R358, R398) and failures of holders (R54). -/

namespace Sys2Proof.Machine

open Sys2Proof

/-! ### Authority -/

/-- R42: the engine at which a holder's home lives: its die's, or CD1's for host memory. -/
def homeEngine (h : Nat) : Nat := if holderStore h = 4 then 1 else holderDie h

/-- The entry of the greatest version of two. -/
def newer (m : Option Entry) (e : Entry) : Option Entry := match m with | some x => if x.ver < e.ver then some e else m | none => some e

/-- R42: what an authority knows of a holder of a prefix: every message about one is sent by it, so that the newest entry of an engine,
or that it is retired, stands for its own table. -/
def State.entryNow (s : State) (pfx len holder : Nat) : Option Entry :=
  let ens := (List.range 9).map s.engine
  let gone := (ens.flatMap fun en => (en.retired.filter fun r => r.pfx == pfx && r.len == len && r.holder == holder).map Retired.ver).foldl max 0
  match (ens.filterMap fun en => en.entry? pfx len holder).foldl newer none with
  | some e => if gone ≤ e.ver then some e else none
  | none => none

/-- The holders of a prefix that engines of the device list. -/
def State.holdersOf (s : State) (pfx len : Nat) : List Nat :=
  (((List.range 9).flatMap fun k => (s.engine k).entries.filter fun e => e.pfx == pfx && e.len == len && e.st != .regen).map
    Entry.holder).eraseDups

/-- R42: what an authority knows of a prefix: each of its entries, and its home. -/
def State.entriesNow (s : State) (pfx len : Nat) : List Entry := (s.holdersOf pfx len).filterMap fun h => s.entryNow pfx len h
def State.homeNow (s : State) (pfx len : Nat) : Option Entry := ((s.entriesNow pfx len).filter fun e => e.home && e.serving).foldl newer none

/-- R42: the authority of a prefix: the engine of the home's die. For a home on a peer device the IOD's engine stands in for the
authority there (notes/assumptions/78.md). -/
def State.authOf (s : State) (e : Entry) : Nat := if holderDev e.holder = s.pkg.device then homeEngine e.holder else 8
def State.authority (s : State) (pfx len : Nat) : Option Nat := (s.homeNow pfx len).map s.authOf

/-- R42: the version of a prefix at its authority: the greatest that an engine of the device holds or that has been sent to a peer. -/
def State.topVersion (s : State) (pfx len : Nat) : Nat :=
  (List.range 9).foldl (fun m k => max m ((s.engine k).version pfx len)) (tgetD s.versions (pfxKey pfx len) 0)

/-- R55: a regeneration under way on a prefix. -/
def State.regenBusy (s : State) (pfx len : Nat) : Bool := s.regens.any fun kv => kv.2.grid.isSome && kv.2.pfx == pfx && kv.2.len == len

/-- R50: an operation of several phases, or a regeneration, under way on a prefix. A home on a peer has its authority there, which may
be at an operation of another device: a free value. -/
def State.prefixBusy (s : State) (pfx len : Nat) : Bool :=
  (s.rops.any fun kv => kv.2.pfx == pfx && kv.2.len == len && (match kv.2.kind with
    | .withdraw | .replicate | .migrate | .takeover | .peerFill => true
    | _ => false)) || s.regenBusy pfx len ||
  match s.homeNow pfx len with
  | some e => holderDev e.holder != s.pkg.device && Config.peerBusy pfx len s.next
  | none => false

/-- R42: versions above this are kept for failures and the memory processor. -/
def topProgramVersion : Nat := 0xFFFF0000

/-- R68: the context number that route entries carry. -/
def State.routeCtx (s : State) (c : Nat) : Nat := match tget? s.ctxs c with | some x => (match x.origin with | some o => o.2 | none => c) | none => c

/-- R68: the device that assigns a context's RAs: its origin's. -/
def State.domainDev (s : State) (c : Nat) : Nat :=
  match tget? s.ctxs c with
  | some x => (match x.origin with | some o => o.1 | none => s.pkg.device)
  | none => s.pkg.device

/-- A message about one holder of a prefix. -/
def mkMsg (op pfx len holder ver ctx : Nat) (home lock : Bool) : Msg :=
  { op := op, pfx := pfx, len := len, home := home, lock := lock, holder := holder, ver := ver, ctx := ctx, cost := 0, path := [], rsv := 0 }

/-! ### Validation -/

/-- R49: whether an RA range lies within a grant of a context with route permission. -/
def State.routeGranted (s : State) (c base size : Nat) : Bool :=
  match tget? s.ctxs c with
  | some x => x.grants.any fun g => decide (g.ra ≤ base) && decide (base + size ≤ g.ra + g.len) && g.perm / 16 % 2 == 1
  | none => false

/-- R49, R168: a holder of a peer device lies in a range that the peer has granted to the context, or both are parts of one domain
context. What a peer has granted beyond what a grant of kind 3 has shown is a free value. -/
def State.holderGranted (s : State) (c h base size : Nat) : Bool :=
  holderDev h == s.pkg.device ||
  (match tget? s.ctxs c with | some x => x.origin.any fun o => o.1 == holderDev h | none => false) ||
  (s.peerGrants.any fun g => g.1 == holderDev h && g.2.1 == s.routeCtx c && decide (g.2.2.1 ≤ base) &&
    decide (base + size ≤ g.2.2.1 + g.2.2.2)) ||
  Config.peerGranted (holderDev h) base size s.next

/-- R49: the entries that naming a holder would add: none where the prefix has one for it. -/
def State.adds (s : State) (pfx len : Nat) (holder : W64) : Nat := if (s.entryNow pfx len holder.toNat).isSome then 0 else 1

/-- R49, R85, R201: the entries that count against a context's route quota: those of its route operations and row sets, and its
regeneration entries. The homes that the memory processor announces for it are not among them. -/
def State.charged (s : State) (c : Nat) : Nat :=
  (s.charges.filter fun kv => kv.2 == s.domainDev c * 1024 + s.routeCtx c).length + (s.regens.filter fun kv => kv.2.ctx == c).length

/-- R37, R49: whether a context's quota, and the engines' tables, take `n` more entries. -/
def State.quotaTakes (s : State) (c n : Nat) : Bool :=
  match tget? s.ctxs c with
  | some x => decide (s.charged c + n ≤ x.rquota) && s.entriesLeft n
  | none => false

/-- R50: the statuses of validation, in their order; none where the operation is accepted. -/
def State.validate (s : State) (c : Nat) (pfx len : Nat) (holder : W64) (adds : Nat) : Option Nat :=
  let base := pfxBase pfx
  let size := pfxSize len
  if len < 8 ∨ 42 < len then some 13
  else if 2 ^ 17 ≤ holder.toNat || !s.validHolder holder.toNat then some 10
  else if !s.routeGranted c base size || !s.holderGranted c holder.toNat base size then some 2
  else if !s.quotaTakes c adds then some 4
  else none

/-- The first status whose condition holds, or none. -/
def firstStatus : List (Bool × Nat) → Option Nat
  | [] => none
  | (c, n) :: t => if c then some n else firstStatus t

/-- R398: whether the memory processor of another device, in whose part a prefix without entries lies, has taken another announcement of
it first: a free value (notes/assumptions/78.md). -/
def State.createdElsewhere (s : State) (pfx len : Nat) : Bool :=
  pfx / 2 ^ 32 != s.pkg.device && (s.holdersOf pfx len).isEmpty && Config.peerCreated pfx len s.next

/-! ### The instructions -/

/-- R358: PFX of an RA's first LEN bits. -/
def pfxOf (ra len : Nat) : Nat := ra / 2 ^ 14 / 2 ^ (42 - len) * 2 ^ (42 - len)

/-- R358, R90: the part that the route instructions share: the address translated with RT; at most eight outstanding. -/
def routeGate (l : Lat) (rs : List SReg) (a : SReg) (k : SHere → Nat → State → State) (s : State) : Out :=
  seqGate l rs (fun h s =>
    let va := (h.get a).toNat
    if highVa va then s.seqIllegal h
    else if 8 ≤ (s.rops.filter fun kv => kv.2.uid == some h.uid).length then s.waits
    else match s.translate h.b.coreNo (h.who 6) permRt [⟨0xFF, va, 1⟩] with
      | .error s' => s'
      | .ok ras => k h (ras.headD 0) s) s

/-- R51: whether an operation names a holder that it may add to its prefix. -/
def RKind.names : RKind → Bool
  | .announceHome | .announceReplica | .replicate | .migrate => true
  | .withdraw | .rfence | .takeover | .peerFill => false

/-- An accepted operation: its op outstanding, its record kept, the entry that it adds counted (R49). -/
def State.openRop (s : State) (h : SHere) (l : Lat) (d : SReg) (r : ROp) : Nat × State :=
  let s := if r.kind.names && (s.entryNow r.pfx r.len r.holder).isNone then s.charge r.holder r.pfx r.len r.ctx else s
  let (op, s) := s.openSeqOp h l .plain [(d.val, 0)] 1
  let (id, s) := s.takeId
  (id, s.setRop id { r with op := op })

/-- A route operation of a block before it has an op. -/
def SHere.rop (h : SHere) (s : State) (kind : RKind) (pfx len holder : Nat) : ROp :=
  { kind := kind, uid := some h.uid, op := 0, ctx := s.routeCtx h.b.ctx, die := h.b.die, pfx := pfx, len := len, holder := holder
    old := 0, lock := false, phase := 0, ver := 0, acks := [], dst := none, status := 0 }

/-- R42, R51: ANNOUNCE. DESIGN CHOICE: after a refusal with VERSION a shorter operation whose messages fit is carried out
(notes/assumptions/79.md). -/
def execAnnounce (l : Lat) (replica locked : Bool) (d a b : SReg) (len : Fin 64) (s : State) : Out :=
  routeGate l [d, a, b] a (fun h ra s =>
    let pfx := pfxOf ra len.val
    let hd := (h.get b).toNat
    let fin := fun (n : Nat) => s.seqDone h l [(d.val, BitVec.ofNat 64 n)]
    match s.validate h.b.ctx pfx len.val (h.get b) (s.adds pfx len.val (h.get b)) with
    | some n => fin n
    | none =>
      let home := s.homeNow pfx len.val
      let v := s.topVersion pfx len.val
      let isHome := match home with | some e => e.holder == hd | none => false
      let held := match s.entryNow pfx len.val hd with | some e => e.st != .failed | none => false
      let st := firstStatus
        [(s.regenBusy pfx len.val, 3), (replica && home.isNone, 5),
         (replica && (holderStore hd == 3 || (match home with | some e => holderStore e.holder == 3 | none => false)), 8),
         (if replica then held else (home.isSome && !isHome) || s.createdElsewhere pfx len.val, 7),
         (replica && (match home with | some e => e.lock != locked | none => false), 9),
         (s.prefixBusy pfx len.val, 3),
         (decide (topProgramVersion < v + 1), 11),
         (!isHome && !s.hasRoom hd len.val, 4)]
      match st with
      | some n => fin n
      | none =>
        let au := (s.authority pfx len.val).getD 8
        let s := if isHome then s else s.place hd pfx len.val
        let r := { h.rop s (if replica then .announceReplica else .announceHome) pfx len.val hd with ver := v + 1, lock := locked }
        let (_, s) := s.openRop h l d r
        s.say au (mkMsg mAnnounce pfx len.val hd (v + 1) r.ctx (!replica) locked)) s

/-- R51, R52: REPLICATE. -/
def execReplicate (l : Lat) (d a b : SReg) (len : Fin 64) (s : State) : Out :=
  routeGate l [d, a, b] a (fun h ra s =>
    let pfx := pfxOf ra len.val
    let hd := (h.get b).toNat
    let fin := fun (n : Nat) => s.seqDone h l [(d.val, BitVec.ofNat 64 n)]
    match s.validate h.b.ctx pfx len.val (h.get b) (s.adds pfx len.val (h.get b)) with
    | some n => fin n
    | none =>
      match s.homeNow pfx len.val with
      | none => fin (if s.regenBusy pfx len.val then 3 else 5)
      | some home =>
        let v := s.topVersion pfx len.val
        let held := match s.entryNow pfx len.val hd with | some e => e.st != .failed | none => false
        match firstStatus
          [(s.regenBusy pfx len.val, 3), (holderStore hd == 3 || holderStore home.holder == 3, 8), (held, 7), (s.prefixBusy pfx len.val, 3),
           (decide (topProgramVersion < v + 2), 11), (!s.hasRoom hd len.val, 4)] with
        | some n => fin n
        | none =>
          let s := s.place hd pfx len.val
          let r := { h.rop s .replicate pfx len.val hd with ver := v + 1, old := home.holder, lock := home.lock }
          let (id, s) := s.openRop h l d r
          ({ s with filled := tset s.filled id [] }).say (s.authOf home) (mkMsg mFill pfx len.val hd (v + 1) r.ctx false home.lock)) s

/-- R58: the fence queries of an operation to the engines named. -/
def State.queryAll (s : State) (from' pfx len ver ctx : Nat) (engs : List Nat) : State :=
  let m := { mkMsg mFqry pfx len 0 ver ctx false false with path := [(s.pkg.device, from')] }
  s.dues (engs.map fun e => .fqry e .here m)

/-- An engine of this device as a fence names it. -/
def State.engKey (s : State) (eng : Nat) : Nat := s.pkg.device * 16 + eng

/-- R53, R58: the live engines of the device; with a query over every port, those of the domain. -/
def State.ownEngines (s : State) : List Nat := (List.range 9).filter s.dieLive
def State.domainEngines (s : State) : List Nat :=
  s.ownEngines.map s.engKey ++
  if (List.range 18).any s.portUp then (Config.peerEngines s.next).filter fun k => k / 16 != s.pkg.device && s.peerUp (k / 16) else []
def State.queryDomain (s : State) (from' pfx len ver ctx : Nat) : State :=
  let m := { mkMsg mFqry pfx len 0 ver ctx false false with path := [(s.pkg.device, from')] }
  ((List.range 18).filter s.portUp).foldl (fun s p => s.send 8 m (.port p)) (s.queryAll from' pfx len ver ctx s.ownEngines)

/-- R51, R53: WITHDRAW. -/
def execWithdraw (l : Lat) (d a b : SReg) (len : Fin 64) (s : State) : Out :=
  routeGate l [d, a, b] a (fun h ra s =>
    let pfx := pfxOf ra len.val
    let hd := (h.get b).toNat
    let fin := fun (n : Nat) => s.seqDone h l [(d.val, BitVec.ofNat 64 n)]
    match s.validate h.b.ctx pfx len.val (h.get b) 0 with
    | some n => fin n
    | none =>
      match s.homeNow pfx len.val with
      | none => fin (if s.regenBusy pfx len.val then 3 else 5)
      | some home =>
        let au := s.authOf home
        let v := s.topVersion pfx len.val
        match s.entryNow pfx len.val hd with
        | none => fin (if s.regenBusy pfx len.val then 3 else 6)
        | some e =>
          match firstStatus
            [(s.regenBusy pfx len.val, 3), (home.holder == hd, 1), (e.st == .failed, 6), (e.st == .filling || s.prefixBusy pfx len.val, 3),
             (decide (topProgramVersion < v + 2), 11)] with
          | some n => fin n
          | none =>
            let r := { h.rop s .withdraw pfx len.val hd with ver := v + 1, acks := s.domainEngines, lock := e.lock, asker := au }
            let (_, s) := s.openRop h l d r
            (s.say au (mkMsg mDrain pfx len.val hd (v + 1) r.ctx false e.lock)).queryDomain au pfx len.val (v + 1) r.ctx) s

/-- R51, R53: MIGRATE. -/
def execMigrate (l : Lat) (d a b : SReg) (len : Fin 64) (s : State) : Out :=
  routeGate l [d, a, b] a (fun h ra s =>
    let pfx := pfxOf ra len.val
    let hd := (h.get b).toNat
    let fin := fun (n : Nat) => s.seqDone h l [(d.val, BitVec.ofNat 64 n)]
    match s.validate h.b.ctx pfx len.val (h.get b) (s.adds pfx len.val (h.get b)) with
    | some n => fin n
    | none =>
      match s.homeNow pfx len.val with
      | none => fin (if s.regenBusy pfx len.val then 3 else 5)
      | some home =>
        let au := s.authOf home
        let v := s.topVersion pfx len.val
        let held := match s.entryNow pfx len.val hd with | some e => e.st == .active | none => false
        if s.regenBusy pfx len.val then fin 3
        else if holderStore hd = 3 ∨ holderStore home.holder = 3 then fin 8
        else if home.holder = hd then fin 0
        else match firstStatus
          [(s.prefixBusy pfx len.val, 3), (decide (topProgramVersion < v + (if held then 3 else 5)), 11),
           (!held && !s.hasRoom hd len.val, 4)] with
        | some n => fin n
        | none =>
          let r := { h.rop s .migrate pfx len.val hd with old := home.holder, lock := home.lock, ver := v + 1 }
          if held then
            let (_, s) := s.openRop h l d { r with phase := 2 }
            s.say au (mkMsg mHomemove pfx len.val hd (v + 1) r.ctx true home.lock)
          else
            let s := s.place hd pfx len.val
            let (id, s) := s.openRop h l d r
            ({ s with filled := tset s.filled id [] }).say au (mkMsg mFill pfx len.val hd (v + 1) r.ctx false home.lock)) s

/-- R58: RFENCE. DESIGN CHOICE: on an RA that no prefix matches, of which the spec says nothing, there is no version to fence: it
returns DONE at once, with no query (notes/assumptions/79.md). -/
def execRfence (l : Lat) (sc : Scope) (d a : SReg) (s : State) : Out :=
  routeGate l [d, a] a (fun h ra s =>
    let en := s.engine h.b.die
    match en.longest ra with
    | [] => s.seqDone h l [(d.val, 0)]
    | e :: _ =>
      let v := en.version e.pfx e.len
      let engs := match sc with
        | .warp | .block | .cluster | .die => [s.engKey h.b.die]
        | .pkg => s.ownEngines.map s.engKey
        | .dom | .sys => s.domainEngines
      let r := { h.rop s .rfence e.pfx e.len 0 with ver := v, acks := engs, asker := h.b.die }
      let (_, s) := s.openRop h l d r
      match sc with
      | .dom | .sys => s.queryDomain h.b.die e.pfx e.len v e.ctx
      | .pkg => s.queryAll h.b.die e.pfx e.len v e.ctx s.ownEngines
      | _ => s.queryAll h.b.die e.pfx e.len v e.ctx [h.b.die]) s

/-! ### Copies and phases -/

/-- R96: the integrity tag of a page at a holder. -/
def State.pageTag (s : State) (c h page : Nat) : Nat :=
  Aes.pageTag (match tget? s.ctxs c with | some x => x.keyNo | none => 0) page ((List.range 128).flatMap fun i => s.rdAt c h (page * 2 ^ 14 + 128 * i) 128)

/-- R96: tags computed and kept for the pages of a prefix whose home leaves HBM for host memory or a peer. -/
def State.tagPages (s : State) (c h pfx len : Nat) : State :=
  { s with pageTags := (List.range (pagesOf len)).foldl (fun t i => tset t (pfx + i) (s.pageTag c h (pfx + i))) s.pageTags }
def State.leavesHbm (s : State) (old new : Nat) : Bool :=
  holderDev old == s.pkg.device && decide (holderStore old ≤ 1) && (holderStore new == 4 || holderDev new != s.pkg.device)

/-- R32, R33, R103: a line copied, but for the bytes marked, as its owner holds it (one that nothing has been written to, one that goes
between an encrypted and an on-chip store, and one that is reached by another RA than it was written by, as the context does); its poison
moves with it. `ra` and `ra'` are the RAs of the two places. -/
def State.copyLine (s : State) (c src dst ra ra' : Nat) (kept : Nat → Bool) : State :=
  let tag := tgetD s.tags (src / 128) 0
  let same := encrypted src == encrypted dst && tag != 0 && tag == tweaked src ra (tag % 2 ^ 40)
  let o := if same then tag else s.ownerAt c src ra
  let o' := if same then tweaked dst ra' (tag % 2 ^ 40) else s.ownerAt c dst ra'
  let is := (List.range 128).filter fun i => !kept i
  let s' :=
    if same && is.length == 128 && (!encrypted src || s.blank src == s.blank dst) then
      { s with
        mem := is.foldl (fun t i => match tget? s.mem (src + i) with | some b => putCell t (dst + i) b | none => tdel t (dst + i)) s.mem
        tags := tset s.tags (dst / 128) o' }
    else is.foldl (fun (x : State) i => x.wrAs o' (dst + i) (s.rdAs o (src + i))) s
  { s' with poison := (List.range 8).foldl (fun (t : Tab Nat) j =>
      if (List.range 16).all fun i => kept (16 * j + i) then t else tput 0 t (dst / 16 + j) (tgetD s.poison (src / 16 + j) 0)) s'.poison }

/-- R32: whether what two places of one RA held at first is the same once one has been copied from the other: both are kept by their
placements, encrypted. -/
def sharesBlank (src dst : Nat) : Bool :=
  encrypted src && encrypted dst && decide (src < 2 ^ 17 * 2 ^ 64) && decide (dst < 2 ^ 17 * 2 ^ 64) && src % 2 ^ 64 == dst % 2 ^ 64

/-- R52, R95: a prefix's lines copied from one holder to another, but for the bytes marked and for lines that the other holder
serves under a longer prefix (R39). -/
def State.copyPrefix (s : State) (c src dst base len : Nat) (kept : Tab Bool) : State :=
  let lo := s.keyAt src base
  let hi := s.keyAt dst base
  let share := sharesBlank lo hi && (s.placementAt lo).isSome
  let listed := fun (k : Nat) => (trange s.mem k (k + pfxSize len)).map fun kv => (kv.1 - k) / 128
  let lines := if share then (listed lo ++ listed hi ++ kept.map fun kv => (kv.1 - base) / 128).eraseDups else List.range (pfxSize len / 128)
  let s := match if share then s.placementAt lo else none with
    | some p => { s with images := tset s.images (placeKey dst (base / 2 ^ 14) len) (tgetD s.images p.1 0) }
    | none => s
  lines.foldl (fun s i =>
    if s.servesInner dst len (s.keyAt dst (base + 128 * i)) then s
    else s.copyLine c (lo + 128 * i) (hi + 128 * i) (base + 128 * i) (base + 128 * i) fun j => (tget? kept (base + 128 * i + j)).isSome) s

/-- R52: whether every other holder's engine knows of a fill. -/
def State.fillSeen (s : State) (r : ROp) : Bool :=
  (s.engine (if holderDev r.old = s.pkg.device then homeEngine r.old else 8)).entries.all fun e =>
    !(e.pfx == r.pfx && e.len == r.len && e.receives && holderDev e.holder == s.pkg.device) ||
    decide (r.ver ≤ (s.engine (homeEngine e.holder)).version r.pfx r.len)

/-- Whether an RA lies in a prefix. -/
def inPrefix (pfx len ra : Nat) : Bool := ra / 2 ^ (56 - len) == pfx / 2 ^ (42 - len)

/-- R52: whether a store that another holder committed before the fill began has still to reach the home. -/
def State.homeBehind (s : State) (r : ROp) : Bool :=
  s.writes.any fun kv => kv.2.left.contains r.old && !kv.2.left.contains r.holder && kv.2.holder != r.holder &&
    kv.2.bytes.any fun b => inPrefix r.pfx r.len b.1

/-- R52: whether a fill's copy can be made: every store that it must hold is at the home, or goes to the new holder too. -/
def State.copies (s : State) (r : ROp) : Bool :=
  (r.kind == .replicate || r.kind == .migrate || r.kind == .peerFill) && r.phase == 0 && s.fillSeen r && !s.homeBehind r

/-- The context of this device that a route operation belongs to. -/
def State.localCtx (s : State) (r : ROp) : Nat :=
  match r.uid with
  | some u => match s.block? u with | some b => b.ctx | none => s.domainCtx (pfxBase r.pfx / 2 ^ 46) r.ctx
  | none => s.domainCtx (pfxBase r.pfx / 2 ^ 46) r.ctx

/-- R52, R53: REPLICATE_COPY_COMPLETE: every line copied; the holder becomes active, and a MIGRATE moves the home. What follows a copy
that a peer's authority began is that authority's. -/
def execReplicateCopyComplete (rop : Nat) (s : State) : Out :=
  .next (match tget? s.rops rop with
    | none => s
    | some r =>
      if !s.copies r then s
      else
        let c := s.localCtx r
        let s := s.copyPrefix c r.old r.holder (pfxBase r.pfx) r.len (tgetD s.filled rop [])
        let s := { s with filled := tdel s.filled rop }
        let au := (s.authority r.pfx r.len).getD 8
        let v := s.topVersion r.pfx r.len + 1
        if r.kind == .peerFill then { s with rops := tdel s.rops rop }
        else if r.kind == .replicate then
          (s.setRop rop { r with phase := 1, ver := v }).say au (mkMsg mAnnounce r.pfx r.len r.holder v r.ctx false r.lock)
        else
          ((s.setRop rop { r with phase := 2, ver := v + 1 }).say au (mkMsg mAnnounce r.pfx r.len r.holder v r.ctx false r.lock)).say au
            (mkMsg mHomemove r.pfx r.len r.holder (v + 1) r.ctx true r.lock))

/-- R53: whether the old home can send its marker: it has moved, and what it accepted before has landed at the new one. -/
def State.marks (s : State) (r : ROp) : Bool :=
  (r.kind == .migrate || r.kind == .peerFill) && r.phase == 2 &&
  (holderDev r.old != s.pkg.device || decide (r.ver ≤ (s.engine (homeEngine r.old)).version r.pfx r.len)) &&
  !(s.writes.any fun kv => kv.2.holder == r.old && kv.2.left.contains r.holder && kv.2.bytes.any fun b => inPrefix r.pfx r.len b.1) &&
  !(s.locks.any fun kv => kv.2.home == r.old && inPrefix r.pfx r.len (kv.1 * 128))

/-- R53: HANDOVER_MARKER: the new home serves what it held; the old one drains, which a peer's authority sees to for its own MIGRATE. -/
def execHandoverMarker (rop : Nat) (s : State) : Out :=
  .next (match tget? s.rops rop with
    | none => s
    | some r =>
      if !s.marks r then s
      else if r.kind == .peerFill then { s with rops := tdel s.rops rop }.release
      else
        let au := (s.authority r.pfx r.len).getD 8
        let v := s.topVersion r.pfx r.len + 1
        let s := s.setRop rop { r with phase := 3, ver := v, acks := s.domainEngines, asker := au }
        ((s.say au (mkMsg mDrain r.pfx r.len r.old v r.ctx false r.lock)).queryDomain au r.pfx r.len v r.ctx).release)

/-- R53, R96: whether a drained home can stop: one that leaves HBM has its pages' tags computed first, once every store that it accepted
has landed at the new home. -/
def State.homeDrained (s : State) (r : ROp) : Bool :=
  r.kind != .migrate || !s.leavesHbm r.old r.holder ||
  !(s.writes.any fun kv => kv.2.left.contains r.holder && kv.2.bytes.any fun b => inPrefix r.pfx r.len b.1)

/-- R53, R96: DRAIN_ACKNOWLEDGED: FINAL is sent; the holder stops and its placement is released. -/
def execDrainAcknowledged (rop : Nat) (s : State) : Out :=
  .next (match tget? s.rops rop with
    | none => s
    | some r =>
      if !r.acks.isEmpty || !s.homeDrained r then s
      else
        let gone := if r.kind == .migrate then r.old else r.holder
        let go := fun (ph : Nat) =>
          let v := s.topVersion r.pfx r.len + 1
          ((s.setRop rop { r with phase := ph, ver := v }).say ((s.authority r.pfx r.len).getD 8)
            (mkMsg mFinal r.pfx r.len gone v r.ctx false r.lock)).unplace gone r.pfx r.len
        match r.kind, r.phase with
        | .withdraw, 0 => go 1
        | .migrate, 3 => if s.leavesHbm r.old r.holder then (go 4).tagPages (s.localCtx r) r.holder r.pfx r.len else go 4
        | _, _ => s)

/-! ### Failures -/

/-- R54, R176: contexts whose stores had committed at a failed holder alone are lost: no holder that still takes the prefix's stores
has applied them. -/
def State.loseStores (s : State) (pfx len holder : Nat) : State :=
  s.writes.foldl (fun s kv =>
    let w := kv.2
    if w.holder == holder && w.bytes.any (fun b => inPrefix pfx len b.1) then
      if (s.entriesNow pfx len).all fun e => e.holder == holder || !e.receives || w.left.contains e.holder then
        (({ s with writes := tdel s.writes kv.1 }).uncount w.core w.round).lose w.ctx 0x13
      else s
    else s) s

/-- R47, R54: a failed holder leaves the sets of locks and of propagations. -/
def State.leaveSets (s : State) (pfx len holder : Nat) : State :=
  let s := s.locks.foldl (fun s kv => if inPrefix pfx len (kv.1 * 128) then s.acknowledge kv.1 holder else s) s
  s.writes.foldl (fun s kv =>
    if kv.2.left.contains holder && kv.2.bytes.any (fun b => inPrefix pfx len b.1) then s.wrDone kv.1 kv.2 holder else s) s

/-- R50, R52, R54: operations that depended on a failed holder return HFAIL; a holder that was being filled is freed. -/
def State.failRops (s : State) (au pfx len holder : Nat) : State :=
  s.rops.foldl (fun s kv =>
    let r := kv.2
    let on := r.pfx == pfx && r.len == len
    match r.kind with
    | .replicate | .migrate =>
      if !on || (r.holder != holder && r.old != holder) then s
      else
        let s := s.endRop kv.1 12
        if r.phase = 0 ∧ r.holder ≠ holder then
          (s.say au (mkMsg mFinal pfx len r.holder (s.topVersion pfx len + 1) r.ctx false r.lock)).unplace r.holder pfx len
        else s
    | .withdraw => if on && r.holder == holder then s.endRop kv.1 12 else s
    | .peerFill => if on && (r.holder == holder || r.old == holder) then (s.endRop kv.1 12).release else s
    | _ => s) s

/-- R54: whether a holder is still there for an engine: its die is in service and a path leads to it. -/
def State.remains (s : State) (eng holder : Nat) : Bool :=
  if holderDev holder = s.pkg.device then
    s.dieLive (holderDie holder) && s.dieLive (homeEngine holder) && s.joined eng (homeEngine holder) && s.joined eng (holderDie holder)
  else s.peerUp (holderDev holder) && s.joined eng 8

/-- R54: by an engine's table, the least ACTIVE holder of a prefix that remains, or else the least DRAINING one. -/
def State.leastRemaining (s : State) (eng pfx len : Nat) : Option Entry :=
  let least := fun (st : EState) =>
    ((s.engine eng).entries.filter fun x => x.pfx == pfx && x.len == len && x.st == st && s.remains eng x.holder).foldl
      (fun (m : Option Entry) x => match m with | none => some x | some y => if x.holder < y.holder then some x else some y) none
  match least .active with
  | some x => some x
  | none => least .draining

/-- R47, R54: the locks of a prefix whose home has failed. Where a replica here is promoted it takes the lines' writes from now on, and
locks only the others; else writes that no home has taken are resolved again. -/
def State.moveLocks (s : State) (pfx len old : Nat) (new : Option Nat) : State :=
  s.locks.foldl (fun s kv =>
    if kv.2.home != old || !inPrefix pfx len (kv.1 * 128) then s
    else match tget? s.locks kv.1, new with
      | none, _ => s
      | some l, some h =>
        if l.applied then { s with locks := tset s.locks kv.1 { l with home := h } }
        else
          let l' := { l with home := h, acks := l.acks.filter fun k => k != h, locked := l.locked.filter fun k => k != h }
          let s := { s with locks := tset s.locks kv.1 l' }
          if l.acks == [h] then s.applyLocked kv.1 else s
      | some l, none =>
        let s := s.dues (l.queue.map Instr.requestHoldRelease)
        if l.applied then { s with locks := tset s.locks kv.1 { l with queue := [] } }
        else { s with locks := tdel s.locks kv.1 }.unlockLoads kv.1) s

/-- R54: what follows once FAIL has been applied for a holder, at the authority `au` or as it comes from a peer's: stores lost, locks
and propagations without it, HFAIL, and, where it was the home, its promotion: of the least holder that remains, by that holder's
own engine, which for a peer's holder is not this device's. -/
def State.afterFail (s : State) (au pfx len holder : Nat) (home : Bool) : State :=
  let s := (((s.loseStores pfx len holder).leaveSets pfx len holder).failRops au pfx len holder)
  if !home then s
  else match s.leastRemaining au pfx len with
    | none => s.moveLocks pfx len holder none
    | some x =>
      if holderDev x.holder ≠ s.pkg.device then s.moveLocks pfx len holder none
      else
        -- a withdrawal of the promoted holder ends with HFAIL
        let s := s.rops.foldl (fun s kv =>
          if kv.2.kind == .withdraw && kv.2.pfx == pfx && kv.2.len == len && kv.2.holder == x.holder then s.endRop kv.1 12 else s) s
        let s := s.say (homeEngine x.holder) (mkMsg mHomemove pfx len x.holder (s.topVersion pfx len + 1) x.ctx true x.lock)
        s.moveLocks pfx len holder (some x.holder)

/-- R54: FAIL sent by an authority at version `v`, and what follows from it. -/
def State.failAt (s : State) (au pfx len holder v : Nat) : State :=
  match ((s.engine au).entry? pfx len holder).or (s.entryNow pfx len holder) with
  | none => s
  | some e => (s.say au (mkMsg mFail pfx len holder v e.ctx e.home e.lock)).afterFail au pfx len holder e.home

/-- R54: a takeover begun: the new authority asks every engine for its version. -/
def State.takeOver (s : State) (eng pfx len : Nat) : State :=
  if s.rops.any fun kv => kv.2.kind == .takeover && kv.2.pfx == pfx && kv.2.len == len then s
  else
    match (s.engine eng).entries.find? fun e => e.pfx == pfx && e.len == len with
    | none => s
    | some e =>
      let old := (((s.engine eng).entries.find? fun x => x.pfx == pfx && x.len == len && x.home).map Entry.holder).getD 0
      let (id, s) := s.takeId
      (s.setRop id
        { kind := .takeover, uid := none, op := 0, ctx := e.ctx, die := eng, pfx := pfx, len := len, holder := 0, old := old
          lock := e.lock, phase := 0, ver := 0, acks := s.domainEngines, dst := none, status := 0, asker := eng }).queryDomain eng pfx len 0 e.ctx

/-- R54: AUTHORITY_TAKEOVER. -/
def execAuthorityTakeover (eng pfx len : Nat) (s : State) : Out := .next (if s.dieLive eng then s.takeOver eng pfx len else s)

/-- R54: whether the authority of a prefix with this home can act: its die is in service and a path leads to it. -/
def State.authorityActs (s : State) (eng : Nat) (home : Entry) : Bool :=
  if holderDev home.holder = s.pkg.device then s.dieLive (homeEngine home.holder) && s.joined eng (homeEngine home.holder)
  else s.peerUp (holderDev home.holder)

/-- R54: HOLDER_FAILURE: the engine marks its own entry and reports; a report already handled changes nothing. Where the authority cannot
act, the engine of the least holder that remains takes over: that of a peer's holder does so there, and with none the data is lost. -/
def State.failHolder (s : State) (eng pfx len holder : Nat) : State :=
  let home := s.homeNow pfx len
  let en := s.engine eng
  match en.entry? pfx len holder with
  | none => s
  | some e =>
    let s := s.setEngine eng { en with entries := en.entries.map fun x => if x = e then { e with st := .failed } else x }
    if e.st == .failed then s
    else match home with
      | none => s.failAt eng pfx len holder (s.topVersion pfx len + 1)
      | some h =>
        if s.authorityActs eng h then
          let k := s.authOf h
          let gone := (s.engine k).retired.any fun r => r.pfx == pfx && r.len == len && r.holder == holder && decide (e.ver ≤ r.ver)
          let known : Bool := match (s.engine k).entry? pfx len holder with | some x => k == eng || x.st != .failed | none => !gone
          if known then s.failAt k pfx len holder (s.topVersion pfx len + 1) else s
        else match s.leastRemaining eng pfx len with
          | some x => if holderDev x.holder = s.pkg.device then s.due (.authorityTakeover (homeEngine x.holder) pfx len) else s
          | none => s.afterFail eng pfx len holder false

/-- R54: HOLDER_FAILURE. -/
def execHolderFailure (eng pfx len holder : Nat) (s : State) : Out := .next (s.failHolder eng pfx len holder)

/-- R54: whether the version after a failure has converged, so that the FAILED entry can be freed. -/
def State.converged (s : State) (k pfx len : Nat) : Bool :=
  let v := (s.engine k).version pfx len
  ((List.range 9).filter s.dieLive).all fun j => decide (v ≤ (s.engine j).version pfx len)

/-- R54: TOMBSTONE. -/
def execTombstone (eng pfx len holder : Nat) (s : State) : Out :=
  .next (match (s.engine eng).entry? pfx len holder with
    | none => s
    | some e =>
      if e.st == .failed && s.authority pfx len == some eng && s.converged eng pfx len then
        (s.say eng (mkMsg mFinal pfx len holder (s.topVersion pfx len + 1) e.ctx false e.lock)).unplace holder pfx len
      else s)

/-- R47, R54: LOCK_ACK_TIMEOUT: a holder that has not acknowledged a lock in time is withdrawn by failure. -/
def execLockAckTimeout (line holder : Nat) (s : State) : Out :=
  .next (match tget? s.locks line with
    | none => s
    | some l =>
      if !l.acks.contains holder || s.paused holder (line * 128) then s
      else
        let eng := if holderDev l.home = s.pkg.device then homeEngine l.home else 8
        match (s.engine eng).entries.find? fun e => e.covers (line * 128) && e.holder == holder with
        | some e => s.failHolder eng e.pfx e.len holder
        | none => s.acknowledge line holder)

/-- R53, R54, R58: what an operation does once every engine in its fence's scope has answered. -/
def State.fenced (s : State) (id : Nat) : State :=
  match tget? s.rops id with
  | none => s
  | some r =>
    if !r.acks.isEmpty then s
    else match r.kind with
      | .rfence => s.endRop id 0
      | .takeover => (s.endRop id 0).failAt r.die r.pfx r.len r.old (r.ver + 1)
      | .withdraw | .migrate => s.due (.drainAcknowledged id)
      | _ => s

/-- R41, R58: whether an operation waits for this FACK: it was asked by the engine that the path's first element names, of the prefix, and
the engine that the second names has still to answer; a fence's answer has the version fenced. -/
def State.answers (s : State) (m : Msg) (r : ROp) : Bool :=
  let el := m.path.getD 1 (0, 2 ^ 20)
  m.path.headD (0, 2 ^ 20) == (s.pkg.device, r.asker) && r.pfx == m.pfx && r.len == m.len && r.acks.contains (el.1 * 16 + el.2) &&
  (r.kind == .takeover || r.ver == m.ver)

/-- The operation that a FACK answers: a fence that waits for it before a takeover, whose answer may have any version
(notes/assumptions/79.md). -/
def State.answered (s : State) (m : Msg) : Option (Nat × ROp) :=
  match s.rops.find? fun kv => kv.2.kind != .takeover && s.answers m kv.2 with
  | some x => some x
  | none => s.rops.find? fun kv => s.answers m kv.2

/-- R41, R58: FACK: an engine has answered an operation's fence. -/
def execFack (eng : Nat) (_hop : Hop) (m : Msg) (s : State) : Out :=
  .next (if m.rsv ≠ 0 then s.discard eng
    else match s.answered m with
      | none => s
      | some (id, r) =>
        let el := m.path.getD 1 (0, 2 ^ 20)
        (s.setRop id { r with
          acks := r.acks.filter fun k => k != el.1 * 16 + el.2
          ver := if r.kind == .takeover then max r.ver m.ver else r.ver }).fenced id)

/-! ### What the routes' state makes due -/

/-- Events of route operations and failures that can happen now. -/
def State.routeEvents (s : State) : List Instr :=
  (s.rops.flatMap fun kv =>
    (if s.copies kv.2 then [.replicateCopyComplete kv.1] else []) ++ (if s.marks kv.2 then [.handoverMarker kv.1] else []) ++
    if kv.2.kind == .migrate && kv.2.phase == 3 && kv.2.acks.isEmpty && s.leavesHbm kv.2.old kv.2.holder && s.homeDrained kv.2 then
      [.drainAcknowledged kv.1] else []) ++
  s.engines.flatMap fun ke => (ke.2.entries.filter fun e =>
    e.st == .failed && s.authority e.pfx e.len == some ke.1 && s.converged ke.1 e.pfx e.len).map fun e => .tombstone ke.1 e.pfx e.len e.holder

/-! ### The memory processor's own routes -/

/-- R53, R95, R97: a home moved by the memory processor, as MIGRATE moves it: a holder FILLING, the copy, then the home; where the new
home is `there` as an active replica, the home alone. -/
def State.moveHome (s : State) (home : Entry) (to' die : Nat) (there : Bool) : State :=
  let v := s.topVersion home.pfx home.len + 1
  let s := if there then s else s.place to' home.pfx home.len
  let (id, s) := s.takeId
  let rop : ROp :=
    { kind := .migrate, uid := none, op := 0, ctx := home.ctx, die := die, pfx := home.pfx, len := home.len, holder := to', old := home.holder
      lock := home.lock, phase := if there then 2 else 0, ver := v, acks := [], dst := none, status := 0 }
  if there then
    { s with rops := tset s.rops id rop }.say (s.authOf home) (mkMsg mHomemove home.pfx home.len to' v home.ctx true home.lock)
  else ({ s with rops := tset s.rops id rop, filled := tset s.filled id [] }).say (s.authOf home)
    (mkMsg mFill home.pfx home.len to' v home.ctx false home.lock)

/-- R36, R85: the holder number of this package's host memory. -/
def hostHolder (dev : Nat) : Nat := mkHolder dev 8 4

/-- R201, R398: a home announced by the memory processor. -/
def State.announceHome (s : State) (holder pfx len ctx : Nat) (lock : Bool) : State :=
  (s.place holder pfx len).say 8 (mkMsg mAnnounce pfx len holder (s.topVersion pfx len + 1) ctx true lock)

/-- R42, R50, R53: one holder withdrawn by the memory processor. One that serves nothing is freed at once. -/
def State.withdrawOne (s : State) (e : Entry) : State :=
  let au := (s.authority e.pfx e.len).getD 8
  let v := s.topVersion e.pfx e.len + 1
  if !e.serving then (s.say au (mkMsg mFinal e.pfx e.len e.holder v e.ctx false e.lock)).unplace e.holder e.pfx e.len
  else
    let (id, s) := s.takeId
    let r : ROp :=
      { kind := .withdraw, uid := none, op := 0, ctx := e.ctx, die := au, pfx := e.pfx, len := e.len, holder := e.holder, old := 0
        lock := e.lock, phase := 0, ver := v, acks := s.domainEngines, dst := none, status := 0, asker := au }
    ((s.setRop id r).say au (mkMsg mDrain e.pfx e.len e.holder v e.ctx false e.lock)).queryDomain au e.pfx e.len v e.ctx

/-- R42: every holder of a prefix withdrawn by the memory processor. -/
def State.withdrawAll (s : State) (pfx len : Nat) : State := (s.entriesNow pfx len).foldl State.withdrawOne s

/-- R50: whether the memory processor's own withdrawals of a context's prefixes still run. -/
def State.withdrawing (s : State) (c : Nat) : Bool :=
  s.rops.any fun kv => kv.2.uid.isNone && kv.2.kind == .withdraw && kv.2.ctx == s.routeCtx c

/-- R201: the fewest aligned prefixes of lengths 8 to 42 that cover a run of 16 KiB pages exactly: (PFX, LEN) of each. -/
def coverRun : Nat → Nat → Nat → List (Nat × Nat)
  | 0, _, _ => []
  | fuel + 1, page, n =>
    if n = 0 then []
    else
      let k := ((List.range 35).reverse.find? fun k => page % 2 ^ k == 0 && decide (2 ^ k ≤ n)).getD 0
      (page, 42 - k) :: coverRun fuel (page + 2 ^ k) (n - 2 ^ k)

/-- The prefixes of every length at which the device's engines hold entries within an RA range. -/
def State.prefixesIn (s : State) (base size : Nat) : List (Nat × Nat) :=
  (((List.range 9).flatMap fun k => (s.engine k).entries.filter fun e =>
    decide (base ≤ pfxBase e.pfx) && decide (pfxBase e.pfx + pfxSize e.len ≤ base + size)).map fun e => (e.pfx, e.len)).eraseDups

end Sys2Proof.Machine
end

