-- ==== Sys2Proof/Machine/StreamAcc.lean ====
section
/-! DEFINITION. The stream accumulator (R200 to R219, R372 to R377) and the drains of tiles (R371). -/

namespace Sys2Proof.Machine

open Sys2Proof

/-! ### Rows -/

/-- R206: a contribution rounded to the grid of an anchor, or none where it flags the element. -/
def toGrid (anchor : Int) (v : Fp) : Option Int :=
  match v with
  | .fin neg m e =>
    -- |v| >= 2^(A+47)
    let big := if anchor + 47 ≤ e then m != 0 else decide (2 ^ (anchor + 47 - e).toNat ≤ m)
    if big then none else some (roundInt .rne neg m (e - (anchor - 80))).1
  | _ => none

/-- A row of zeros. -/
def Row.zero (die seg off tag len : Nat) (anchor : Int) : Row :=
  { st := .live, w := [], flag := [], sum := 0, ssq := 0, count := 0, restored := false, ovf := false, die := die, seg := seg, off := off
    tag := tag, len := len, anchor := anchor, poison := false }

/-- R33: a row as the owner of a tag finds it: another owner's holds zeros. -/
def Row.as (r : Row) (tag : Nat) : Row := if r.tag = tag then r else Row.zero r.die r.seg r.off tag r.len r.anchor

def Row.at' (r : Row) (i : Nat) : Int := (tgetD r.w i 0).toInt
def Row.flagged (r : Row) (i : Nat) : Bool := tgetD r.flag i false

/-- R204: the guard bits of an element agree. -/
def guardOk (w : Int) : Bool := decide (-(2 ^ 119 : Int) ≤ w) && decide (w < 2 ^ 119)

/-- R207: an element's new value, with the moments moved by exactly what it changes. -/
def Row.put (r : Row) (i : Nat) (w : BitVec 128) : Row :=
  let old := r.at' i
  let d := w.toInt - old
  { r with
    w := tput 0 r.w i w
    ssq := r.ssq + BitVec.ofInt 272 (2 * old * d + d * d)
    sum := r.sum + BitVec.ofInt 160 d }

/-- R206: an element flagged: it leaves the moments and ignores what follows. -/
def Row.flagAt (r : Row) (i : Nat) : Row :=
  if r.flagged i then r else { (r.put i 0) with flag := tset r.flag i true, ovf := true }

/-- R206, R207: one contribution. -/
def Row.addOne (r : Row) (i : Nat) (v : Fp) : Row :=
  if r.flagged i then r
  else match toGrid r.anchor v with
    | none => r.flagAt i
    | some c => r.put i (BitVec.ofInt 128 (r.at' i + c))

/-- R208: the contributions of one event; COUNT saturates. -/
def Row.add (r : Row) (first : Nat) (vs : List Fp) : Row :=
  let r := ((List.range vs.length).zip vs).foldl (fun r iv => r.addOne (first + iv.1) iv.2) r
  { r with count := min 0xFFFFFFFF (r.count + 1) }

/-! ### The normalising port -/

/-- RNE_f32 of an exact quotient num / den x 2^e. -/
def roundQuot (num : Int) (den : Nat) (e : Int) : Res :=
  if num = 0 then (0, 0)
  else
    let n := num.natAbs * 2 ^ 96
    roundMag .f32 .rne false (decide (num < 0)) ⟨n / den, e - 96, n % den != 0⟩

/-- R209, R210: r of a row: the correctly rounded reciprocal square root of its mean square (or variance) plus epsilon. -/
def Row.scale (r : Row) (layer : Bool) (eps : Nat) : Res :=
  let n := r.len
  match Fmt.decode .f32 eps with
  | .nan .. => (Fmt.genNan .f32, Flg.nv)
  | .inf neg => if neg then (Fmt.genNan .f32, Flg.nv) else (0, 0)
  | .fin neg m e =>
    let s2 := (r.ssq.toNat : Int) * n - (if layer then r.sum.toInt * r.sum.toInt else 0)
    let k0 := min (2 * r.anchor - 160) e
    let num := s2 * 2 ^ (2 * r.anchor - 160 - k0).toNat + signed neg m * 2 ^ (e - k0).toNat * (n * n : Nat)
    if num < 0 then (Fmt.genNan .f32, Flg.nv)
    else if num = 0 then (Fmt.infCode .f32, Flg.dz)
    else
      -- 1 / sqrt (num / n^2 x 2^k) with k even
      let odd := k0 % 2 != 0
      let m := if odd then num.natAbs * 2 else num.natAbs
      let k := if odd then k0 - 1 else k0
      let s := Nat.log2 m / 2 + 80
      let q := n * n * 4 ^ s
      let root := isqrt (q / m)
      roundMag .f32 .rne false false ⟨root, -(s : Int) - k / 2, q % m != 0 || root * root != q / m⟩

/-- R209, R210: u of an element. -/
def Row.norm (r : Row) (layer : Bool) (sc : Nat) (i : Nat) : Res :=
  let w := r.at' i
  let t : Res :=
    if r.flagged i then (Fmt.genNan .f32, Flg.nv)
    else if !guardOk w then (Fmt.withSign .f32 (decide (w < 0)) (Fmt.infCode .f32), Flg.of)
    else roundQuot (w * r.len - (if layer then r.sum.toInt else 0)) r.len (r.anchor - 80)
  let u := fpMul .f32 .rne false t.1 sc
  (u.1, t.2 ||| u.2)

/-- R211: an exact product of two f32 rounded once to another format. -/
def mulTo (t : Fmt) (a b : Nat) : Res :=
  match [a, b].find? fun x => (Fmt.decode .f32 x).isNan with
  | some x =>
    let q := narrow t .rne false (Fmt.quiet .f32 x)
    (q.1, Flg.when ([a, b].any fun y => (Fmt.decode .f32 y).isSnan) Flg.nv)
  | none => sumTerms t .rne false [mulTerm (Fmt.decode .f32 a) (Fmt.decode .f32 b)]

/-- R209: the gain of an element: 1.0 where no vector is named. -/
def oneF32 : Nat := 0x3F800000

/-- R209, R211: the outputs of elements `first` on, in f32 or bf16: bytes and flags. -/
def Row.plainOut (r : Row) (t : Fmt) (layer : Bool) (sc : Nat) (gain : Nat → Nat) (first n : Nat) : List Byte × Flg :=
  (List.range n).foldl (fun (acc : List Byte × Flg) j =>
    let u := r.norm layer sc (first + j)
    let y := mulTo t u.1 (gain (first + j))
    (acc.1 ++ natLe (fmtBytes t) y.1, acc.2 ||| u.2 ||| y.2)) ([], 0)

/-- R198: whether the rounding of one element under a scale overflows. -/
def quantOver (x code : Nat) : Bool :=
  match Fmt.decode .f32 x, Fmt.decode .e4m3 code with
  | .fin neg m e, .fin _ k f =>
    m != 0 && (roundMag .e4m3 .rne false neg ⟨m * 2 ^ 64 / k, e - f - 64, m * 2 ^ 64 % k != 0⟩).2 &&& Flg.of != 0
  | _, _ => false

/-- R211: the e4m3 outputs: the whole row encoded under one scale; the image of the elements named and the flags. -/
def Row.quantOut (r : Row) (layer : Bool) (sc : Nat) (gain : Nat → Nat) (first n : Nat) : List Byte × Flg :=
  let us := (List.range r.len).map fun i =>
    let u := r.norm layer sc i
    let w := fpMul .f32 .rne false u.1 (gain i)
    ((w.1, u.2 ||| w.2) : Res)
  let ws := us.map Prod.fst
  let (code, es, bad) := quantBlock ws
  let differs := (ws.zip es).any fun we =>
    let d := (dequant we.2 code).1
    let x := Fmt.decode .f32 we.1
    let y := Fmt.decode .f32 d
    if x.isNan then !y.isNan else y.isNan || fpCmp x y != 0
  let clipped := !bad && code != 0 && ws.any fun w => quantOver w code
  let body := ((es.drop first).take n).map fun e => (BitVec.ofNat 8 e : Byte)
  (body ++ List.replicate ((16 - n % 16) % 16) 0 ++ [BitVec.ofNat 8 code] ++ List.replicate 15 0,
   us.foldl (fun f u => f ||| u.2) 0 ||| Flg.when differs Flg.nx ||| Flg.when clipped Flg.of)

/-! ### Images -/

/-- R205: the header of a row's image. -/
def Row.header (r : Row) (narrow : Bool) : List Byte :=
  natLe 20 r.sum.toNat ++ natLe 34 r.ssq.toNat ++ natLe 4 r.count ++ natLe 2 (r.len - 1) ++
    natLe 2 (BitVec.ofInt 12 r.anchor).toNat ++
    natLe 1 ((if r.st == .sealed then 1 else 0) + (if narrow then 4 else 0) + (if r.restored then 8 else 0) + if r.ovf then 16 else 0) ++
    natLe 1 0xA7

/-- R215: an element in the sealed-narrow image. -/
def Row.narrowed (r : Row) (i : Nat) : Nat :=
  let w := r.at' i
  let neg := decide (w < 0)
  if r.flagged i then Fmt.genNan .f32
  else if !guardOk w then Fmt.withSign .f32 neg (Fmt.infCode .f32)
  else if w = 0 then 0
  else
    let mag : Mag := ⟨w.natAbs, r.anchor - 80, false⟩
    let x := (roundMag .f32 .rne false neg mag).1
    let big := match Fmt.decode .f32 x with
      | .fin _ m e => if r.anchor + 39 ≤ e then m != 0 else decide (2 ^ (r.anchor + 39 - e).toNat ≤ m)
      | _ => true
    if big then (roundMag .f32 .rtz false neg mag).1 else x

/-- R214, R215: an image. -/
def Row.image (r : Row) (narrow : Bool) : List Byte :=
  r.header narrow ++ (List.range r.len).flatMap fun i => if narrow then natLe 4 (r.narrowed i) else natLe 16 (tgetD r.w i 0).toNat

/-- R216: whether a header fits a row: MAGIC, LENM1, ANCHOR, zero fields, state codes. -/
def Row.fits (r : Row) (hd : List Byte) : Bool :=
  let st := (hd.getD 62 0).toNat
  hd.getD 63 0 == 0xA7 && leNat ((hd.drop 58).take 2) == r.len - 1 && leNat ((hd.drop 60).take 2) == (BitVec.ofInt 12 r.anchor).toNat &&
    st / 32 == 0 && decide (st % 4 ≤ 1) && !(st / 4 % 2 == 1 && st % 4 == 0)

/-- R215: an element restored from its f32; none where it is flagged. -/
def Row.restore (r : Row) (x : Nat) : Option (BitVec 128) :=
  let inf := fun (neg : Bool) => some (BitVec.ofInt 128 (if neg then -(2 ^ 126 : Int) else 2 ^ 126))
  match Fmt.decode .f32 x with
  | .nan .. => none
  | .inf neg => inf neg
  | .fin neg m e =>
    let big := if r.anchor + 39 ≤ e then m != 0 else decide (2 ^ (r.anchor + 39 - e).toNat ≤ m)
    if big then inf neg else some (BitVec.ofInt 128 (roundInt .rne neg m (e - (r.anchor - 80))).1)

/-- R214, R215: a row installed from an image that fits. -/
def Row.install (r : Row) (img : List Byte) (seg off : Nat) : Row :=
  let st := (img.getD 62 0).toNat
  let isNarrow := st / 4 % 2 == 1
  let base := { r with
    st := if st % 4 = 1 then .sealed else .live, w := [], flag := [], seg := seg, off := off
    sum := BitVec.ofNat 160 (leNat (img.take 20)), ssq := BitVec.ofNat 272 (leNat ((img.drop 20).take 34))
    count := leNat ((img.drop 54).take 4), restored := isNarrow || st / 8 % 2 == 1, ovf := st / 16 % 2 == 1 }
  let body := img.drop 64
  (List.range r.len).foldl (fun (x : Row) i =>
    if isNarrow then
      match r.restore (leNat ((body.drop (4 * i)).take 4)) with
      | some w => { x with w := tput 0 x.w i w }
      | none => { x with flag := tset x.flag i true }
    else { x with w := tput 0 x.w i (BitVec.ofNat 128 (leNat ((body.drop (16 * i)).take 16))) }) base

/-! ### Places and sets -/

/-- R201: the first gap of `n` bytes between `lo` and `hi` beside spans in rising order. -/
def firstGap (lo hi n : Nat) : List (Nat × Nat) → Option Nat
  | [] => if lo + n ≤ hi then some lo else none
  | (o, z) :: t => if lo + n ≤ o then some lo else firstGap (max lo (o + z)) hi n t

/-- R205: the bytes of a row. -/
def rowBytes (len : Nat) : Nat := 64 + 16 * len

/-- The spans that rows take in a segment of a die's store, in rising order. -/
def State.segSpans (s : State) (die seg : Nat) : List (Nat × Nat) :=
  (s.rows.foldl (fun (t : Tab Nat) kv =>
    if kv.2.die == die && kv.2.seg == seg && kv.2.st != .evicted then tset t kv.2.off (rowBytes kv.2.len) else t) [])

/-- R201: the place of a new row on a die, first-fit: segment and offset. -/
def State.fitRow (s : State) (die n : Nat) : Option (Nat × Nat) :=
  (List.range 16).findSome? fun seg =>
    (firstGap (if seg = 15 then 5 * 2 ^ 20 else 0) (6 * 2 ^ 20) n (s.segSpans die seg)).map fun o => (seg, o)

/-- R200: log2 of the row pitch in pages. -/
def pitchLog (len : Nat) : Nat := ((List.range 7).find? fun k => decide (rowBytes len ≤ 2 ^ (14 + k))).getD 6

/-- R200: a set's handle. -/
def handleOf (nrows logp base : Nat) : W64 := BitVec.ofNat 64 ((nrows - 1) * 2 ^ 45 + logp * 2 ^ 42 + base)

/-- R201: the home die of a row among the live dies of a mask. -/
def homeDie (dies : List Nat) (nrows r : Nat) : Nat := dies.getD (r * dies.length / nrows) 0

/-- R35: the pages of a device's part, counted from its first, that are assigned or that still have route entries or retired records
here: first page and number. -/
def State.takenPages (s : State) (dev : Nat) : List (Nat × Nat) :=
  let routed : List (Nat × Nat) := (List.range 9).flatMap fun k =>
    ((s.engine k).entries.map fun e => (e.pfx, pagesOf e.len)) ++ (s.engine k).retired.map fun r => (r.pfx, pagesOf r.len)
  let granted : List (Nat × Nat) := s.ctxs.flatMap fun kv => (kv.2.grants.filter fun g => g.kind != 4).map fun g =>
    (g.ra / 2 ^ 14, (g.len + 2 ^ 14 - 1) / 2 ^ 14)
  let sets : List (Nat × Nat) := s.rowSets.map fun kv => (kv.1, kv.2.nrows * kv.2.pitch)
  (routed ++ granted ++ sets).filterMap fun x =>
    if dev * 2 ^ 32 ≤ x.1 ∧ x.1 < (dev + 1) * 2 ^ 32 then some (x.1 - dev * 2 ^ 32, x.2) else none

/-- R35: the first page from `lo` up at which `n` aligned pages meet none of those taken. -/
def freePagesFrom (taken : List (Nat × Nat)) (n align : Nat) : Nat → Nat → Nat
  | 0, lo => lo
  | fuel + 1, lo =>
    match taken.find? fun x => decide (x.1 < lo + n) && decide (lo < x.1 + x.2) with
    | none => lo
    | some x => freePagesFrom taken n align fuel ((x.1 + x.2 + align - 1) / align * align)

/-- R35, R68: a range of pages of a device's part of the RA space, aligned as asked: its first page. DESIGN CHOICE: another device,
whose memory processor assigns its own part, gives the next range that none of this device's members has and that no route is known for
(notes/assumptions/62.md). -/
def State.takePages (s : State) (dev n align : Nat) : Option (Nat × State) :=
  let at' := fun (next : Nat) => (max 1 next + align - 1) / align * align
  if dev = s.pkg.device then
    let lo := at' s.raNext
    if 2 ^ 32 < lo + n then none else some (dev * 2 ^ 32 + lo, { s with raNext := lo + n })
  else
    let taken := s.takenPages dev
    let lo := freePagesFrom taken n align (taken.length + 1) (at' (tgetD s.raPeer dev 0))
    if 2 ^ 32 < lo + n then none else some (dev * 2 ^ 32 + lo, { s with raPeer := tset s.raPeer dev (lo + n) })

/-- The rows of a set put in their homes' stores, or none. -/
def State.placeRows (s : State) (dies : List Nat) (nrows len tag base pitch : Nat) (anchor : Int) : Nat → Option State
  | 0 => some s
  | k + 1 =>
    let r := nrows - (k + 1)
    let d := homeDie dies nrows r
    match s.fitRow d (rowBytes len) with
    | none => none
    | some (seg, off) =>
      placeRows { s with rows := tset s.rows (base + r * pitch) (Row.zero d seg off tag len anchor) } dies nrows len tag base pitch
        anchor k

/-- R201, R202: a set allocated: its handle, or none where a store, the RA space or the quota has no room. -/
def State.allocRows (s : State) (c : Nat) (dies : List Nat) (nrows len : Nat) (anchor : Int) (grid : Option Nat) : Option (W64 × State) :=
  let logp := pitchLog len
  let pitch := 2 ^ logp
  match s.takePages (s.domainDev c) (nrows * pitch) pitch with
  | none => none
  | some (base, s) =>
    let tag := s.ownerOf (keyHolder (mkHolder s.pkg.device 0 3) 0) c
    let runs := dies.map fun d => (d, (List.range nrows).filter fun r => homeDie dies nrows r == d)
    let pfxs := runs.flatMap fun dr => match dr.2 with
      | [] => []
      | r0 :: _ => (coverRun 64 (base + r0 * pitch) (dr.2.length * pitch)).map fun p => (dr.1, p.1, p.2)
    if !s.quotaTakes c pfxs.length then none
    else match s.placeRows dies nrows len tag base pitch anchor nrows with
      | none => none
      | some s =>
        let h := handleOf nrows logp base
        let s := { s with rowSets := tset s.rowSets base { ctx := c, handle := h, nrows := nrows, pitch := pitch, len := len, grid := grid } }
        some (h, pfxs.foldl (fun s p =>
          let hd := mkHolder s.pkg.device p.1 3
          (s.charge hd p.2.1 p.2.2 (s.routeCtx c)).announceHome hd p.2.1 p.2.2 (s.routeCtx c) false) s)

/-- R202: a set freed: its prefixes withdrawn and its space freed. -/
def State.freeRows (s : State) (base : Nat) : State :=
  match tget? s.rowSets base with
  | none => s
  | some rs =>
    let s := (s.prefixesIn (base * 2 ^ 14) (rs.nrows * rs.pitch * 2 ^ 14)).foldl (fun s p => s.withdrawAll p.1 p.2) s
    { s with rows := tclear s.rows base (base + rs.nrows * rs.pitch), rowSets := tdel s.rowSets base }

/-! ### Reaching a row -/

/-- R203, R372: what naming a row finds. -/
inductive RowRef where
  | bad
  | gone (ra : Nat)
  | lost (ra : Nat)
  | wait (ra : Nat) (why : Held)
  | row (page : Nat)
  deriving DecidableEq, Repr

/-- R200, R203: a row of a handle, as an instruction of a die reaches it. -/
def State.rowRef (s : State) (die : Nat) (h : W64) (row : Nat) : RowRef :=
  let n := h.toNat / 2 ^ 45 + 1
  let logp := h.toNat / 2 ^ 42 % 8
  let base := h.toNat % 2 ^ 42
  let page := base + row * 2 ^ logp
  if logp = 7 ∨ n ≤ row then .bad
  else match tget? s.rowSets base with
    | some rs =>
      if rs.handle ≠ h then .gone (page * 2 ^ 14)
      else match (s.engine die).resolve (page * 2 ^ 14) true false with
        | .toward _ => .row page
        | .held .lostData => .lost (page * 2 ^ 14)
        | .held w => .wait (page * 2 ^ 14) w
    | none => .gone (page * 2 ^ 14)

/-- R40: a request to an RA without backing: its context is lost. -/
def State.rowGone (s : State) (h : SHere) (acc ra : Nat) : State :=
  s.faults (h.who acc) true [⟨⟨0xFF, 0, 16⟩, 0x23, ra, 0, 1⟩]

/-- R40: a row's home cannot be reached yet: the instruction waits, for as long as a held request may. -/
def State.rowWaits (s : State) (h : SHere) (ra : Nat) (w : Held) : State :=
  (s.callFor (.stream h.uid .seq) h.b.ctx h.b.die 0 ra true w).waits

/-- R54, R218: a row that was lost with its home: naming it consumes lost data. -/
def State.rowLost (s : State) (h : SHere) (acc ra : Nat) : State := s.poisoned (h.who acc) ra (s.lostStore h.b.die ra)

def State.setRow (s : State) (page : Nat) (r : Row) : State := { s with rows := tset s.rows page r }

/-- R33: the tag under which a context's instructions reach rows. -/
def State.rowTag (s : State) (c : Nat) : Nat := s.ownerOf (keyHolder (mkHolder s.pkg.device 0 3) 0) c

/-- R212: whether a sequencer waits in SAWAIT. -/
def Seq.inSawait (q : Seq) : Bool := match q.run with | some r => (match r.blk with | some (.sawait ..) => true | _ => false) | none => false

/-- R212: a SAWAIT at a row, decided by what its home now holds: EVICTED, or the count it waits for. The first decision stands. -/
def Run.decided (page : Nat) (rw : Row) (r : Run) : Run :=
  match r.blk with
  | some (.sawait p st want k none) =>
    if p ≠ page then r
    else if rw.st == .evicted then { r with blk := some (.sawait p st want k (some 1)) }
    else if want ≤ rw.count then { r with blk := some (.sawait p st want k (some 0)) }
    else r
  | _ => r

/-- R212: a row as its home now holds it: the waits at it are decided, and the sequencers that wait in SAWAIT go on. -/
def State.decideRow (s : State) (page : Nat) (rw : Row) : State :=
  let mark := fun (q : Seq) => { q with run := q.run.map (Run.decided page rw), saved := q.saved.map (Run.decided page rw) }
  let s := { s.setRow page rw with blocks := tmap (fun _ (b : Block) => { b with seq := mark b.seq }) s.blocks : State }
  s.dues ((s.blocks.filter fun kv => kv.2.seq.inSawait).map fun kv => .sawaitRelease kv.1)

/-- Whose accesses a sequencer's op makes. -/
def Block.opWho (b : Block) (o : Op) (acc : Nat) : Who := ⟨.stream o.uid .seq, b.ctx, b.die, b.coreNo % 128, 0xFE, o.pc, acc⟩

/-- R104, R160, R208, R218: contributions of a core applied at a row's home, a write of its present round; none where the add lost its
context, else the status. -/
def State.rowAddAt (s : State) (page first : Nat) (vs : List Fp) (w : Who) (core : Option Nat) : Option Nat × State :=
  match tget? s.rows page with
  | none => (some 7, s)
  | some r =>
    let holder := mkHolder s.pkg.device r.die 3
    if r.poison then (none, s.poisoned w (page * 2 ^ 14) 3)
    else if s.badAdders.contains holder then (none, s.residueAt w holder (page * 2 ^ 14))
    else
      let r := r.as (s.rowTag w.ctx)
      match r.st with
      | .evicted => (some 1, s)
      | .sealed => (some 2, s)
      | .live =>
        let (rd, s) := s.countSent core
        (some 0, (s.decideRow page (r.add first vs)).countLanded core rd holder)

/-! ### Operand forms -/

/-- R373: the fields of a row operand; none where a must-be-zero bit is set. -/
structure RowOpd where
  row : Nat
  first : Nat
  n : Nat
  deriving DecidableEq, Repr

def rowOpd (x : W64) : Option RowOpd :=
  if bit x 63 || bit x 47 || x.toNat / 2 ^ 19 % 2 ^ 13 != 0 then none
  else some ⟨x.toNat % 2 ^ 19, x.toNat / 2 ^ 32 % 2 ^ 15, x.toNat / 2 ^ 48 % 2 ^ 15 + 1⟩

/-- R373: an operand that names a row alone. -/
def rowOnly (x : W64) : Option Nat := if x.toNat / 2 ^ 19 ≠ 0 then none else some (x.toNat % 2 ^ 19)

/-- An operation on a row under way. -/
def Fin'.onRows : Fin' → Bool
  | .rowAdd .. | .rowLoad .. => true
  | _ => false

/-- R372: an operation on a row of a set, or one whose output is still on its way. -/
def Fin'.onSet (base n : Nat) : Fin' → Bool
  | .rowAdd p .. | .rowLoad p .. | .rowOut p => decide (base ≤ p) && decide (p < base + n)
  | .drainRow ps _ => ps.any fun p => decide (base ≤ p) && decide (p < base + n)
  | _ => false

/-- R212: operations of one stream on rows are served in their order: an operation waits for those still on their way. -/
def rowGate (l : Lat) (rs : List SReg) (k : SHere → State → State) (s : State) : Out :=
  matGate l rs (fun h s =>
    if s.under h.uid Fin'.onRows then s.waits else k h s) s

/-- R375 to R377: the row that an instruction names, or what naming it does instead. -/
def withRow (s : State) (h : SHere) (l : Lat) (acc : Nat) (hd : W64) (row : Nat) (st : Nat) (k : Nat → Row → State) : State :=
  match s.rowRef h.b.die hd row with
  | .bad => s.seqDone h l [(st, 7)]
  | .gone ra => s.rowGone h acc ra
  | .lost ra => s.rowLost h acc ra
  | .wait ra w => s.rowWaits h ra w
  | .row page =>
    match tget? s.rows page with
    | none => s.rowGone h acc (page * 2 ^ 14)
    | some r => k page (r.as (s.rowTag h.b.ctx))

def statusW (n : Nat) : W64 := BitVec.ofNat 64 n

/-- R160, R212: a release that an op waits for: its extra part, or none where it must wait to begin. -/
def State.relStart (s : State) (uid core : Nat) (rel : Bool) (sc : Scope) : Option (Option Nat × State) :=
  if !rel then some (none, s) else if s.commandsOut uid then none else s.beginFence core uid .seq .rel sc

/-- The release recorded against an op. -/
def State.relFor (s : State) (core op : Nat) : Option Nat → State
  | none => s
  | some k => (s.modCore core fun c => { c with rels := c.rels ++ [(⟨k, op, none⟩ : Release)] }).due
      (.releaseQueryReply (core / 128) (core % 128) k)

/-- R91, R101: whose accesses an op's reads are: those of an engine's command, or the sequencer's own. -/
def Block.readWho (b : Block) (uid : Nat) (pc : W64) (cmd : Bool) : Who :=
  if cmd then b.engineWho uid 4 pc else ⟨.stream uid .seq, b.ctx, b.die, b.coreNo % 128, 0xFE, pc, 0⟩

/-- R320: one piece of such a read. -/
def Block.readReq (b : Block) (w : Who) (acc : Acc) (rt : ReqTy) (t : Touch) (ra at' : Nat) (op : Option Nat) : Req :=
  { acc := if w.acc = 4 && acc == .load then .engineUse else acc, agent := w.agent, ctx := b.ctx, die := b.die, core := some b.coreNo
    va := t.va, ra := ra, len := t.len, req := rt, wide := true, lane := 0xFF, bytes := [], at' := at', op := op, aop := none, round := 0
    why := .unrouted, noted := false, poison := 0 }

/-- A routed source read as load events into a new op with an end of its own, by an engine's command where `cmd` says so. -/
def State.seqRead (s : State) (h : SHere) (l : Lat) (fin : Fin') (dests : List (Nat × W64)) (va n : Nat) (rel : Bool) (sc : Scope)
    (cmd : Bool := false) : State :=
  let core := h.b.coreNo
  let ts := seqTouches va n
  let w := h.b.readWho h.uid h.run.va cmd
  match s.translate core w permRd ts with
  | .error s' => s'
  | .ok ras =>
    let rs := (ts.zip ras).map fun x => h.b.readReq w .load .own x.1 x.2 (x.1.va - va) none
    let (s, wait) := s.prepare core false rs
    if wait then s.waits
    else match s.relStart h.uid core rel sc with
      | none => s.waits
      | some (k, s) =>
        let (id, s) := s.openSeqOp h l fin dests (rs.length + if k.isSome then 1 else 0)
        rs.foldl (fun s r => s.loadPiece core { r with op := some id }) (s.relFor core id k)

/-- R213: the header of an image read, with the sequencer held at its word. -/
def State.seqLoad (s : State) (h : SHere) (l : Lat) (page va : Nat) (st : SReg) : State :=
  let core := h.b.coreNo
  let ts := seqTouches va 64
  let w := h.b.readWho h.uid h.run.va false
  match s.translate core w permRd ts with
  | .error s' => s'
  | .ok ras =>
    let rs := (ts.zip ras).map fun x => h.b.readReq w .load .own x.1 x.2 (x.1.va - va) none
    let (s, wait) := s.prepare core false rs
    if wait then s.waits
    else
      let (id, s) := s.newSeqOp h l (.rowLoad page va true) [(st.val, 0)] rs.length
      rs.foldl (fun s r => s.loadPiece core { r with op := some id }) (s.seqBlock h (.fence id))

/-- A source that is at hand: an op with its bytes, that waits at most for its release; `after` is done as it begins. -/
def State.seqHave (s : State) (h : SHere) (l : Lat) (fin : Fin') (dests : List (Nat × W64)) (bs : List Byte) (rel : Bool) (sc : Scope)
    (after : State → State := id) : State :=
  let core := h.b.coreNo
  match s.relStart h.uid core rel sc with
  | none => s.waits
  | some (k, s) =>
    let (id, s) := (after s).openSeqOp h l fin dests (if k.isSome then 1 else 0)
    ({ s with ops := tmod s.ops id fun o => { o with got := bytesAt 0 bs } }).relFor core id k

/-! ### Allocation -/

/-- R132: tiles of a core that no resident block holds. -/
def State.freeTiles (s : State) (b : Block) : Nat :=
  8 - (s.blocks.foldl (fun n kv => if kv.2.home = b.home ∧ b.home.isSome then n + kv.2.pinCount / 2 else n) 0)

/-- R372: the live dies of a mask. -/
def State.maskDies (s : State) (m die : Nat) : List Nat :=
  if m = 0 then [die] else (List.range 8).filter fun d => m / 2 ^ d % 2 == 1 && s.dieLive d

/-- R372: SAALLOC. -/
def execSaalloc (l : Lat) (tiles : Bool) (st res par : SReg) (s : State) : Out :=
  matGate l [st, res, par] (fun h s =>
    let p := (h.get par).toNat
    if tiles then
      let free := (List.range 8).filter fun z => !bit h.b.zheld z
      if p < 1 ∨ 8 < p then s.seqIllegal h
      else if s.freeTiles h.b < p ∨ free.length < p then s.seqDone h l [(res.val, 0), (st.val, 8)]
      else
        let m := (free.take p).foldl (fun (m : BitVec 8) z => m ||| BitVec.ofNat 8 (2 ^ z)) 0
        (s.modBlock h.uid fun b => { b with zheld := b.zheld ||| m, zgranted := b.zgranted ||| m }).seqDone h l
          [(res.val, m.zeroExtend 64), (st.val, 0)]
    else
      let nrows := p % 2 ^ 20
      let len := p / 2 ^ 20 % 2 ^ 16
      let anchor := (BitVec.ofNat 12 (p / 2 ^ 36)).toInt
      let dies := s.maskDies (p / 2 ^ 48 % 256) h.b.die
      if p / 2 ^ 56 ≠ 0 ∨ nrows < 1 ∨ 524288 < nrows ∨ len < 1 ∨ 32768 < len ∨ dies.isEmpty then s.seqIllegal h
      else match s.allocRows h.b.ctx dies nrows len anchor none with
        | none => s.seqDone h l [(res.val, 0), (st.val, 8)]
        | some (hd, s) => s.seqDone h l [(res.val, hd), (st.val, 0)]) s

/-- R364, R372: tiles freed: their content goes, and the two highest pins of each. -/
def Block.dropTiles (b : Block) (m : BitVec 8) : Block :=
  let b := ((List.range 8).filter (bit m)).foldl (fun (b : Block) z => b.clearTile z) b
  let b := { b with zheld := b.zheld &&& ~~~m, zgranted := b.zgranted &&& ~~~m }
  { b with pins := b.pins.filter fun kv => decide (kv.1 < b.pinCount) }

/-- R372: SAFREE. -/
def execSafree (l : Lat) (tiles : Bool) (st hr : SReg) (s : State) : Out :=
  rowGate l [st, hr] (fun h s =>
    let x := h.get hr
    if tiles then
      let m : BitVec 8 := x.truncate 8
      if 256 ≤ x.toNat ∨ m &&& ~~~h.b.zgranted ≠ 0 then s.seqIllegal h
      else (s.modBlock h.uid fun b => b.dropTiles m).seqDone h l [(st.val, 0)]
    else
      let base := x.toNat % 2 ^ 42
      if x.toNat / 2 ^ 42 % 8 = 7 then s.seqDone h l [(st.val, 7)]
      else match tget? s.rowSets base with
        | some rs =>
          if rs.handle ≠ x ∨ rs.ctx ≠ h.b.ctx then s.rowGone h 2 (base * 2 ^ 14)
          else if rs.grid.isSome then s.seqDone h l [(st.val, 7)]
          else if s.under h.uid (Fin'.onSet base (rs.nrows * rs.pitch)) then s.waits
          else (s.freeRows base).seqDone h l [(st.val, 0)]
        | none => s.rowGone h 2 (base * 2 ^ 14)) s

/-! ### Adds, reads, waits -/

/-- R374: the bytes and alignment of a source. -/
def sourceSize (fmt : RowFmt) (n : Nat) : Nat × Nat :=
  match fmt with
  | .f32 => (4 * n, 4)
  | .bf16 => (2 * n, 2)
  | .e4m3 => (rowOut true (4 * n), 16)

/-- R199, R206, R374: the contributions of a source, and NV for an invalid scale. -/
def sourceVals (fmt : RowFmt) (n : Nat) (bs : Nat → Byte) : List Fp × Flg :=
  let word := fun (a k : Nat) => leNat ((List.range k).map fun j => bs (a + j))
  match fmt with
  | .f32 => ((List.range n).map fun i => Fmt.decode .f32 (word (4 * i) 4), 0)
  | .bf16 => ((List.range n).map fun i => Fmt.decode .bf16 (word (2 * i) 2), 0)
  | .e4m3 =>
    let rs := (List.range n).map fun i => dequant (bs i).toNat (bs ((n + 31) / 32 * 32 + i / 32)).toNat
    (rs.map fun r => Fmt.decode .f32 r.1, rs.foldl (fun f r => f ||| r.2) 0)

/-- R374: SAADD. -/
def execSaadd (l : Lat) (fmt : RowFmt) (pad rel : Bool) (sc : Scope) (st hr r src : SReg) (s : State) : Out :=
  rowGate l [st, hr, r, src] (fun h s =>
    match rowOpd (h.get r) with
    | none => s.seqIllegal h
    | some o =>
      let (n, al) := sourceSize fmt o.n
      let a := (h.get src).toNat
      withRow s h l 2 (h.get hr) o.row st.val fun page rw =>
        if rw.len < o.first + o.n ∨ a % al ≠ 0 then s.seqIllegal h
        else
          let fin := Fin'.rowAdd page fmt o.first o.n
          let dests := [(st.val, (0 : W64))]
          if pad then
            match s.padKey h.b .core (a : Int) n with
            | none => s.seqIllegal h
            | some k =>
              match s.rowsPoison [k] n with
              | some (x, p) => s.poisoned (h.who 0) x p
              | none => s.seqHave h l fin dests (s.rdN h.b.ctx k n) rel sc
          else if highVa a || highVa (a + n - 1) then s.seqIllegal h
          else s.seqRead h l fin dests a n rel sc) s

/-- R208, R374: the add of an SAADD whose source and release are done. -/
def State.finishAdd (s : State) (id : Nat) (o : Op) (page : Nat) (fmt : RowFmt) (first n : Nat) : State :=
  match s.block? o.uid with
  | none => s.completeOp id
  | some b =>
    let (vs, fl) := sourceVals fmt n fun i => tgetD o.got i 0
    match s.rowAddAt page first vs (b.opWho o 2) (some b.coreNo) with
    | (none, s) => s
    | (some st, s) =>
      let s := s.modSeq o.uid fun q => if st = 0 then q.orFlags fl else q
      ({ s with ops := tmod s.ops id fun o => { o with dests := o.dests.map fun (kv : Nat × W64) => (kv.1, statusW st) } }).completeOp id

/-- R375: gains at a scratchpad offset, or 1.0 for each; none where the vector lies beyond SCRATCH or holds poison. -/
def State.gains (s : State) (b : Block) (off first n : Nat) : Except (Nat × Nat) (Option (Nat → Nat)) :=
  if off = 0xFFFFFFFF then .ok (some fun _ => oneF32)
  else match s.padKey b .core ((off + 4 * first : Nat) : Int) (4 * n) with
    | none => .ok none
    | some k =>
      match s.rowsPoison [k] (4 * n) with
      | some p => .error p
      | none => .ok (some fun i => leNat (s.rdN b.ctx (k + 4 * (i - first)) 4))

/-- The naturally aligned pieces of an output, with the bytes of each. -/
def outPieces (va : Nat) (bs : List Byte) : List (Touch × List Byte) :=
  (pieces va (bs.length + 1) 0 bs.length).map fun p => (⟨0xFF, va + p.1, p.2⟩, (bs.drop p.1).take p.2)

/-- R161, R375: SAREAD. Under .acq the loads before it have returned when it reads, and its acquire follows the read. -/
def execSaread (l : Lat) (layer : Bool) (fmt : RowFmt) (pad acq : Bool) (sc : Scope) (e hr r dst : SReg) (s : State) : Out :=
  let st := e.val + 1
  rowGate l [e, hr, r, dst] (fun h s =>
    if 63 ≤ e.val then s.seqIllegal h
    else if st != 0 && (tget? h.q.pend st).isSome then s.waits
    else if acq && s.loading h.uid .seq then s.waits
    else match rowOpd (h.get r) with
    | none => s.seqIllegal h
    | some o =>
      let a := (h.get dst).toNat
      withRow s h l 0 (h.get hr) o.row st fun page rw =>
        let (n, al) := match fmt with
          | .f32 => (4 * o.n, 4)
          | .bf16 => (2 * o.n, 2)
          | .e4m3 => ((o.n + 15) / 16 * 16 + 16, 16)
        if rw.len < o.first + o.n ∨ a % al ≠ 0 then s.seqIllegal h
        else if pad ∧ (s.padKey h.b .core (a : Int) n).isNone then s.seqIllegal h
        else if !pad ∧ (highVa a || highVa (a + n - 1)) then s.seqIllegal h
        else
          let p := h.get e
          let (g0, gn) := if fmt = .e4m3 then (0, rw.len) else (o.first, o.n)
          match s.gains h.b (p.toNat / 2 ^ 32) g0 gn with
          | .error (x, store) => s.poisoned (h.who 0) x store
          | .ok none => s.seqIllegal h
          | .ok (some gain) =>
            if rw.st == .evicted then s.seqDone h l [(st, 1)]
            else if rw.poison then s.poisoned (h.who 0) (page * 2 ^ 14) 3
            else
              let sc' := rw.scale layer (p.toNat % 2 ^ 32)
              let (bs, fl) := match fmt with
                | .f32 => rw.plainOut .f32 layer sc'.1 gain o.first o.n
                | .bf16 => rw.plainOut .bf16 layer sc'.1 gain o.first o.n
                | .e4m3 => rw.quantOut layer sc'.1 gain o.first o.n
              let after := fun (s : State) =>
                let s := s.modSeq h.uid fun q => q.orFlags (sc'.2 ||| fl)
                if acq && isWide sc then s.dropShared h.b.coreNo else s
              if pad then
                match s.padKey h.b .core (a : Int) n with
                | none => s.seqIllegal h
                | some k =>
                  ((((after s).putBytes h.b.ctx (bytesAt k bs)).setFull true (granules k n)).wakeFull).seqDone h l [(st, 0)]
              else s.tileOut h l (h.b.engineWho h.uid 5 h.run.va) .engineWrite true (outPieces a bs) [(st, 0)] after (fin := .rowOut page)) s

/-- R376: SAWAIT. -/
def execSawait (l : Lat) (st hr r : SReg) (s : State) : Out :=
  rowGate l [st, hr, r] (fun h s =>
    let x := (h.get r).toNat
    if 2 ^ 63 ≤ x ∨ x / 2 ^ 19 % 2 ^ 13 ≠ 0 then s.seqIllegal h
    else withRow s h l 0 (h.get hr) (x % 2 ^ 19) st.val fun page rw =>
      if rw.poison then s.poisoned (h.who 0) (page * 2 ^ 14) 3
      else if rw.st == .evicted then s.seqDone h l [(st.val, 1)]
      else if x / 2 ^ 32 ≤ rw.count then s.seqDone h l [(st.val, 0)]
      else s.seqBlock h (.sawait page st.val (x / 2 ^ 32) l.ctr none)) s

/-- R376: SASEAL. -/
def execSaseal (l : Lat) (st hr r : SReg) (s : State) : Out :=
  rowGate l [st, hr, r] (fun h s =>
    match rowOnly (h.get r) with
    | none => s.seqIllegal h
    | some row => withRow s h l 2 (h.get hr) row st.val fun page rw =>
      match rw.st with
      | .evicted => s.seqDone h l [(st.val, 1)]
      | .sealed => s.seqDone h l [(st.val, 0)]
      | .live => (s.setRow page { rw with st := .sealed }).seqDone h l [(st.val, 0)]) s

/-- R377: SAEVICT. -/
def execSaevict (l : Lat) (narrow : Bool) (st hr r img : SReg) (s : State) : Out :=
  rowGate l [st, hr, r, img] (fun h s =>
    match rowOnly (h.get r) with
    | none => s.seqIllegal h
    | some row =>
      let a := (h.get img).toNat
      if a % 64 ≠ 0 then s.seqIllegal h
      else withRow s h l 5 (h.get hr) row st.val fun page rw =>
        let bs := rw.image narrow
        if highVa a || highVa (a + bs.length - 1) then s.seqIllegal h
        else if rw.poison then s.poisoned (h.who 0) (page * 2 ^ 14) 3
        else if rw.st == .evicted then s.seqDone h l [(st.val, 1)]
        else if narrow ∧ rw.st = .live then s.seqDone h l [(st.val, 3)]
        else if !narrow ∧ rw.ovf then s.seqDone h l [(st.val, 4)]
        else s.tileOut h l (h.b.engineWho h.uid 5 h.run.va) .engineWrite true (outPieces a bs) [(st.val, 0)] (fin := .rowOut page) fun s =>
          s.decideRow page { rw with st := .evicted, w := [], flag := [] }) s

/-- R213, R377: SALOAD: the image's header is read first, and then as many elements as it says; the sequencer issues nothing further until
the image has been read. -/
def execSaload (l : Lat) (st hr r img : SReg) (s : State) : Out :=
  rowGate l [st, hr, r, img] (fun h s =>
    match rowOnly (h.get r) with
    | none => s.seqIllegal h
    | some row =>
      let a := (h.get img).toNat
      if a % 64 ≠ 0 || highVa a then s.seqIllegal h
      else withRow s h l 4 (h.get hr) row st.val fun page _ =>
        s.seqLoad h l page a st) s

/-- An op that ends with a status. -/
def State.endWith (s : State) (id st : Nat) : State :=
  ({ s with ops := tmod s.ops id fun o => { o with dests := o.dests.map fun (kv : Nat × W64) => (kv.1, statusW st) } }).completeOp id

/-- An op whose next part could not begin: it is tried again. -/
def State.again (s : State) (id : Nat) : State := { s with ops := tmod s.ops id fun o => { o with retry := true } }

/-- More bytes read for an op that is under way; walks and held requests make it try again. -/
def State.readMore (s : State) (id : Nat) (o : Op) (b : Block) (fin : Fin') (va n at' : Nat) (acc : Acc) (rt : ReqTy)
    (cmd : Bool := true) : State :=
  let core := b.coreNo
  let ts := seqTouches va n
  let who := b.readWho o.uid o.pc cmd
  match s.translate core who permRd ts with
  | .error s' => s'.again id
  | .ok ras =>
    let rs := (ts.zip ras).map fun x => b.readReq who acc rt x.1 x.2 (at' + (x.1.va - va)) (some id)
    let (s, wait) := s.prepare core (rt == .nc) rs
    if wait then s.again id
    else
      let s := { s with ops := tmod s.ops id fun o => { o with fin := fin, left := rs.length, retry := false } }
      rs.foldl (fun s r => s.loadPiece core r) s

/-- R213: a SALOAD ends with a status, and its sequencer goes on. -/
def State.loadEnd (s : State) (id : Nat) (o : Op) (st : Nat) : State := (s.passFence id o).endWith id st

/-- R216, R377: the next part of a SALOAD. -/
def State.finishLoad (s : State) (id : Nat) (o : Op) (page va : Nat) (head : Bool) : State :=
  match s.block? o.uid, tget? s.rows page with
  | some b, some r =>
    let r := r.as (s.rowTag b.ctx)
    let got := fun (n : Nat) => (List.range n).map fun i => tgetD o.got i 0
    if head then
      if !r.fits (got 64) then s.loadEnd id o 5
      else if r.st != .evicted then s.loadEnd id o 6
      else
        let n := (if (tgetD o.got 62 0).toNat / 4 % 2 = 1 then 4 else 16) * r.len
        if highVa (va + 64 + n - 1) then s.loadEnd id o 5 else s.readMore id o b (.rowLoad page va false) (va + 64) n 64 .load .own false
    else if r.st != .evicted then s.loadEnd id o 6
    else match s.fitRow r.die (rowBytes r.len) with
      | none => s.loadEnd id o 8
      | some (seg, off) => (s.setRow page (r.install (got (64 + 16 * r.len)) seg off)).loadEnd id o 0
  | _, _ => s.loadEnd id o 7

/-! ### Drains -/

/-- R371: OUT of a tile element. -/
def drainOut (fmt : DrainFmt) (x : W32) : Res :=
  match fmt with
  | .f32 => (x.toNat, 0)
  | .bf16 => narrow .bf16 .rne false x.toNat
  | .f16 => narrow .f16 .rne false x.toNat

/-- R190, R371: OUT in f32 quiets a NaN. -/
def drainElem (fmt : DrainFmt) (x : W32) : Res :=
  match fmt, Fmt.decode .f32 x.toNat with
  | .f32, .nan _ _ sn => (Fmt.quiet .f32 x.toNat, Flg.when sn Flg.nv)
  | _, _ => drainOut fmt x

/-- R371: the tile cleared after a drain under .clr. -/
def State.drained (s : State) (h : SHere) (z : Nat) (clr : Bool) : State := if clr then s.modBlock h.uid fun b => b.clearTile z else s

/-- R371: the form that sends a tile's rows to accumulator rows. -/
def State.drainToRows (s : State) (h : SHere) (l : Lat) (m : Drain) (zd : ZReg) (hd opd : W64) (st : Nat) : State :=
  match rowOpd opd with
  | none => s.seqIllegal h
  | some o =>
    let n := hd.toNat / 2 ^ 45 + 1
    let short := match s.rowRef h.b.die hd o.row with
      | .row p => (tget? s.rows p).any fun r => decide (r.len < o.first + 128)
      | _ => false
    if o.n ≠ 1 || short then s.seqIllegal h
    else if hd.toNat / 2 ^ 42 % 8 = 7 ∨ n ≤ o.row + 127 then (s.drained h zd.val m.clr).seqDone h l [(st, 7)]
    else
      let refs := (List.range 128).map fun i => s.rowRef h.b.die hd (o.row + i)
      match refs.find? fun x => match x with | .row _ => false | _ => true with
      | some (.gone ra) => s.rowGone h 2 ra
      | some (.lost ra) => s.rowLost h 2 ra
      | some (.wait ra w) => s.rowWaits h ra w
      | some .bad => (s.drained h zd.val m.clr).seqDone h l [(st, 7)]
      | some (.row _) => s
      | none =>
        let pages := refs.filterMap fun x => match x with | .row p => some p | _ => none
        let bs := (h.b.tileBytes zd.val 4 BitVec.toNat).flatten
        s.seqHave h l (.drainRow pages o.first) [(st, 0)] bs m.rel m.scope (·.drained h zd.val m.clr)

/-- R371: the bytes of an element in a format. -/
def drainBytes : DrainFmt → Nat
  | .f32 => 4
  | _ => 2

/-- R362, R371: the address and pitch a drain takes: multiples of 16 for a scratchpad, of an element for adds to routed memory, and a pitch
that makes the rows fit (notes/assumptions/88.md). -/
def drainPlaceOk (m : Drain) (a p : W64) : Bool :=
  let al := if (spacePad m.space).isSome then 16 else if m.add then 4 else 1
  a.toNat % al == 0 && p.toNat % al == 0 && decide (128 * drainBytes m.fmt ≤ p.toNat)

/-- R371: ZDRAIN. -/
def execZdrain (l : Lat) (m : Drain) (zd : ZReg) (a b c : SReg) (s : State) : Out :=
  rowGate l (if m.space = .row then [a, b, c] else [a, b]) (fun h s =>
    let sA := h.get a
    let sB := h.get b
    let eb := drainBytes m.fmt
    let n := 128 * eb
    if !h.b.holdsTile zd.val then s.seqIllegal h
    else if bit h.b.tileBad zd.val then s.badTile h zd.val
    else if m.space = .row then s.drainToRows h l m zd sA sB c.val
    else if !drainPlaceOk m sA sB then s.seqIllegal h
    else
      let rows := h.b.tileBytes zd.val 4 BitVec.toNat
      let outs := h.b.tileBytes zd.val eb fun x => (drainElem m.fmt x).1
      let fl := (trange h.b.tiles (tileKey zd.val 0 0) (tileKey (zd.val + 1) 0 0)).foldl (fun f kv => f ||| (drainElem m.fmt kv.2).2) 0
      match spacePad m.space with
      | some p =>
        match s.padRows h.b p sA.toNat sB.toNat n with
        | none => s.seqIllegal h
        | some ks =>
          if m.add then
            match s.rowsPoison ks n with
            | some (x, st) => s.poisoned (h.who 0) x st
            | none => s.seqHave h l (.drainPad ks) [] rows.flatten m.rel m.scope (·.drained h zd.val m.clr)
          else
            let s := ((s.putRows h.b.ctx ks outs).setFull true (ks.flatMap fun k => granules k n)).wakeFull
            ((s.drained h zd.val m.clr).modSeq h.uid fun q => q.orFlags fl).seqDone h l []
      | none =>
        let vas := rowVas sA sB
        if vas.any fun v => highVa v || highVa (v + n - 1) then s.seqIllegal h
        else if !m.add then
          s.tileOut h l (h.b.engineWho h.uid 5 h.run.va) .engineWrite (isWide m.scope) ((vas.zip outs).flatMap fun x => outPieces x.1 x.2) [] fun s =>
            (s.drained h zd.val m.clr).modSeq h.uid fun q => q.orFlags fl
        else
          let ts := vas.flatMap fun v => seqTouches v n
          match s.translate h.b.coreNo (h.b.engineWho h.uid 2 h.run.va) (permRd ||| permWr ||| permAt) ts with
          | .error s' => s'
          | .ok ras =>
            let ps := (ts.zip ras).flatMap fun x => (List.range (x.1.len / 4)).map fun j => (x.1.va + 4 * j, x.2 + 4 * j)
            s.seqHave h l (.drainMem ps) [] rows.flatten m.rel m.scope (·.drained h zd.val m.clr)) s

/-- An element of a drained tile, kept in its op. -/
def Op.elem (o : Op) (i : Nat) : Nat := leNat ((List.range 4).map fun j => tgetD o.got (4 * i + j) 0)

/-- R371: adds into a scratchpad once the release is done. -/
def State.finishDrainPad (s : State) (id : Nat) (o : Op) (ks : List Nat) : State :=
  match s.block? o.uid with
  | none => s.completeOp id
  | some b =>
    let s := ((List.range 128).zip ks).foldl (fun (s : State) ik =>
      (List.range 128).foldl (fun (s : State) j =>
        let k := ik.2 + 4 * j
        let old := leNat (s.rdN b.ctx k 4)
        s.putBytes b.ctx (bytesAt k (natLe 4 (fpAdd .f32 .rne false old (o.elem (128 * ik.1 + j))).1))) s) s
    ((s.setFull true (ks.flatMap fun k => granules k 512)).wakeFull).completeOp id

/-- R328, R371: adds into routed memory, each at its home. -/
def State.finishDrainMem (s : State) (id : Nat) (o : Op) (ps : List (Nat × Nat)) : State :=
  match s.block? o.uid with
  | none => s.completeOp id
  | some b =>
    let core := b.coreNo
    let s := ps.foldl (fun (s : State) p => s.dropLine core (p.2 / 128) none) s
    let s := { s with ops := tmod s.ops id fun o => { o with fin := .plain, left := ps.length + 1 } }
    let s := ((List.range ps.length).zip ps).foldl (fun (s : State) kp =>
      let (rd, s) := s.countSent (some core)
      s.serve
        { acc := .engineWrite, agent := .engine o.uid, ctx := b.ctx, die := b.die, core := some core, va := kp.2.1, ra := kp.2.2
          len := 4, req := .nc, wide := true, lane := 0xFF, bytes := [], at' := 2 ^ 20, op := some id
          aop := some ⟨.addF32, 4, o.elem kp.1, 0⟩, round := rd, why := .unrouted, noted := false, poison := 0 }) s
    s.opDone (some id)

/-- R208, R371: each row's part counted at its home; the status is that of the first row that refused. -/
def State.finishDrainRow (s : State) (id : Nat) (o : Op) (pages : List Nat) (first : Nat) : State :=
  match s.block? o.uid with
  | none => s.completeOp id
  | some b =>
    let go := fun (acc : Option (Option Nat) × State) (ip : Nat × Nat) =>
      match acc with
      | (none, s) => (none, s)
      | (some st, s) =>
        let vs := (List.range 128).map fun j => Fmt.decode .f32 (o.elem (128 * ip.1 + j))
        match s.rowAddAt ip.2 first vs (b.opWho o 2) (some b.coreNo) with
        | (none, s) => (none, s)
        | (some 0, s) => (some st, s)
        | (some n, s) => (some (if st.isSome then st else some n), s)
    match ((List.range pages.length).zip pages).foldl go (some none, s) with
    | (none, s) => s
    | (some st, s) => s.endWith id (st.getD 0)

end Sys2Proof.Machine
end

