-- ==== Sys2Proof/Machine/Package.lean ====
section
/-! DEFINITION. How the package's own agents (dispatcher, memory processor, record queue engine) reach memory on behalf of a
context (R69, R74, R75, R110, R116, R393), and launch records (R110, R111). -/

namespace Sys2Proof.Machine

open Sys2Proof

/-! ### Reaching memory from outside the cores -/

/-- What an access of the package finds: the places of its naturally aligned pieces (offset, RA, length, entry); no
translation or permission; lost data at an RA; or that it has to wait for the memory processor or for routes. -/
inductive Reach where
  | ok (ps : List (Nat × Nat × Nat × Entry))
  | denied
  | lost (ra : Nat)
  | wait
  deriving DecidableEq, Repr

/-- R86: whether a permission is granted, a copy-on-write leaf counting as writable. -/
def State.permits (s : State) (c va need : Nat) : Bool :=
  match s.walk c va with
  | some x => hasPerm (if x.2.1 &&& permCow != 0 then x.2.1 ||| permWr else x.2.1) need
  | none => false


/-- R39, R69, R75: whether one piece can be served now, and where. -/
def State.pieceAt (s : State) (agent : Agent) (c die va ra n : Nat) (home store : Bool) : Except Reach Entry × State :=
  match (s.engine die).resolve ra home store with
  | .held .lostData => (.error (.lost ra), s)
  | .held w => (.error .wait, s.callFor agent c die va ra home w)
  | .toward e =>
    if s.promotes e.holder ra then (.error .wait, s.callFor agent c die va ra home .promote)
    else if s.paused e.holder ra || !s.servesAt e home || (home && s.awaitsMarker e) || s.lockedLine ra e.holder then (.error .wait, s)
    else
      -- R47, R151: what other cores hold privatised of the words is merged first, and in a locked prefix waited for
      let m := wordMask (ra % 128) n
      let s := if store then s else s.mergeOwn e (ra / 128) m none
      if !store && e.lock && s.mergesWait (ra / 128) m none then (.error .wait, s) else (.ok e, s)

/-- All pieces of an access found, or why not. -/
def State.reachAll (s : State) (agent : Agent) (c die va : Nat) (home store : Bool) :
    List (Nat × Nat × Nat) → List (Nat × Nat × Nat × Entry) → Reach × State
  | [], acc => (.ok acc.reverse, s)
  | (o, ra, n) :: t, acc =>
    match s.pieceAt agent c die (va + o) ra n home store with
    | (.error w, s) => (w, s)
    | (.ok e, s) => reachAll s agent c die va home store t ((o, ra, n, e) :: acc)

/-- R74, R75: an access of `n` bytes at a VA of a context; `need` are its leaf bits. -/
def State.reachVa (s : State) (agent : Agent) (c die va n need : Nat) (home store : Bool) : Reach × State :=
  if 2 ^ 57 ≤ va + n then (.denied, s)
  else
    let ps := pieces va (n + 1) 0 n
    let ts := ps.filterMap fun p => (s.walk c (va + p.1)).map fun x => (p, x)
    if ts.length ≠ ps.length then (.denied, s)
    else
      let cow := fun (p : Nat) => need &&& permWr != 0 && p &&& permCow != 0
      if ts.any fun t => !hasPerm (if cow t.2.2.1 then t.2.2.1 ||| permWr else t.2.2.1) need then (.denied, s)
      else match ts.find? fun t => cow t.2.2.1 with
        | some t => (.wait, s.callFor agent c die (va + t.1.1) t.2.1 false .cow)
        | none => s.reachAll agent c die va home store (ts.map fun t => (t.1.1, t.2.1, t.1.2)) []

/-- R33, R46, R162: the bytes of pieces read where they lie, other cores' privatised bytes merged first. -/
def State.readPieces (s : State) (c : Nat) : List (Nat × Nat × Nat × Entry) → List Byte → List Byte × State
  | [], acc => (acc, s)
  | (_, ra, n, e) :: t, acc =>
    let s := s.mergeOwn e (ra / 128) (wordMask (ra % 128) n) none
    readPieces s c t (acc ++ s.rdAt c e.holder ra n)

/-- R103: the first poisoned piece of a read. -/
def State.piecesPoison (s : State) (ps : List (Nat × Nat × Nat × Entry)) : Option (Nat × Nat) :=
  ps.findSome? fun p => let x := s.poisonIn (s.keyAt p.2.2.2.holder p.2.1) p.2.2.1; if x = 0 then none else some (p.2.1, x - 1)

/-- What a read of the package brings. -/
inductive Brought where
  | bytes (bs : List Byte)
  | denied
  | wait
  | lost
  deriving DecidableEq, Repr

/-- R75, R103: bytes read by the package and consumed: poison or lost data loses the context. -/
def State.pkgRead (s : State) (c die va n : Nat) : Brought × State :=
  match s.reachVa (.mp c) c die va n permRd false false with
  | (.denied, s) => (.denied, s)
  | (.wait, s) => (.wait, s)
  | (.lost ra, s) => (.lost, s.poisoned (mpWho c die) ra (s.lostStore die ra))
  | (.ok ps, s) =>
    match s.piecesPoison ps with
    | some (ra, x) => (.lost, s.poisoned (mpWho c die) ra x)
    | none => let (bs, s) := s.readPieces c ps []; (.bytes bs, s)

/-- R103, R120: bytes moved by the package, with the poison of each piece: an offset and 0 or a store code plus 1. -/
def State.pkgMove (s : State) (c die va n : Nat) : Except Brought (List Byte × List (Nat × Nat)) × State :=
  match s.reachVa (.mp c) c die va n permRd false false with
  | (.denied, s) => (.error .denied, s)
  | (.wait, s) => (.error .wait, s)
  | (.lost ra, s) => (.error .lost, s.poisoned (mpWho c die) ra (s.lostStore die ra))
  | (.ok ps, s) =>
    let bad := ps.map fun p => (p.1, s.poisonIn (s.keyAt p.2.2.2.holder p.2.1) p.2.2.1)
    let (bs, s) := s.readPieces c ps []
    (.ok (bs, bad), s)

/-- The owner of the ops that the package itself waits for. -/
def pkgUid : Nat := 2 ^ 40

/-- An op of the package with one part outstanding. -/
def State.openPkgOp (s : State) (fin : Fin' := .plain) : Nat × State :=
  let (id, s) := s.takeId
  let o : Op :=
    { uid := pkgUid, st := .seq, ctr := none, word := 0, pc := 0, dests := [], flags := [], got := [], fin := fin, left := 1
      sfu := 0, bad := 0 }
  (id, { s with ops := tset s.ops id o })

/-- R69, R118, R393: bytes written by the package at VA pieces that have been found. -/
def State.pkgWrite (s : State) (agent : Agent) (c die va : Nat) (ps : List (Nat × Nat × Nat × Entry)) (bs : List Byte) (op : Option Nat)
    (poison : Nat → Nat := fun _ => 0) : State :=
  ps.foldl (fun (s : State) p =>
    (s.opMore op).serve
      { pkgReq .engineWrite agent c die (va + p.1) p.2.1 p.2.2.1 (bytesAt p.2.1 ((bs.drop p.1).take p.2.2.1)) op with poison := poison p.1 }) s

/-- R75, R115, R217: an 8-byte atomic by the package at the home of an RA. -/
def State.pkgAtomic (s : State) (c die va ra : Nat) (aop : Aop) (v : Nat) (op : Option Nat) : State :=
  (s.opMore op).serve { pkgReq .engineWrite (.mp c) c die va ra 8 [] op with aop := some ⟨aop, 8, v, 0⟩ }

/-- R89, R91: an access of the package that its context may not make: a record, and the context is lost. -/
def State.pkgFault (s : State) (c die va acc : Nat) : State :=
  let who : Who := ⟨.mp c, c, die, 0xFF, 0xFF, 0, acc⟩
  match s.walk c va with
  | some x => s.faults who true [⟨⟨0xFF, va, 8⟩, 0x21, x.1, x.2.2, 1⟩]
  | none => s.faults who true [⟨⟨0xFF, va, 8⟩, 0x20, 0, 0, 1⟩]

/-! ### Launch records -/

/-- R110: the fields of a record. -/
def recOf (va : Nat) (bs : List Byte) (traps : List W64) : Rec :=
  let f := fun (lo n : Nat) => leNat ((bs.drop lo).take n)
  let w := fun (lo : Nat) => (BitVec.ofNat 64 (f lo 8) : W64)
  { lrec := BitVec.ofNat 64 va, lanePc := w 0, seqPc := w 8, param := w 16, gridX := f 24 4, gridY := f 28 2, gridZ := f 30 2
    warps := f 32 1, cblocks := f 33 1, vregs := f 34 1, ztiles := f 35 1, scratch := f 36 4, cscratch := f 40 4, saRows := f 44 4
    saLen := f 48 2, saAnch := f 50 2, dieMask := f 52 1, place := f 53 1, flags := f 54 2, deadline := f 56 4, privWords := f 60 4
    privBase := w 64, preLane := w 72, preSeq := w 80, trapTab := w 88, doneSig := w 96, traps := traps }

/-- R110, R111: the fields in their ranges. -/
def Rec.inRanges (r : Rec) : Bool :=
  decide (1 ≤ r.gridX) && decide (1 ≤ r.gridY) && decide (1 ≤ r.gridZ) &&
  decide (1 ≤ r.warps) && decide (r.warps ≤ 32) && decide (1 ≤ r.cblocks) && decide (r.cblocks ≤ 8) && r.gridX % r.cblocks == 0 &&
  decide (1 ≤ r.vregs) && decide (r.vregs ≤ 32) && decide (r.ztiles ≤ 8) &&
  r.scratch % 2048 == 0 && decide (r.scratch ≤ 524288) && r.cscratch % 65536 == 0 && decide (r.cscratch ≤ 2 ^ 25) &&
  decide (r.saRows ≤ 524288) && decide (r.saLen ≤ 32768) && (r.saLen == 0) == (r.saRows == 0) && decide (r.saAnch < 4096) &&
  decide (r.place ≤ 1) && decide (r.flags < 8) && decide (r.privWords ≤ 65536) &&
  r.privBase.toNat % 128 == 0 && r.trapTab.toNat % 128 == 0 && r.lanePc.toNat % 8 == 0 && r.seqPc.toNat % 8 == 0 &&
  r.doneSig.toNat % 8 == 0 && decide (r.warps * r.vregs * 1024 ≤ 524288)

/-- R86, R111: the VAs that a record names and what they must permit. PRIVBASE is named where there are private words; a PARAM or a
DONESIG of 0, the values of a record that gives none (R110, R237), names no word (notes/assumptions/35.md). -/
def Rec.named (r : Rec) : List (W64 × Nat) :=
  [(r.lanePc, permEx), (r.seqPc, permEx), (r.preLane, permEx), (r.preSeq, permEx), (r.trapTab, permRd)] ++
  (if r.param = 0 then [] else [(r.param, permRd)]) ++
  (if r.privWords = 0 then [] else [(r.privBase, permRd ||| permWr)]) ++
  (if r.doneSig = 0 then [] else [(r.doneSig, permRd ||| permWr ||| permAt)]) ++
  ((r.traps.drop 1).take 10).map fun v => (v, permEx)

/-- R111: a record with its trap table read is valid. -/
def State.recValid (s : State) (c : Nat) (r : Rec) : Bool :=
  r.inRanges && r.preLane != 0 && r.preSeq != 0 && ((r.traps.drop 1).take 10).all (· != 0) &&
  (r.traps.take 1).all (· == 0) && (r.traps.drop 12).all (· == 0) &&
  ((List.range 8).any fun d => bit (BitVec.ofNat 8 r.dieMask) d && s.dieLive d) &&
  r.named.all fun v => s.permits c v.1.toNat v.2

/-- What reading a record brings. -/
inductive Record where
  | ok (r : Rec)
  | bad
  | wait
  | lost
  deriving DecidableEq, Repr

/-- R110, R111: a record's bytes judged: its trap table read, its fields and its VAs checked. -/
def State.judge (s : State) (c die va : Nat) (bs : List Byte) : Record × State :=
  let r := recOf va bs []
  if !r.inRanges || (bs.drop 104).any (· != 0) then (.bad, s)
  else match s.pkgRead c die r.trapTab.toNat 128 with
    | (.denied, s) => (.bad, s)
    | (.wait, s) => (.wait, s)
    | (.lost, s) => (.lost, s)
    | (.bytes ts, s) =>
      let r := { r with traps := (List.range 16).map fun k => BitVec.ofNat 64 (leNat ((ts.drop (8 * k)).take 8)) }
      (if s.recValid c r then .ok r else .bad, s)

/-- R110, R111: a record read and judged. -/
def State.readRecord (s : State) (c die va : Nat) : Record × State :=
  if va % 256 ≠ 0 then (.bad, s)
  else match s.pkgRead c die va 256 with
    | (.denied, s) => (.bad, s)
    | (.wait, s) => (.wait, s)
    | (.lost, s) => (.lost, s)
    | (.bytes bs, s) => s.judge c die va bs

def Rec.blocks (r : Rec) : Nat := r.gridX * r.gridY * r.gridZ
def Rec.clusters (r : Rec) : Nat := r.blocks / r.cblocks
/-- R121. -/
def Rec.cost (r : Rec) : Nat := r.warps * r.cblocks

end Sys2Proof.Machine
end

