-- ==== Sys2Proof/Machine/Place.lean ====
section
/-! DEFINITION. A block as it is placed (R112), and the prepared block that stands for the load of a program when one word is
to be run alone. -/

namespace Sys2Proof.Machine

open Sys2Proof

/-- R112: a warp of a block as it is placed. -/
def Warp.fresh (lanePc : W64) (stklim : W32) : Warp :=
  { regs := [], preds := [], fflags := [], pc := if lanePc = 0 then [] else (List.range 32).map fun l => (l, lanePc)
    tpc := [], tpcSet := 0, masks := [(0, BitVec.allOnes 32)], exited := 0, waiters := [], leavers := [], tcause := 0
    tmask := 0, tdst := 0, handler := none, suspended := false, stklim := stklim, ctr := [], pend := [], runs := []
    ahead := [], arr := [], lastLane := 31, yielded := false, preTaken := false, pdone := none }

/-- R112: the sequencer of a block as it is placed. -/
def Seq.fresh (seqPc param : W64) (blockid s3 s4 : Nat) (rows : W64) : Seq :=
  { pc := seqPc, tpc := 0, flags := 0, inPre := false, suspended := false, sexit := false, trap := none
    s := [(1, param), (2, BitVec.ofNat 64 blockid), (3, BitVec.ofNat 64 s3), (4, BitVec.ofNat 64 s4), (5, rows)].filter
      fun kv => kv.2 != 0
    gens := [], ctr := [], pend := [], run := none, saved := none, ahead := [], arr := [], yielded := false
    preTaken := false, pdone := false }

/-- A core as it is after power-on. -/
def Core.reset : Core :=
  { l1 := [], icache := [], tlb := [], rnd := 0, sent := [], dests := [], arrived := [], rels := [], quarantined := false }

/-- A record of a one-warp block with every lane register and all tiles, 4 KiB of scratchpad and 64 KiB of chip scratchpad. -/
def Rec.probe : Rec :=
  { lrec := 0, lanePc := 0, seqPc := 0, param := 0, gridX := 1, gridY := 1, gridZ := 1, warps := 1, cblocks := 1, vregs := 32
    ztiles := 8, scratch := 4096, cscratch := 65536, saRows := 0, saLen := 0, saAnch := 0, dieMask := 1, place := 0, flags := 0
    deadline := 0, privWords := 0, privBase := 0, preLane := 0, preSeq := 0, trapTab := 0, doneSig := 0, traps := [] }

/-- A clause of one word. -/
def probeRun (m : W32) (w : W64) (cls : Nat) : Run :=
  { mask := m, hdr := 0, cls := cls, words := [w], idx := 0, yieldBit := false, blk := none }

/-- A resident block whose lane stream (or sequencer stream) stands at a clause of one word. -/
def Block.probe (sq : Bool) (w : W64) (cls : Nat) : Block :=
  { ctx := 0, grid := 0, cluster := 0, rank := 0, blockid := 0, rcd := Rec.probe, home := some (0, 0), slots := [0]
    scratchBase := 0
    warps := [(0, { Warp.fresh 0 0 with runs := if sq then [] else [probeRun (BitVec.allOnes 32) w cls] })]
    seq := { Seq.fresh 0 0 0 0 0 0 with run := if sq then some (probeRun 0 w cls) else none }
    queues := [], bars := [], tiles := [], zheld := 255, zgranted := 0, pins := [], chains := [], colls := []
    consumer := none, frame := none, preempt := false, dleft := 0 }

/-- A context without grants. -/
def Ctx.probe : Ctx :=
  { fn := 0, gen := 0, keyNo := 0, ceil := 0, redun := false, dlaunch := true, devrec := false, rquota := 0, qquota := 0
    origin := none, eqBase := 0, eqN := 0, eqSeq := 0, eqDrops := 0, eqHeld := [], rootRa := 0, rootLog := 0, tgen := 0
    grants := [], freeing := none, lost := none, later := 0 }

/-- The state with a block loaded whose next word is `w`, in the stream that the word belongs to, and nothing else due: the
very next step runs it. -/
def State.withWord (s : State) (w : W64) : State :=
  let opc := fld w.toNat 54 10
  let lane := match decode false w with | .ok _ => true | .error _ => false
  let sq := !lane && match decode true w with | .ok _ => true | .error _ => false
  let cls := (opClass sq opc).getD 0
  { s with
    agenda := [], schedule := [], cur := some (0, if sq then .seq else .warp 0)
    ctxs := [(0, Ctx.probe)], cores := [(0, Core.reset)]
    clusters := [(0, { grid := 0, blocks := [0], die := 0, hw := 0, chipBase := 0, chipSize := 65536, resident := true, order := 0 })]
    blocks := [(0, Block.probe sq w cls)] }

end Sys2Proof.Machine
end

