-- ==== Sys2Proof/Machine/Placement.lean ====
section
/-! DEFINITION. Placing clusters on cores (R112 to R114, R123, R132 to R135, R148), saving them and bringing them back (R90,
R126 to R130), and the package dispatcher's choice (R121, R122, R125). -/

namespace Sys2Proof.Machine

open Sys2Proof

/-! ### Room -/

/-- R132: accumulator tiles that a block holds. -/
def Block.tilesHeld (b : Block) : Nat := ((List.range 8).filter fun z => bit b.zheld z).length

/-- R106: whether a core is quarantined. -/
def State.quarantinedCore (s : State) (core : Nat) : Bool := match tget? s.cores core with | some c => c.quarantined | none => false

/-- R132, R134: whether a core is free for a block of a record with so many tiles. -/
def State.coreFits (s : State) (core : Nat) (r : Rec) (tiles : Nat) : Bool :=
  let bs := s.on core
  !s.quarantinedCore core && decide (bs.length + 1 ≤ 16) &&
  decide (sumOf (fun b => b.rcd.warps) bs + r.warps ≤ 64) &&
  decide (sumOf (fun b => b.rcd.warps * b.rcd.vregs) bs + r.warps * r.vregs ≤ 512) &&
  decide (sumOf (fun b => b.rcd.scratch / 2048) bs + r.scratch / 2048 ≤ 256) &&
  decide (sumOf Block.tilesHeld bs + tiles ≤ 8)

/-- R148: whether a die's chip scratchpad has room for a cluster. -/
def State.chipFits (s : State) (die : Nat) (r : Rec) : Bool :=
  let h := mkHolder s.pkg.device die 2
  decide (s.placed h + r.cscratch / 2 ^ 14 ≤ s.capacity h)

/-- R134: blocks, each with the tiles that it takes, given the lowest of the cores that is free for it, one after another. -/
def State.giveCores (s : State) (die : Nat) (r : Rec) : List (Nat × Nat) → List Nat → Tab Nat → Option (Tab Nat)
  | [], _, acc => some acc
  | (i, tiles) :: t, free, acc =>
    match free.find? fun c => s.coreFits (coreNo die c) r tiles with
    | some c => giveCores s die r t (free.filter (· != c)) (tset acc i c)
    | none => none

/-- Blocks in the order of the tiles that they take, the most first. -/
def mostFirst (xs : List (Nat × Nat)) : List (Nat × Nat) :=
  ((List.range 9).reverse).flatMap fun n => xs.filter fun x => x.2 == n

/-- R123, R133, R134: the cores of a die that take a cluster whose blocks take so many tiles each: those of the hardware cluster with
the fewest free cores that can, ties to the lower. -/
def State.dieFits (s : State) (die : Nat) (r : Rec) (tiles : List Nat) : Option (List Nat) :=
  if !s.chipFits die r then none
  else
    let least := tiles.foldl min 8
    let want := (List.range tiles.length).zip tiles
    let best := (List.range 12).foldl (fun (m : Option (List Nat × Tab Nat)) hw =>
      let f := ((List.range 8).map fun i => 8 * hw + i).filter fun c => s.coreFits (coreNo die c) r least
      let better := match m with | some x => decide (f.length < x.1.length) | none => true
      if f.length < tiles.length || !better then m
      else match s.giveCores die r want f [] with
        | some t => some (f, t)
        | none => match s.giveCores die r (mostFirst want) f [] with
          | some t => some (f, t)
          | none => m) none
    best.map fun x => tvals x.2

/-- R123: the free warp slots of a die. -/
def State.freeSlots (s : State) (die : Nat) : Nat :=
  sumOf (fun c => if s.quarantinedCore (coreNo die c) then 0 else 64 - sumOf (fun b => b.rcd.warps) (s.on (coreNo die c))) (List.range 96)

/-- R111, R123: the live dies of a record's mask. -/
def State.diesOf (s : State) (r : Rec) : List Nat := (List.range 8).filter fun d => bit (BitVec.ofNat 8 r.dieMask) d && s.dieLive d

/-- R123: the die and the cores that a cluster goes to; `avoid` are dies that R122 keeps free. -/
def State.spotFor (s : State) (r : Rec) (tiles : List Nat) (avoid : List Nat) : Option (Nat × List Nat) :=
  let spots := ((s.diesOf r).filter fun d => !avoid.contains d).filterMap fun d => (s.dieFits d r tiles).map fun cs => (d, cs)
  if r.place = 1 then spots.head?
  else spots.foldl (fun (m : Option (Nat × List Nat)) x =>
    match m with
    | none => some x
    | some y => if s.freeSlots y.1 < s.freeSlots x.1 then some x else some y) none

/-! ### Work that is ready -/

/-- R154: whether the writes that a saved block had sent have landed. -/
def State.saveLanded (s : State) (uid : Nat) : Bool :=
  match (s.block? uid).bind Block.frame with
  | some f => (match tget? s.cores f.core with | some k => k.landed f.round | none => true)
  | none => true

/-- R90, R154: a saved gang is due to return when none of its held requests is left and its writes have landed. -/
def State.workDue (s : State) : Work → Bool
  | .grid _ => true
  | .gang cl =>
    match tget? s.clusters cl with
    | none => false
    | some c => c.blocks.all s.saveLanded && !(s.reqs.any fun kv => (kv.2.noted || kv.2.why.served) && match kv.2.agent with
        | .stream uid _ | .engine uid | .chain uid => c.blocks.contains uid
        | .host _ | .mp _ => false)

/-- R121: the head of a queue's ready work. -/
def State.headOf (s : State) (q : Queue) : Option Work := q.work.find? s.workDue

/-- R114, R121, R134: what a head takes: its record and the tiles of each of its blocks. -/
def State.needs (s : State) : Work → Option (Rec × List Nat)
  | .grid g => (tget? s.grids g).map fun g => (g.rcd, List.replicate g.rcd.cblocks g.rcd.ztiles)
  | .gang cl =>
    match tget? s.clusters cl with
    | none => none
    | some c =>
      let bs := c.blocks.filterMap fun u => s.block? u
      bs.head?.map fun b => (b.rcd, bs.map Block.tilesHeld)

/-- R113, R114: the row set of a grid's record, granted before its first cluster; none where it has no room. -/
def State.grantRows (s : State) (gid : Nat) (g : Grid) : Option State :=
  if g.hasRows || g.rcd.saRows = 0 then some s
  else match s.allocRows g.ctx (s.diesOf g.rcd) g.rcd.saRows g.rcd.saLen (BitVec.ofNat 12 g.rcd.saAnch).toInt (some gid) with
    | some (h, s) => some { s with grids := tset s.grids gid { g with handle := h, hasRows := true } }
    | none => none

def State.rowsFit (s : State) : Work → Bool
  | .grid gid => match tget? s.grids gid with | some g => (s.grantRows gid g).isSome | none => false
  | .gang _ => true

/-- R122: the dies that starved queues keep free. -/
def State.keptDies (s : State) : List Nat :=
  (s.queues.filter fun kv => kv.2.starved).flatMap fun kv =>
    match (s.headOf kv.2).bind s.needs with
    | some n => s.diesOf n.1
    | none => []

/-- R121: where the head of a queue fits. -/
def State.headFits (s : State) (q : Queue) : Option (Work × Nat × List Nat) :=
  match s.headOf q with
  | none => none
  | some w =>
    match s.needs w with
    | none => none
    | some (r, tiles) =>
      if !s.rowsFit w then none
      else (s.spotFor r tiles (if q.starved then [] else s.keptDies)).map fun d => (w, d.1, d.2)

/-! ### Placing -/

/-- R135: the slots of a block's warps on a core. -/
def takeSlots (used : List Nat) : Nat → List Nat → List Nat
  | 0, acc => acc.reverse
  | n + 1, acc =>
    let free := fun (q : Nat) => (List.range 16).find? fun i => !used.contains (4 * i + q) && !acc.contains (4 * i + q)
    let held := fun (q : Nat) => (acc.filter fun x => x % 4 == q).length
    let best := (List.range 4).foldl (fun (m : Option (Nat × Nat)) q =>
      match free q with
      | none => m
      | some i => match m with
        | none => some (q, 4 * i + q)
        | some (p, x) => if held q < held p then some (q, 4 * i + q) else some (p, x)) none
    match best with
    | some (_, x) => takeSlots used n (x :: acc)
    | none => takeSlots used n acc

/-- Spans in rising order. -/
def spansOf (xs : List (Nat × Nat)) : List (Nat × Nat) := xs.foldl (fun (t : Tab Nat) x => if x.2 = 0 then t else tset t x.1 x.2) []

/-- The entries of a table from one place moved to a lower one, which loses what it held. -/
def tmove {α : Type} (t : Tab α) (src dst n : Nat) : Tab α :=
  (trange t src (src + n)).foldl (fun t kv => tset t (kv.1 - src + dst) kv.2) (tclear (tclear t dst (dst + n)) src (src + n))

/-- Where a key of a span lies after the span has moved. -/
def movedKey (src dst n k : Nat) : Nat := if src ≤ k ∧ k < src + n then k - src + dst else k

def Run.moved (src dst n : Nat) (r : Run) : Run :=
  { r with fe := r.fe.map fun x => { x with grs := x.grs.map (movedKey (src / 16) (dst / 16) (n / 16)) } }

/-- R146, R148: an allocation of scratchpad moved to a lower place (where it lies is not architectural): its bytes with their owner
tags, bits and poison, and what waits at its granules. -/
def State.moveSpan (s : State) (src dst n : Nat) : State :=
  let mv := Run.moved src dst n
  { s with
    mem := (trange s.mem src (src + n)).foldl (fun t kv => putCell t (kv.1 - src + dst) kv.2)
      (tclear (tclear s.mem dst (dst + n)) src (src + n))
    tags := tmove s.tags (src / 128) (dst / 128) (n / 128)
    full := tmove s.full (src / 16) (dst / 16) (n / 16), poison := tmove s.poison (src / 16) (dst / 16) (n / 16)
    blocks := tmap (fun _ (b : Block) => { b with
      warps := tmap (fun _ (w : Warp) => { w with
        runs := w.runs.map mv, handler := w.handler.map fun h => { h with runs := h.runs.map mv } }) b.warps
      seq := { b.seq with run := b.seq.run.map mv, saved := b.seq.saved.map mv } }) s.blocks
    ops := tmap (fun _ (o : Op) => match o.fin with
      | .drainPad ks => { o with fin := .drainPad (ks.map (movedKey src dst n)) }
      | _ => o) s.ops }

/-- R132: the scratchpad spans that are taken on a core. -/
def State.padSpans (s : State) (core : Nat) : List (Nat × Nat) := spansOf ((s.on core).map fun b => (b.scratchBase, b.rcd.scratch))

/-- R148: the chip scratchpad spans that clusters take on a die. -/
def State.chipSpans (s : State) (die : Nat) : List (Nat × Nat) :=
  spansOf (((tvals s.clusters).filter fun c => c.resident && c.die == die).map fun c => (c.chipBase, c.chipSize))

/-- R146: a core's allocations moved down until there is no gap between them. -/
def State.packPad (s : State) (core : Nat) : State :=
  let s := s.landPads fun _ => true
  ((s.padSpans core).foldl (fun (x : Nat × State) sp =>
    let s := if sp.1 = x.1 then x.2 else x.2.moveSpan (keySpad core sp.1) (keySpad core x.1) sp.2
    (x.1 + sp.2, { s with
      blocks := tmap (fun _ (b : Block) =>
        if b.home.isSome && b.coreNo == core && b.scratchBase == sp.1 && b.rcd.scratch != 0 then { b with scratchBase := x.1 } else b) s.blocks })) (0, s)).2

/-- R148: a die's cluster allocations moved down until there is no gap between them. -/
def State.packChip (s : State) (die : Nat) : State :=
  let s := s.landPads fun _ => true
  ((s.chipSpans die).foldl (fun (x : Nat × State) sp =>
    let s := if sp.1 = x.1 then x.2 else x.2.moveSpan (keyChip die sp.1) (keyChip die x.1) sp.2
    (x.1 + sp.2, { s with
      clusters := tmap (fun _ (c : Cluster) =>
        if c.resident && c.die == die && c.chipBase == sp.1 && c.chipSize != 0 then { c with chipBase := x.1 } else c) s.clusters })) (0, s)).2

/-- R132, R146: where a block's scratchpad lies among a core's granules (which granules it takes is not architectural). -/
def State.scratchBase (s : State) (core n : Nat) : Nat × State :=
  match firstGap 0 (2 ^ 19) n (s.padSpans core) with
  | some a => (a, s)
  | none => let s := s.packPad core; ((firstGap 0 (2 ^ 19) n (s.padSpans core)).getD 0, s)

/-- R148: where a cluster's allocation lies in a die's chip scratchpad. -/
def State.chipBase (s : State) (die n : Nat) : Nat × State :=
  match firstGap 0 (2 ^ 25) n (s.chipSpans die) with
  | some a => (a, s)
  | none => let s := s.packChip die; ((firstGap 0 (2 ^ 25) n (s.chipSpans die)).getD 0, s)

/-- R149: granules lent to L1 reclaimed: lines beyond what is left are written back, where dirty, and dropped. -/
def State.reclaim (s : State) (core : Nat) : State :=
  match tget? s.cores core with
  | none => s
  | some k => ((tkeys k.l1).drop (s.l1Lines core)).foldl (fun s line => s.dropLine core line none) s

/-- R150: full-empty bits of a range cleared. -/
def State.clearFull (s : State) (key n : Nat) : State := { s with full := tclear s.full (key / 16) ((key + n) / 16) }

/-- A core that has been used has its registers. -/
def State.needCore (s : State) (core : Nat) : State :=
  match tget? s.cores core with
  | some _ => s
  | none => { s with cores := tset s.cores core Core.reset }

/-- A block put on a core: slots, scratchpad with its bits empty once L1 has given it back, the lowest free sequencer context, and the
acquire of its start (R132, R135, R139, R149, R150, R154). -/
def State.seat (s : State) (uid : Nat) (die core : Nat) : State :=
  let k := coreNo die core
  let s := s.needCore k
  match s.block? uid with
  | none => s
  | some b =>
    let there := s.on k
    let used := there.flatMap Block.slots
    let ctx := ((List.range 16).find? fun n => !(there.any fun x => x.seqCtx == n)).getD 0
    let (base, s) := s.scratchBase k b.rcd.scratch
    let s := s.modBlock uid fun b =>
      { b with home := some (die, core), slots := takeSlots used b.rcd.warps [], scratchBase := base, seqCtx := ctx }
    ((s.reclaim k).clearFull (keySpad k base) b.rcd.scratch).dropShared k

/-- R112, R118: a block as it is placed for the first time. -/
def Block.fresh (gid : Nat) (g : Grid) (cl rank blockid : Nat) : Block :=
  let cons : Option Consumer := match g.owner with
    | .consumer gr nd => some { graph := gr, node := nd, first := g.first, count := g.count, popped := 0, freed := 0 }
    | _ => none
  { ctx := g.ctx, grid := gid, cluster := cl, rank := rank, blockid := blockid, rcd := g.rcd, home := none, slots := []
    scratchBase := 0
    warps := (List.range g.rcd.warps).map fun w => (w, Warp.fresh g.rcd.lanePc (BitVec.ofNat 32 g.rcd.privWords))
    seq := Seq.fresh g.rcd.seqPc g.rcd.param blockid g.first g.count g.handle
    queues := [], bars := [], tiles := [], zheld := BitVec.ofNat 8 (2 ^ g.rcd.ztiles - 1), zgranted := 0, pins := [], chains := []
    colls := [], consumer := cons, frame := none, preempt := false, dleft := 0xFFFFFFFF }

def State.modQueue (s : State) (q : Nat) (f : Queue → Queue) : State := { s with queues := tmod s.queues q f }

/-- R113, R114: the next cluster of a grid placed on cores of a die. -/
def State.placeNew (s : State) (q gid : Nat) (g : Grid) (die : Nat) (cores : List Nat) : State :=
  let (cl, s) := s.takeId
  let n := g.nextCluster
  let r := g.rcd
  let (base, s) := s.chipBase die r.cscratch
  let c0 : Cluster :=
    { grid := gid, blocks := [], die := die, hw := cores.headD 0 / 8, chipBase := base, chipSize := r.cscratch, resident := true
      order := cl }
  let s := (List.range cores.length).foldl (fun (s : State) i =>
    let (uid, s) := s.takeId
    let s := s.setBlock uid (Block.fresh gid g cl i (n * r.cblocks + i))
    let s := s.seat uid die (cores.getD i 0)
    { s with clusters := tmod s.clusters cl fun c => { c with blocks := c.blocks ++ [uid] } })
    { s with clusters := tset s.clusters cl c0 }
  let s := s.clearFull (keyChip die base) r.cscratch
  let s := { s with grids := tset s.grids gid { g with nextCluster := n + 1 } }
  if r.clusters ≤ n + 1 then s.modQueue q fun x => { x with work := x.work.filter (· != .grid gid) } else s

/-- R114, R130: a saved gang placed again; BLOCK_RESTORE then loads its frames. -/
def State.placeGang (s : State) (q cl : Nat) (c : Cluster) (die : Nat) (cores : List Nat) : State :=
  let (k, s) := s.takeId
  let (base, s) := s.chipBase die c.chipSize
  let s := ((List.range c.blocks.length).zip c.blocks).foldl (fun (s : State) iu => s.seat iu.2 die (cores.getD iu.1 0)) s
  let s := s.clearFull (keyChip die base) c.chipSize
  let s := { s with clusters := tset s.clusters cl { c with die := die, hw := cores.headD 0 / 8, chipBase := base, resident := true, order := k } }
  (s.modQueue q fun x => { x with work := x.work.filter (· != .gang cl) }).due (.blockRestore cl)

/-- R121: the head of a queue placed. -/
def State.placeHead (s : State) (q : Nat) (w : Work) (die : Nat) (cores : List Nat) : State :=
  match w with
  | .grid gid =>
    match tget? s.grids gid with
    | none => s
    | some g =>
      match s.grantRows gid g with
      | none => s
      | some s => match tget? s.grids gid with | some g => s.placeNew q gid g die cores | none => s
  | .gang cl => match tget? s.clusters cl with | some c => s.placeGang q cl c die cores | none => s

/-! ### Work entering queues -/

/-- R121: work that stands at the head of its queue: returning gangs and record-queue consumers. -/
def State.atHead (s : State) : Work → Bool
  | .gang _ => true
  | .grid g => match tget? s.grids g with | some x => (match x.owner with | .consumer .. => true | _ => false) | none => false

/-- R121: work added to a queue. -/
def State.addWork (s : State) (q : Nat) (w : Work) : State :=
  s.modQueue q fun x =>
    if s.atHead w then { x with work := x.work.takeWhile s.atHead ++ [w] ++ x.work.dropWhile s.atHead } else { x with work := x.work ++ [w] }

/-- R113: a grid entered into a queue. -/
def State.enterGrid (s : State) (c q : Nat) (r : Rec) (owner : Owner) (root : Option (Nat × Nat)) (first count : Nat) : Nat × State :=
  let (id, s) := s.takeId
  let g : Grid :=
    { ctx := c, q := q, rcd := r, owner := owner, root := root, nextCluster := 0, doneBlocks := 0, handle := 0, hasRows := false
      first := first, count := count }
  (id, ({ s with grids := tset s.grids id g }).addWork q (.grid id))

/-! ### Saving -/

/-- R90, R130: what is left of a clause in a saved block: its word issues again, but a fence that has begun stays begun, and a SAWAIT
still waits (R212). -/
def Run.kept (r : Run) : Run :=
  { r with
    blk := match r.blk with | some (.fence op) => some (.fence op) | some (.sawait p st n k x) => some (.sawait p st n k x) | _ => none
    fe := none, missed := false, relDone := false }

/-- R90, R127, R129: a warp in a frame. -/
def Warp.kept (w : Warp) : Warp :=
  { w with
    runs := w.runs.map Run.kept, waiters := [], leavers := [], ahead := [], badAhead := [], pdone := none
    handler := w.handler.map fun h => { h with runs := h.runs.map Run.kept } }

def Seq.kept (q : Seq) : Seq := { q with run := q.run.map Run.kept, saved := q.saved.map Run.kept, ahead := [], badAhead := [], pdone := false }

/-- R126, R196: what a suspended warp finds zero; an exited warp 0 keeps its registers, which a scale window may still read. -/
def Warp.cleared (wn : Nat) (w : Warp) : Warp := { w with regs := if wn = 0 ∧ w.exited = BitVec.allOnes 32 then w.regs else [] }
def Seq.cleared (q : Seq) : Seq := { q with s := [], gens := [] }

/-- R33, R128: the bytes of a range that a context owns, by offset. -/
def State.ownBytes (s : State) (c key n : Nat) : Tab Byte :=
  ((trange s.mem key (key + n)).filter fun kv => tgetD s.tags (kv.1 / 128) 0 == s.ownerOf key c).map fun kv => (kv.1 - key, kv.2)

/-- The full-empty bits of a range, and the poison of its granules, by granule. -/
def State.bitsOf (s : State) (key n : Nat) : Tab Bool := (trange s.full (key / 16) ((key + n) / 16)).map fun kv => (kv.1 - key / 16, kv.2)
def State.poisonOf (s : State) (key n : Nat) : Tab Nat := (trange s.poison (key / 16) ((key + n) / 16)).map fun kv => (kv.1 - key / 16, kv.2)

/-- R129: DLEFT: the cycles of the deadline that are left, the count of the die being `now`. -/
def Block.leftOf (b : Block) (reason now : Nat) : Nat :=
  if !b.preempt then 0xFFFFFFFF else if reason = 2 then 0 else b.dleft - (now - b.since)

/-- R126, R128: the frame of a block; a cooperative one (reason 5) keeps only the bits. `now` is the cycle count of its die. -/
def State.frameOf (s : State) (b : Block) (c : Cluster) (reason now : Nat) : Frame :=
  let k := keySpad b.coreNo b.scratchBase
  let ch := keyChip c.die c.chipBase
  let n := if b.rank = 0 then c.chipSize else 0
  let full := reason ≠ 5
  { reason := reason, dleft := b.leftOf reason now
    core := b.coreNo, round := match tget? s.cores b.coreNo with | some k => k.rnd.toNat | none => 0
    scratch := if full then s.ownBytes b.ctx k b.rcd.scratch else []
    full := s.bitsOf k b.rcd.scratch
    poison := if full then s.poisonOf k b.rcd.scratch else []
    chip := if full then s.ownBytes b.ctx ch n else []
    chipFull := s.bitsOf ch n
    chipPoison := if full then s.poisonOf ch n else [] }

/-- R126 to R129: a block taken off its core; the save is a release at .dom by its streams, a round of its core (R154, R160). -/
def State.unseat (s : State) (uid : Nat) (c : Cluster) (reason : Nat) : State :=
  match s.block? uid with
  | none => s
  | some b =>
    if b.home.isNone then s
    else
      let (k, s) := match s.beginFence b.coreNo uid .seq .rel .dom with
        | some (some k, s) => (k, (s.openRound b.coreNo uid .seq .saveRel 0 0 none k).2)
        | some (none, s) => (0, s)
        | none => (match tget? s.cores b.coreNo with | some x => x.rnd.toNat | none => 0, s.cleanCore b.coreNo)
      let (now, s) := s.readCycles b.die
      let f := match b.frame with | some f => f | none => { s.frameOf b c reason now with round := k }
      let k := keySpad b.coreNo b.scratchBase
      let s := (s.clearFull k b.rcd.scratch)
      let s := { s with poison := tclear s.poison (k / 16) ((k + b.rcd.scratch) / 16) }
      let warps := tmap (fun wn (w : Warp) => if reason = 5 then w.kept.cleared wn else w.kept) b.warps
      let seq := if reason = 5 then b.seq.kept.cleared else b.seq.kept
      let s := s.setBlock uid { b with
        warps := warps, seq := seq, home := none, frame := some f, preempt := false, saving := none
        tiles := if reason = 5 then [] else b.tiles, tileBad := if reason = 5 then 0 else b.tileBad
        tilePoison := if reason = 5 then [] else b.tilePoison, pins := if reason = 5 then [] else b.pins }
      match s.cur with
      | some (u, _) => if u = uid then s.waits else s
      | none => s

/-- R114, R126, R127: a whole cluster leaves its cores and waits to return; `reason` is that of each block. -/
def State.saveCluster (s : State) (cl : Nat) (reason : Nat → Nat) : State :=
  match tget? s.clusters cl with
  | none => s
  | some c =>
    if !c.resident then s
    else
      let s := s.landPads fun x => c.blocks.contains x.uid
      let s := c.blocks.foldl (fun (s : State) uid => s.unseat uid c (reason uid)) s
      let k := keyChip c.die c.chipBase
      let s := s.clearFull k c.chipSize
      let s := { s with poison := tclear s.poison (k / 16) ((k + c.chipSize) / 16)
                        clusters := tset s.clusters cl { c with resident := false } }
      match tget? s.grids c.grid with
      | some g => s.addWork g.q (.gang cl)
      | none => s

/-- R160: whether the cores of a cluster's blocks have rounds left for the releases of its save, of the four that each may have open. -/
def State.roundsLeft (s : State) (c : Cluster) : Bool :=
  let ks := (c.blocks.filterMap fun u => s.block? u).map Block.coreNo
  ks.all fun k => match tget? s.cores k with
    | some x => decide ((x.rels.map fun r => r.round).eraseDups.length + (ks.filter (· == k)).length ≤ 4)
    | none => true

/-- R359, R378: whether an op is of those that a save waits for once they have started: matrix instructions, and the records that have a
slot. -/
def Fin'.beforeSave : Fin' → Bool
  | .tile _ | .drainPad _ | .drainMem _ | .drainRow .. | .rqCopy .. | .rqLand => true
  | _ => false

/-- R359, R378: whether an op's next part may begin: its block is on its core, or the save that is to come waits for it. -/
def Block.goesOn (b : Block) (f : Fin') : Bool := b.active || b.home.isSome && b.frame.isNone && f.beforeSave

/-- R90: whether part of an op waits for the memory processor, which the save does not wait for. -/
def State.opServed (s : State) (id : Nat) (o : Op) : Bool :=
  s.reqs.any fun kv => kv.2.why.served && (kv.2.op == some id || (kv.2.op.isNone && (kv.2.agent == .engine o.uid || kv.2.agent == .stream o.uid .seq)))

/-- R359: whether a chain stands between two pieces, or in one that waits for the memory processor. -/
def State.betweenPieces (s : State) (uid : Nat) (ch : Chain) : Bool :=
  !ch.running || !ch.reading || s.reqs.any fun kv => kv.2.why.served && kv.2.agent == .chain uid

/-- R59, R160, R296, R359, R378: whether a save of a cluster has nothing to wait for: no queued instruction, no load at a locked line, no
matrix instruction or record under way, no chain inside a piece, and rounds for its releases. -/
def State.mayLeave (s : State) (c : Cluster) : Bool :=
  s.roundsLeft c &&
  !(s.ops.any fun kv => kv.2.fin.beforeSave && c.blocks.contains kv.2.uid && !s.opServed kv.1 kv.2) &&
  (c.blocks.all fun u => match s.block? u with | some b => b.chains.all fun kv => s.betweenPieces u kv.2 | none => true) &&
  !(s.ops.any fun kv => kv.2.sfu != 0 && c.blocks.contains kv.2.uid) &&
  !(s.reqs.any fun kv => kv.2.why == .locked && !kv.2.isStore && match kv.2.agent with
    | .stream u _ | .engine u | .chain u => c.blocks.contains u
    | .host _ | .mp _ => false)

/-- R90, R127: a forced save: the blocks stop, and they leave as soon as they may. `reason` is that of each block. -/
def State.saveSoon (s : State) (cl : Nat) (reason : Nat → Nat) : State :=
  match tget? s.clusters cl with
  | none => s
  | some c =>
    if !c.resident then s
    else
      let s := c.blocks.foldl (fun (s : State) uid => s.modBlock uid fun b => { b with saving := some (b.saving.getD (reason uid)) }) s
      if s.mayLeave c then s.saveCluster cl fun u => ((s.block? u).bind Block.saving).getD 4 else s

/-- R90: the save of a faulting block and its gang. -/
def State.saveFor (s : State) (uid reason : Nat) : State :=
  match s.block? uid with
  | some b => if b.home.isNone then s else s.saveSoon b.cluster fun u => if u = uid then reason else 4
  | none => s

/-- R128, R130: bytes, bits and poison of a frame's section put back at their new place. -/
def State.putBack (s : State) (c key n : Nat) (bs : Tab Byte) (full : Tab Bool) (poison : Tab Nat) : State :=
  let s := { s with mem := tclear s.mem key (key + n) }
  let s := bs.foldl (fun (s : State) kv => s.wr c (key + kv.1) kv.2) s
  { s with
    full := full.foldl (fun t kv => tput false t (key / 16 + kv.1) kv.2) s.full
    poison := poison.foldl (fun t kv => tput 0 t (key / 16 + kv.1) kv.2) s.poison }

/-- R126, R130: one block's frame loaded: it goes on. -/
def State.loadFrame (s : State) (uid : Nat) (c : Cluster) : State :=
  match s.block? uid with
  | none => s
  | some b =>
    match b.frame with
    | none => s
    | some f =>
      let s := s.putBack b.ctx (keySpad b.coreNo b.scratchBase) b.rcd.scratch f.scratch f.full f.poison
      let s := if b.rank = 0 then s.putBack b.ctx (keyChip c.die c.chipBase) c.chipSize f.chip f.chipFull f.chipPoison else s
      let (now, s) := s.readCycles b.die
      let s := s.modBlock uid fun b => { b with
        frame := none, dleft := f.dleft, since := now
        warps := tmap (fun _ (w : Warp) => { w with suspended := false }) b.warps
        seq := { b.seq with suspended := false } }
      (s.dropShared b.coreNo).due (.sawaitRelease uid)

/-- R130: BLOCK_RESTORE: the frames of a cluster that has been placed again are loaded and its streams resume. -/
def execBlockRestore (cluster : Nat) (s : State) : Out :=
  .next (match tget? s.clusters cluster with
    | none => s
    | some c => if !c.resident then s else c.blocks.foldl (fun s uid => s.loadFrame uid c) s)

/-! ### Pre-emption -/

/-- R126: whether every stream of a block has suspended or exited. -/
def Block.quiesced (b : Block) : Bool :=
  (b.warps.all fun kv => kv.2.suspended || kv.2.exited == BitVec.allOnes 32) && (b.seq.suspended || b.seq.sexit)

/-- R126, R160: whether a cluster leaves of itself: a request is pending, every stream has suspended or exited, and there are rounds for
the releases of the save. Where all have exited, it completes (R115). -/
def State.quiet (s : State) (c : Cluster) : Bool :=
  let bs := c.blocks.filterMap fun u => s.block? u
  c.resident && (bs.any fun b => b.preempt) && (bs.any fun b => !b.finished) && (bs.all fun b => b.quiesced) && s.roundsLeft c

/-- R126: STREAM_SUSPEND: a stream that executed PDONE and has nothing outstanding suspends; a cluster whose blocks have all
done so leaves. -/
def execStreamSuspend (uid : Nat) (st : Stream) (s : State) : Out :=
  .next (match s.block? uid with
    | none => s
    | some b =>
      let go := match st with
        | .warp w => match tget? b.warps w with | some wp => wp.pdone.isSome | none => false
        | .seq => b.seq.pdone
      if !go || s.busy uid st || b.home.isNone then s
      else
        let s := match st with
          | .warp w => s.modWarp uid w fun x => { x with suspended := true, pdone := none }
          | .seq => s.modSeq uid fun x => { x with suspended := true, pdone := false }
        match tget? s.clusters b.cluster with
        | none => s
        | some c => if s.quiet c then s.saveCluster b.cluster fun _ => 5 else s)

/-- R127: DEADLINE_EXPIRY: a cluster that has not left in time is saved. -/
def State.expire (s : State) (cl : Nat) : State :=
  match tget? s.clusters cl with
  | none => s
  | some c => if (c.blocks.filterMap fun u => s.block? u).any fun b => b.preempt then s.saveSoon cl fun _ => 2 else s

def execDeadlineExpiry (cluster : Nat) (s : State) : Out := .next (s.expire cluster)

/-- R125, R126: the request reaches every block of a cluster; a DEADLINE of 0 forces the save at once. -/
def State.request (s : State) (cl : Nat) : State :=
  match tget? s.clusters cl with
  | none => s
  | some c =>
    let (now, s) := s.readCycles c.die
    let s := c.blocks.foldl (fun (s : State) uid => s.modBlock uid fun b =>
      { b with
        preempt := true, dleft := b.rcd.deadline, since := now
        warps := tmap (fun _ (w : Warp) => { w with preTaken := false }) b.warps
        seq := { b.seq with preTaken := false } }) s
    match c.blocks.head?.bind s.block? with
    | some b => if b.rcd.deadline = 0 then s.expire cl else s
    | none => s

/-- R121: the effective level of a cluster's work. -/
def State.levelOf (s : State) (c : Cluster) : Nat :=
  match tget? s.grids c.grid with
  | some g => (match tget? s.queues g.q with | some q => q.level | none => 0)
  | none => 0

/-- R125: a state as if clusters had left. -/
def State.without (s : State) (cls : List Nat) : State :=
  { s with
    blocks := tmap (fun _ (b : Block) => if cls.contains b.cluster then { b with home := none } else b) s.blocks
    clusters := tmap (fun k (c : Cluster) => if cls.contains k then { c with resident := false } else c) s.clusters }

/-- R125: the order in which clusters of a die would be pre-empted: lowest level first, then the most recently placed. -/
def before (a b : Nat × Nat × Nat) : Bool := decide (a.1 < b.1) || (a.1 == b.1 && decide (b.2.1 < a.2.1))
def insertBy (x : Nat × Nat × Nat) : List (Nat × Nat × Nat) → List (Nat × Nat × Nat)
  | [] => [x]
  | y :: t => if before x y then x :: y :: t else y :: insertBy x t

/-- R125: the shortest run of a die's candidates that makes room. -/
def State.roomAfter (s : State) (die : Nat) (r : Rec) (tiles : List Nat) : List Nat → List Nat → Option (List Nat)
  | taken, [] => if ((s.without taken).dieFits die r tiles).isSome then some taken else none
  | taken, c :: t => if ((s.without taken).dieFits die r tiles).isSome then some taken else roomAfter s die r tiles (taken ++ [c]) t

/-- R125: the clusters to pre-empt for a head of level `L`: of the die that needs the fewest, ties to the lower. -/
def State.victims (s : State) (L : Nat) (r : Rec) (tiles : List Nat) : Option (List Nat) :=
  let on := fun (d : Nat) =>
    let cs := (s.clusters.filter fun kv => kv.2.resident && kv.2.die == d && decide (s.levelOf kv.2 < L)).map
      fun kv => (s.levelOf kv.2, kv.2.order, kv.1)
    (cs.foldl (fun t x => insertBy x t) []).map fun x => x.2.2
  (s.diesOf r).foldl (fun (m : Option (List Nat)) d =>
    match s.roomAfter d r tiles [] (on d) with
    | none => m
    | some xs => match m with
      | none => some xs
      | some ys => if xs.length < ys.length then some xs else some ys) none

/-- The clusters whose pre-emption has been requested. -/
def State.leaving (s : State) : List Nat :=
  ((s.blocks.filter fun kv => (kv.2.preempt || kv.2.saving.isSome) && kv.2.home.isSome).map fun kv => kv.2.cluster).eraseDups

/-! ### The decision -/

/-- The queues with ready work, and whether the head of each fits. -/
structure Cand where
  num : Nat
  q : Queue
  w : Work
  rcd : Rec
  tiles : List Nat
  spot : Option (Nat × List Nat)

/-- R121: the cost of a cluster. -/
def Cand.cost (c : Cand) : Nat := c.rcd.warps * c.tiles.length

def State.cands (s : State) : List Cand :=
  s.queues.filterMap fun kv =>
    match s.headOf kv.2 with
    | none => none
    | some w => (s.needs w).map fun x => ⟨kv.1, kv.2, w, x.1, x.2, (s.headFits kv.2).map fun f => f.2⟩

/-- R121: the loop of the decision over the queues of a level, from position `p`: the queue served and the deficits. `ring` holds the
queues' numbers, `fits` those whose heads fit. -/
def serveLoop (ring : List Nat) (fits : List Cand) : Nat → Nat → Tab Nat → Option (Cand × Tab Nat)
  | 0, _, _ => none
  | fuel + 1, p, ds =>
    match fits.find? fun c => c.num == p && decide (c.cost ≤ tgetD ds p 0) with
    | some c => some (c, tset ds p (tgetD ds p 0 - c.cost))
    | none =>
      match following id p ring with
      | none => none
      | some q => serveLoop ring fits fuel q (if fits.any fun c => c.num == q then tset ds q (tgetD ds q 0 + 64) else ds)

/-- R122: what a decision does to the queues that it passes over. -/
def aged (ceil : Nat) (q : Queue) : Queue :=
  if q.passes + 1 < 65536 then { q with passes := q.passes + 1 }
  else if q.level < ceil then { q with passes := 0, level := q.level + 1 }
  else { q with passes := 0, starved := true }

/-- R121, R122: one cluster placed: the queue served, its deficit, and the ageing of the others. -/
def State.placeOne (s : State) (cs : List Cand) : Option State :=
  let L := (cs.filter fun c => c.spot.isSome).foldl (fun m c => max m (c.q.level + 1)) 0
  if L = 0 then none
  else
    let ring := s.queues.filter fun kv => kv.2.level + 1 == L && kv.2.st != QState.free
    let fits := cs.filter fun c => c.q.level + 1 == L && c.spot.isSome
    let ds : Tab Nat := ring.map fun kv => (kv.1, kv.2.deficit)
    match serveLoop (tkeys ring) fits (8 * ring.length + 8) (tgetD s.levelPtr (L - 1) 0) ds with
    | none => none
    | some (c, ds) =>
      match c.spot with
      | none => none
      | some (die, cores) =>
        let s := s.placeHead c.num c.w die cores
        let s := { s with
          levelPtr := tset s.levelPtr (L - 1) c.num
          queues := tmap (fun k (q : Queue) =>
            let q := match tget? ds k with | some d => { q with deficit := d } | none => q
            if k = c.num then { q with level := q.prio, passes := 0, starved := false }
            else if cs.any fun x => x.num == k then
              aged (match tget? s.ctxs q.ctx with | some x => x.ceil | none => 63) q
            else q) s.queues }
        some (s.modQueue c.num fun q => if (s.headOf q).isNone then { q with deficit := 0 } else q)

/-- R125: the pre-emption that a decision requests: for a head of the highest level that fits nowhere. -/
def State.makeRoom (s : State) (cs : List Cand) : Option State :=
  let H := cs.foldl (fun m c => max m c.q.level) 0
  let top := cs.filter fun c => c.q.level == H
  if top.any fun c => c.spot.isSome then none
  else
    let gone := s.without s.leaving
    let try' := fun (c : Cand) =>
      if !s.rowsFit c.w || ((s.diesOf c.rcd).any fun d => (gone.dieFits d c.rcd c.tiles).isSome) then none
      else (s.victims H c.rcd c.tiles).bind fun xs => if xs.isEmpty then none else some xs
    (top.findSome? try').map fun xs => xs.foldl (fun s cl => s.request cl) s

/-- R106: the clusters with a block on a quarantined core: they are saved and moved. -/
def State.stranded (s : State) : List Nat :=
  (s.clusters.filter fun kv => kv.2.resident && kv.2.blocks.any fun u =>
    match s.block? u with | some b => b.home.isSome && b.saving.isNone && s.quarantinedCore b.coreNo | none => false).map Prod.fst

/-- A save that can be made now: of a cluster whose forced save no longer waits (R59, R296), of one that leaves of itself (R126), or of
one that stands on a quarantined core (R106). -/
def State.saveDue (s : State) : Option State :=
  match s.clusters.find? fun kv => kv.2.resident && (kv.2.blocks.any fun u => ((s.block? u).bind Block.saving).isSome) && s.mayLeave kv.2 with
  | some kv => some (s.saveSoon kv.1 fun _ => 4)
  | none =>
    match s.clusters.find? fun kv => s.quiet kv.2 with
    | some kv => some (s.saveCluster kv.1 fun _ => 5)
    | none =>
      match s.stranded with
      | cl :: _ => some (s.saveSoon cl fun u =>
          match s.block? u with | some b => if s.quarantinedCore b.coreNo then 3 else 4 | none => 4)
      | [] => none

/-- One decision, where there is one to make: a save, a request for pre-emption or a placement. -/
def State.decision (s : State) : Option State :=
  match s.saveDue with
  | some s => some s
  | none =>
    let cs := s.cands
    if cs.isEmpty then none
    else match s.makeRoom cs with
      | some s => some s
      | none => s.placeOne cs

/-- R121 to R125: DISPATCH_DECISION. -/
def execDispatchDecision (s : State) : Out := .next (s.decision.getD s)

end Sys2Proof.Machine
end

