-- ==== Sys2Proof/Machine/Graphs.lean ====
section
/-! DEFINITION. Grids to their completion (R115), graphs (R116, R117, R393) and record queues (R118 to R120). -/

namespace Sys2Proof.Machine

open Sys2Proof

/-! ### Nodes -/

def nodeKey (g k : Nat) : Nat := g * 4096 + k
def State.node? (s : State) (g k : Nat) : Option (Graph × Node) :=
  match tget? s.graphs g with
  | some gr => (tget? gr.nodes k).map fun n => (gr, n)
  | none => none
def State.modNode (s : State) (g k : Nat) (f : Node → Node) : State :=
  { s with graphs := tmod s.graphs g fun gr => { gr with nodes := tmod gr.nodes k f } }

/-- R118: the control block's 64 bytes. -/
def Node.control (n : Node) : List Byte :=
  natLe 4 n.free ++ natLe 4 n.filled ++ natLe 4 n.head ++ natLe 4 n.tail ++ natLe 4 n.used ++ List.replicate 44 0

/-- R86, R118: the control block of a node written to memory by the record queue engine, as an access of the context: one that it may
not make loses it, and one that waits for the memory processor is made when it may be. -/
def State.writeControl (s : State) (g k : Nat) : State :=
  match s.node? g k with
  | none => s
  | some (gr, n) =>
    match s.reachVa (.mp gr.ctx) gr.ctx 8 n.ctlVa.toNat 64 permWr false true with
    | (.denied, s) => s.pkgFault gr.ctx 8 n.ctlVa.toNat 5
    | (.lost ra, s) => s.poisoned (mpWho gr.ctx 8) ra (s.lostStore 8 ra)
    | (.wait, s) => s.modNode g k fun x => { x with ctlWant := true }
    | (.ok ps, s) => (s.modNode g k fun x => { x with ctlWant := false }).pkgWrite (.mp gr.ctx) gr.ctx 8 n.ctlVa.toNat ps n.control none

/-- R118: a node changed, and its control block with it. -/
def State.setNode (s : State) (g k : Nat) (f : Node → Node) : State := (s.modNode g k f).writeControl g k

/-! ### Pushes -/

/-- R118: whether a push is the first of its sequencer that has no slot yet. -/
def firstWaiting (p : Push) (before : List Push) : Bool := p.slot.isNone && !(before.any fun x => x.uid == p.uid && x.slot.isNone)

/-- The first push that can reserve a slot now, with those before it and behind it. R359: those of a block that is saved wait for its
return. -/
def State.findPush (s : State) : List Push → List Push → Option (List Push × Push × List Push)
  | _, [] => none
  | before, p :: t =>
    let free := match s.node? p.graph p.node with | some (_, n) => decide (0 < n.free) || n.done | none => true
    if firstWaiting p before && free && (s.block? p.uid).all Block.active then some (before, p, t) else findPush s (before ++ [p]) t

/-- Whether a node takes records: its graph runs and its input has not ended. -/
def State.running (s : State) (g k : Nat) : Bool := match s.node? g k with | some (_, n) => !n.done | none => false

/-- R118, R356: slots reserved, in program order of each sequencer, as long as there are any; each starts its copy. A push
whose node is over has nothing left to do. -/
def State.reserve (s : State) : Nat → State
  | 0 => s
  | fuel + 1 =>
    match s.findPush [] s.pushes with
    | none => s
    | some (before, p, t) =>
      match s.node? p.graph p.node with
      | none => reserve (({ s with pushes := before ++ t }).opDone (some p.op)) fuel
      | some (_, n) =>
        if n.done then reserve (({ s with pushes := before ++ t }).opDone (some p.op)) fuel
        else
        let (id, s) := s.takeId
        let dst := n.ringVa.toNat + n.tail % n.cap * n.slotB
        let o : Op :=
          { uid := p.uid, st := .seq, ctr := none, word := 0, pc := match tget? s.ops p.op with | some o => o.pc | none => 0
            dests := [], flags := [], got := [], fin := .rqCopy dst n.slotB, left := 0, sfu := 0, bad := 0, retry := true }
        let s := { s with
          ops := tset s.ops id o
          pushes := before ++ [{ p with slot := some n.tail, copy := some id }] ++ t }
        reserve (s.setNode p.graph p.node fun n => { n with tail := n.tail + 1, free := n.free - 1, slots := n.slots ++ [false] }) fuel

/-- R118: back-pressure eased: pushes that wait take the slots that are free. -/
def State.reserveAll (s : State) : State := s.reserve s.pushes.length

/-! ### Consumers -/

/-- R119: a consumer launched with the oldest filled records. -/
def State.consume (s : State) (g k n : Nat) : State :=
  match s.node? g k with
  | none => s
  | some (gr, nd) =>
    let (_, s) := s.enterGrid gr.ctx gr.q nd.rcd (.consumer g k) (some (gr.q, gr.idx)) (nd.head % nd.cap) n
    s.setNode g k fun x => { x with head := x.head + n, filled := x.filled - n, used := x.used + n, consumers := x.consumers + 1 }

/-- R119: the end of a node's input: with every token held, what is filled is launched at once. -/
def State.endOfInput (s : State) (g k : Nat) : State :=
  match s.node? g k with
  | none => s
  | some (_, n) =>
    if n.kind = 2 ∧ !n.done ∧ n.waits ≤ n.tokens ∧ 0 < n.filled then
      (s.consume g k n.filled).modNode g k fun x => { x with armed := false }
    else s

/-- R117: whether a record-queue node is complete. -/
def Node.complete (n : Node) : Bool :=
  n.kind == 2 && !n.done && decide (n.waits ≤ n.tokens) && n.filled == 0 && n.used == 0 && n.consumers == 0

/-- R117: a node done: each node that it lists gets one token from it. -/
def State.nodeDone (s : State) (g k : Nat) : State :=
  match s.node? g k with
  | none => s
  | some (_, n) =>
    let s := s.modNode g k fun x => { x with done := true, armed := false }
    n.succ.eraseDups.foldl (fun (s : State) j => s.modNode g j fun x => { x with tokens := x.tokens + 1 }) s

/-- R117: nodes that are complete are done, one after another. -/
def State.finishNodes (s : State) (g : Nat) : Nat → State
  | 0 => s
  | fuel + 1 =>
    match tget? s.graphs g with
    | none => s
    | some gr =>
      match gr.nodes.find? fun kv => kv.2.complete with
      | some kv => finishNodes (s.nodeDone g kv.1) g fuel
      | none => s

/-- R117: grid nodes that hold their tokens enter dispatch, in ascending index. -/
def State.startNodes (s : State) (g : Nat) : State :=
  match tget? s.graphs g with
  | none => s
  | some gr =>
    gr.nodes.foldl (fun (s : State) kv =>
      if kv.2.kind = 1 ∧ !kv.2.started ∧ kv.2.waits ≤ kv.2.tokens then
        let (_, s) := s.enterGrid gr.ctx gr.q kv.2.rcd (.node g kv.1) (some (gr.q, gr.idx)) 0 0
        s.modNode g kv.1 fun x => { x with started := true }
      else s) s

/-- R117, R119: a graph after a change: ends of input, nodes that complete, nodes that become ready. With all nodes done it
is gone. -/
def State.settleGraph (s : State) (g : Nat) : State :=
  match tget? s.graphs g with
  | none => s
  | some gr =>
    let s := (tkeys gr.nodes).foldl (fun (s : State) k => s.endOfInput g k) s
    let s := (s.finishNodes g gr.nodes.length).startNodes g
    -- an end of input that those nodes brought
    let s := (tkeys gr.nodes).foldl (fun (s : State) k => s.endOfInput g k) s
    match tget? s.graphs g with
    | some x => if x.nodes.all fun kv => kv.2.done then { s with graphs := tdel s.graphs g } else s
    | none => s

/-! ### Records counted as filled -/

/-- R120: whether a node's prefetch is in flight: it has still to reach its source, or its copy has still to land. -/
def State.prefetching (s : State) (n : Node) : Bool :=
  n.pfWant || match n.pfOp with | some id => (tget? s.ops id).isSome | none => false

/-- The poison of the granule at an offset, where that of each piece of a read is given by its offset. -/
def poisonFrom (bad : List (Nat × Nat)) (o : Nat) : Nat :=
  match bad.find? fun x => x.1 / 16 == o / 16 && x.2 != 0 with | some x => x.2 | none => 0

/-- R120: a prefetch begun: PFDEST 1 changes no value; PFDEST 2 copies PFLEN bytes, poison with them, and sets the granules' bits when
they have landed. -/
def State.prefetch (s : State) (g k : Nat) : State :=
  match s.node? g k with
  | none => s
  | some (gr, n) =>
    if !n.pfWant then s
    else if n.pfDest ≠ 2 then s.modNode g k fun x => { x with pfWant := false, pfOp := none }
    else
      let c := gr.ctx
      match s.pkgMove c n.homeDie n.pfSrc.toNat n.pfLen with
      | (.error .denied, s) => s.pkgFault c n.homeDie n.pfSrc.toNat 4
      | (.error _, s) => s
      | (.ok (bs, bad), s) =>
        match s.reachVa (.mp c) c n.homeDie n.pfDst.toNat n.pfLen permWr false true with
        | (.wait, s) => s
        | (.lost _, s) => s
        | (.denied, s) => s.pkgFault c n.homeDie n.pfDst.toNat 5
        | (.ok ps, s) =>
          let (id, s) := s.openPkgOp (.prefetch (ps.flatMap fun p => granules (s.keyAt p.2.2.2.holder p.2.1) p.2.2.1))
          let s := s.pkgWrite (.mp c) c n.homeDie n.pfDst.toNat ps bs (some id) (poisonFrom bad)
          (s.opDone (some id)).modNode g k fun x => { x with pfWant := false, pfOp := some id }

/-- R119: as long as FILLED has reached TILE a consumer is launched with the TILE oldest records. -/
def State.launchTiles (s : State) (g k : Nat) : Nat → State
  | 0 => s
  | fuel + 1 =>
    match s.node? g k with
    | none => s
    | some (_, n) =>
      if n.filled < n.tile then s
      else launchTiles ((s.consume g k n.tile).modNode g k fun x => { x with armed := decide (0 < x.filled) }) g k fuel

/-- R118, R119: the slots that have landed from the oldest uncounted one on counted together: FILLED leaves 0, or reaches TILE; the push
of each is done. -/
def State.countFilled (s : State) (g k : Nat) : State :=
  match s.node? g k with
  | none => s
  | some (_, n) =>
    let m := (n.slots.takeWhile id).length
    if m = 0 then s
    else
      let lo := n.head + n.filled
      let counted := fun (p : Push) => p.graph == g && p.node == k && match p.slot with
        | some x => decide (lo ≤ x) && decide (x < lo + m)
        | none => false
      let mine := s.pushes.filter counted
      let busy := s.prefetching n
      let s := { s with pushes := s.pushes.filter fun p => !counted p }.setNode g k fun x =>
        { x with
          filled := x.filled + m, slots := x.slots.drop m
          pfWant := x.pfWant || (x.filled == 0 && x.pfDest != 0 && !busy), armed := x.armed || x.filled == 0 }
      let s := (s.prefetch g k).launchTiles g k (m + n.filled)
      mine.foldl (fun (s : State) p => s.opDone (some p.op)) s

/-- R118 to R120: RECORD_COUNTED_FILLED: a record has landed at its ring's home. A prefetch, or a control block, that had to wait goes on. -/
def execRecordCountedFilled (node slot : Nat) (s : State) : Out :=
  let g := node / 4096
  let k := node % 4096
  let s := s.reserveAll
  .next (match s.node? g k with
    | none =>
      -- the node's graph is over: nothing is left to count
      let mine := s.pushes.filter fun p => p.graph == g && p.node == k && p.slot == some slot
      let s := { s with pushes := s.pushes.filter fun p => !(p.graph == g && p.node == k && p.slot == some slot) }
      mine.foldl (fun (s : State) p => s.opDone (some p.op)) s
    | some (_, n) =>
      let i := slot - (n.head + n.filled)
      let ours := s.pushes.any fun p => p.graph == g && p.node == k && p.slot == some slot &&
        match p.copy with | some id => (tget? s.ops id).isNone | none => false
      let s := if ours then s.modNode g k fun x => { x with slots := x.slots.set i true } else s
      let s := if n.ctlWant then s.writeControl g k else s
      ((s.countFilled g k).prefetch g k).settleGraph g)

/-- R119: FLUSH_TIMER_EXPIRY: with records filled, all of them are launched. -/
def execFlushTimerExpiry (node : Nat) (s : State) : Out :=
  let g := node / 4096
  let k := node % 4096
  .next (match s.node? g k with
    | none => s
    | some (_, n) =>
      if n.kind ≠ 2 ∨ n.done ∨ !n.armed then s
      else
        let s := s.modNode g k fun x => { x with armed := false }
        if n.filled = 0 then s else s.consume g k n.filled)

/-! ### Completion -/

/-- R118, R357: slots returned to FREE. -/
def State.freeSlotsOf (s : State) (g k n : Nat) : State :=
  if n = 0 then s else (s.setNode g k fun x => { x with free := x.free + n, used := x.used - n }).reserveAll

/-- R115: the add to DONESIG at its home. -/
def State.doneSig (s : State) (g : Grid) : State :=
  let va := g.rcd.doneSig.toNat
  if va = 0 then s
  else if !s.permits g.ctx va (permRd ||| permWr ||| permAt) then s.pkgFault g.ctx 8 va 2
  else match s.walk g.ctx va with
    | some x => s.pkgAtomic g.ctx 8 va x.1 .add 1 none
    | none => s

/-- R115, R117: a grid completes. -/
def State.gridDone (s : State) (gid : Nat) (g : Grid) : State :=
  let s := s.doneSig g
  let s := if g.hasRows then s.freeRows (g.handle.toNat % 2 ^ 42) else s
  let s := { s with grids := tdel s.grids gid }
  match g.owner with
  | .packet .. | .device _ => s
  | .node gr k => (s.nodeDone gr k).settleGraph gr
  | .consumer gr k => (s.modNode gr k fun n => { n with consumers := n.consumers - 1 }).settleGraph gr
  | .regen h => match tget? s.regens h with | some r => s.due (.regenerationComplete r.pfx r.len) | none => s

/-- R114: the blocks of a cluster stay co-resident until all of them are over; then they leave. -/
def State.leaveTogether (s : State) (cl : Nat) : State :=
  match tget? s.clusters cl with
  | none => s
  | some c =>
    if (c.blocks.filterMap fun u => s.block? u).all fun b => b.gone then
      { s with blocks := c.blocks.foldl tdel s.blocks, clusters := tdel s.clusters cl }
    else s

/-- R115, R118: a block is over: its slots return, its grid counts it, and with the last block of its cluster all of them leave. -/
def State.blockOver (s : State) (uid : Nat) (b : Block) : State :=
  let s := match b.consumer with
    | some c => s.freeSlotsOf c.graph c.node (c.count - c.freed)
    | none => s
  let s := (s.modBlock uid fun x => { x with gone := true, consumer := none }).leaveTogether b.cluster
  let s := match s.cur with | some (u, _) => if u = uid then s.waits else s | none => s
  match tget? s.grids b.grid with
  | none => s
  | some g =>
    let g := { g with doneBlocks := g.doneBlocks + 1 }
    let s := { s with grids := tset s.grids b.grid g }
    if g.rcd.blocks ≤ g.doneBlocks then s.gridDone b.grid g else s

/-- R86, R94, R115: the service that the add to DONESIG waits for once a grid's last block is over: of a copy-on-write page, as for any
other write; the state with the request for it. -/
def State.doneSigWaits (s : State) (b : Block) : Option State :=
  match tget? s.grids b.grid with
  | none => none
  | some g =>
    let va := g.rcd.doneSig.toNat
    if va = 0 ∨ g.doneBlocks + 1 < g.rcd.blocks ∨ !s.permits g.ctx va (permRd ||| permWr ||| permAt) then none
    else match s.walk g.ctx va with
      | some x => if x.2.1 &&& permCow = 0 then none else some (s.callFor (.mp g.ctx) g.ctx 8 va x.1 false .cow)
      | none => none

/-- R75, R115: BLOCK_COMPLETION: the block's writes are released first; once they have landed it is over. -/
def execBlockCompletion (uid : Nat) (s : State) : Out :=
  .next (match s.block? uid with
    | none => s
    | some b =>
      if !s.blockDone uid b || !b.active then s
      else if b.released then (s.doneSigWaits b).getD (s.blockOver uid b)
      else match s.beginFence b.coreNo uid .seq .rel .sys with
        | none => s
        | some (none, s) => s.modBlock uid fun x => { x with released := true }
        | some (some k, s) =>
          (s.openRound b.coreNo uid .seq .plain 0 0 none k).2.modBlock uid fun x => { x with released := true })

/-! ### Graph descriptors -/

/-- R116: a node entry's fields that do not need the other nodes. -/
def nodeOf (e : List Byte) (r : Rec) : Node :=
  let f := fun (lo n : Nat) => leNat ((e.drop lo).take n)
  let w := fun (lo : Nat) => (BitVec.ofNat 64 (f lo 8) : W64)
  { kind := f 0 1, waits := f 2 2, rcd := r, succ := (List.range (f 1 1)).map fun j => f (16 + 2 * j) 2
    ringVa := w 32, ctlVa := w 40, slotB := f 48 2, cap := f 50 2, tile := f 52 2, homeDie := f 54 1, pfDest := f 55 1
    flush := f 56 4, pfLen := f 60 4, pfSrc := w 64, pfDst := w 72, tokens := 0, started := false, done := false, free := f 50 2
    filled := 0, head := 0, tail := 0, used := 0, slots := [], armed := false, pfWant := false, pfOp := none, consumers := 0 }

/-- R116: an entry that keeps its own ranges. -/
def State.nodeOk (s : State) (e : List Byte) (n : Node) (count : Nat) : Bool :=
  let z := fun (lo k : Nat) => ((e.drop lo).take k).all (· == 0)
  (n.kind == 1 || n.kind == 2) && decide (n.succ.length ≤ 8) && z 4 4 && z 80 48 &&
  z (16 + 2 * n.succ.length) (16 - 2 * n.succ.length) && n.succ.all (fun j => decide (j < count)) &&
  (if n.kind = 1 then z 32 48
   else
    n.ringVa.toNat % 128 == 0 && n.ctlVa.toNat % 64 == 0 && n.slotB % 16 == 0 && decide (16 ≤ n.slotB) && decide (n.slotB ≤ 4096) &&
    decide (1 ≤ n.cap) && decide (1 ≤ n.tile) && decide (n.tile ≤ n.cap) && decide (n.homeDie < 8) && s.dieLive n.homeDie &&
    decide (n.pfDest ≤ 2) && decide (1 ≤ n.flush) && n.pfLen % 128 == 0 && decide (n.pfLen ≤ 2 ^ 25) && (n.pfDest != 0 || n.pfLen == 0) &&
    n.rcd.gridX == 1 && n.rcd.gridY == 1 && n.rcd.gridZ == 1 && n.rcd.cblocks == 1)

/-- R116: nodes left when those without predecessors are taken away, as often as there are nodes: a cycle remains. -/
def peel (ns : Tab Node) : Nat → List Nat → List Nat
  | 0, left => left
  | fuel + 1, left =>
    peel ns fuel (left.filter fun k => left.any fun j => match tget? ns j with | some n => n.succ.contains k | none => false)

/-- R116: the whole graph: WAITS are the counts of the lists that name a node, and there is no cycle. -/
def graphOk (ns : Tab Node) : Bool :=
  (ns.all fun kv => kv.2.waits == (ns.filter fun x => x.2.succ.contains kv.1).length) &&
  (peel ns ns.length (tkeys ns)).isEmpty

/-- What reading a graph descriptor brings. -/
inductive Descr where
  | ok (ns : Tab Node)
  | bad
  | wait
  | lost
  deriving DecidableEq, Repr

/-- R116: the node entries read and judged one after another. -/
def State.readNodes (s : State) (c count : Nat) : List (List Byte) → Tab Node → Descr × State
  | [], ns => (if graphOk ns then .ok ns else .bad, s)
  | e :: t, ns =>
    match s.readRecord c 8 (leNat ((e.drop 8).take 8)) with
    | (.bad, s) => (.bad, s)
    | (.wait, s) => (.wait, s)
    | (.lost, s) => (.lost, s)
    | (.ok r, s) =>
      let n := nodeOf e r
      if s.nodeOk e n count then readNodes s c count t (ns ++ [(ns.length, n)]) else (.bad, s)

/-- R116: a graph descriptor read and judged. -/
def State.readGraph (s : State) (c va : Nat) : Descr × State :=
  match s.pkgRead c 8 va 64 with
  | (.denied, s) => (.bad, s)
  | (.wait, s) => (.wait, s)
  | (.lost, s) => (.lost, s)
  | (.bytes hd, s) =>
    let n := leNat (hd.take 4)
    if n < 1 ∨ 4096 < n ∨ (hd.drop 4).any (· != 0) then (.bad, s)
    else match s.pkgRead c 8 (va + 64) (128 * n) with
      | (.denied, s) => (.bad, s)
      | (.wait, s) => (.wait, s)
      | (.lost, s) => (.lost, s)
      | (.bytes bs, s) => s.readNodes c n ((List.range n).map fun k => (bs.drop (128 * k)).take 128) []

end Sys2Proof.Machine
end

