-- ==== Sys2Proof/Machine/Engines.lean ====
section
/-! DEFINITION. Collectives (R352, R353), contribution-counted reductions (R217, R354), device-side launch (R355) and record
pushes and pops (R356, R357). -/

namespace Sys2Proof.Machine

open Sys2Proof

/-! ### Collectives -/

/-- A slot of a block that has nothing under way. -/
def CollSlot.idle (status : Nat) (bufs : List (Nat × Nat)) : CollSlot := ⟨0, false, status, 0, bufs⟩

/-- R167: whether a line, by its number, holds bytes of one of the buffers that a block names. -/
def State.namedLine (s : State) (b : Block) (bufs : List (Nat × Nat)) (line : Nat) : Bool :=
  bufs.any fun x =>
    (List.range ((x.1 % 2 ^ 14 + x.2 + 2 ^ 14 - 1) / 2 ^ 14)).any fun i =>
      let va := max x.1 (x.1 / 2 ^ 14 * 2 ^ 14 + 2 ^ 14 * i)
      let hi := min (x.1 + x.2) ((va / 2 ^ 14 + 1) * 2 ^ 14)
      match s.walk b.ctx va with
      | some w => decide (w.1 / 128 ≤ line) && decide (line * 128 < w.1 + (hi - va))
      | none => false

/-- R167: the release of named buffers: their lines leave the core's L1 with their bytes sent on; answers whether every write of the
core to them has landed. -/
def State.releaseNamed (s : State) (b : Block) (bufs : List (Nat × Nat)) : State × Bool :=
  let core := b.coreNo
  let lines := match tget? s.cores core with | some c => (tkeys c.l1).filter fun n => s.namedLine b bufs n | none => []
  let s := lines.foldl (fun (s : State) n => s.dropLine core n none) s
  (s, !(s.writes.any fun kv => kv.2.core == some core && kv.2.bytes.any fun x => s.namedLine b bufs (x.1 / 128)) &&
    !(s.reqs.any fun kv => kv.2.core == some core && kv.2.counted && s.namedLine b bufs (kv.2.ra / 128)))

/-- R165, R180: whether a command issued before an op has writes to named buffers still to send. DESIGN CHOICE: a chain and a record
push have, whatever they write: where they write is not known before they read it (notes/assumptions/89.md). -/
def State.namedOut (s : State) (b : Block) (bufs : List (Nat × Nat)) (uid id : Nat) : Bool :=
  (s.pushes.any fun p => p.uid == uid && decide (p.op < id)) ||
  s.ops.any fun kv => decide (kv.1 < id) && kv.2.uid == uid && match kv.2.fin with
    | .chain _ | .rqTable .. | .rqPush .. | .rqCopy .. => true
    | .drainMem ps => ps.any fun p => s.namedLine b bufs (p.2 / 128)
    | .redc line ready .. => s.namedLine b bufs (line / 128) || s.namedLine b bufs (ready / 128)
    | _ => false

/-- R352: whether a slot has a collective under way. -/
def State.collBusy (s : State) (uid : Nat) (b : Block) (slot : Nat) : Bool :=
  (match tget? b.colls slot with | some c => c.busy | none => false) ||
  s.under uid fun f => match f with | .collHead k => k == slot | .collBody k _ => k == slot | _ => false

/-- R352: COLL. -/
def execColl (l : Lat) (a : SReg) (slot : Fin 4) (s : State) : Out :=
  seqGate l [a] (fun h s =>
    let va := (h.get a).toNat
    if va % 64 != 0 || highVa va then s.seqIllegal h
    else if s.collBusy h.uid h.b slot.val then s.seqBlock h .engine
    else s.seqRead h l (.collHead slot.val) [] va 64 false .dom true) s

/-- R167, R352: CTWAIT: the status of its slot, and an acquire of the buffers named; a slot never used reads DONE. -/
def execCtwait (l : Lat) (d : SReg) (slot : Fin 4) (s : State) : Out :=
  seqGate l [d] (fun h s =>
    if s.collBusy h.uid h.b slot.val then s.seqBlock h .engine
    else
      let (st, bufs) := match tget? h.b.colls slot.val with | some c => (c.status, c.bufs) | none => (0, [])
      if s.loading h.uid .seq then s.waits
      else (s.dropLines h.b.coreNo (s.namedLine h.b bufs)).seqDone h l [(d.val, statusW st)]) s

/-- R352: the fields of a descriptor. -/
structure Desc where
  oper : Nat
  npart : Nat
  rank : Nat
  anchor : Nat
  key : Nat
  src : Nat
  dst : Nat
  bytes : Nat
  timeout : Nat
  root : Nat
  deriving DecidableEq, Repr

def descOf (bs : List Byte) : Desc :=
  ⟨efld bs 0 1, efld bs 2 2, efld bs 4 2, efld bs 6 2, efld bs 8 8, efld bs 16 8, efld bs 24 8, efld bs 32 4, efld bs 36 4, efld bs 40 8⟩

/-- R353: the bytes that a participant's destination takes. -/
def Desc.outBytes (d : Desc) : Nat := if d.oper = 3 then d.npart * d.bytes else d.bytes
/-- R167: the buffers that a descriptor names. -/
def Desc.bufs (d : Desc) : List (Nat × Nat) := [(d.src, d.bytes), (d.dst, d.outBytes)]

/-- R80, R352: a descriptor that keeps its ranges. DEDUCED: a buffer with an address of which any of bits [63:57] is set breaks them: the
COLL has been issued by then (notes/assumptions/87.md). -/
def descOk (bs : List Byte) : Bool :=
  let d := descOf bs
  decide (d.oper ≤ 5) && efld bs 1 1 == 0 && decide (1 ≤ d.npart) && decide (d.npart ≤ 1024) && decide (d.rank < d.npart) &&
  decide (d.anchor < 4096) && d.src % 128 == 0 && d.dst % 128 == 0 && d.bytes % 128 == 0 &&
  (decide (2 < d.oper) || decide (d.bytes ≤ 262144)) && (d.oper != 5 || d.bytes == 0) &&
  decide (d.root < 2 ^ 17) && holderStore d.root == 3 && (bs.drop 48).all (· == 0) &&
  decide (d.src + d.bytes ≤ 2 ^ 57) && decide (d.dst + d.outBytes ≤ 2 ^ 57)

/-- The key of an instance among those of its domain context. -/
def State.collKey (s : State) (c key : Nat) : Nat := s.routeCtx c * 2 ^ 64 + key

/-- R353: an outcome given to a participant's slot; a sequencer that waits for it looks again. -/
def State.deliver (s : State) (uid slot status : Nat) : State :=
  (s.modBlock uid fun b => { b with colls := tset b.colls slot (CollSlot.idle status (match tget? b.colls slot with
    | some c => c.bufs
    | none => [])) }).unblock uid .seq fun x => x == .engine

/-- R353: an instance decided: every part that waits gets the code; the instance stays for the ranks still to come. -/
def State.decideColl (s : State) (key : Nat) (c : Coll) (code : Nat) : State :=
  let s := c.parts.foldl (fun (s : State) p => s.deliver p.uid p.slot code) s
  { s with colls := if c.npart ≤ c.seen.length then tdel s.colls key else tset s.colls key { c with parts := [], outcome := some code, op := none } }

/-- R353: whether a part's descriptor differs from its instance's. -/
def Coll.differs (c : Coll) (d : Desc) : Bool :=
  c.oper != d.oper || c.npart != d.npart || c.bytes != d.bytes || c.anchor != d.anchor || c.root != d.root

/-- R352, R353: a participant's part arrives at the root. A new instance for whose state the root's store has no room yet is held
(notes/assumptions/16.md). -/
def State.sendPart (s : State) (id : Nat) (o : Op) (c slot : Nat) (d : Desc) (data : List Byte) : State :=
  let key := s.collKey c d.key
  let p : Part := ⟨o.uid, slot, d.rank, d.dst, data, d.timeout, o.pc⟩
  if (tget? s.colls key).isNone && Config.collHeld d.root s.next then { s.again id with next := s.next + 1 } else
  let s := (s.modBlock o.uid fun b => { b with colls := tset b.colls slot ⟨key, true, 0, 0, d.bufs⟩ }).completeOp id
  match tget? s.colls key with
  | none =>
    let x : Coll :=
      { ctx := c, oper := d.oper, npart := d.npart, bytes := d.bytes, anchor := d.anchor, root := d.root, parts := [p], seen := [d.rank]
        outcome := none, op := none }
    { s with colls := tset s.colls key x }
  | some x =>
    let y := { x with seen := if x.seen.contains d.rank then x.seen else d.rank :: x.seen }
    match x.outcome with
    | some code => s.decideColl key { y with parts := [p], npart := max x.npart d.npart } code
    | none =>
      let y := { y with parts := x.parts ++ [p] }
      if x.differs d || x.parts.any (fun q => q.rank == d.rank) then s.decideColl key { y with npart := max x.npart d.npart } 3
      else { s with colls := tset s.colls key y }

/-- R333, R354: an issuing core's copies of lines written back and dropped, where it has translations for them. -/
def State.flushVa (s : State) (b : Block) (va n : Nat) : State :=
  if b.home.isNone || n = 0 then s
  else
    (List.range ((va % 128 + n + 127) / 128)).foldl (fun (s : State) i =>
      match s.walk b.ctx (va / 128 * 128 + 128 * i) with
      | some x => s.dropLine b.coreNo (x.1 / 128) none
      | none => s) s

/-- R167, R180, R352: the descriptor is here: it is judged, the buffers that it names are released, and then the source is read where the
operation takes one. -/
def State.finishCollHead (s : State) (id : Nat) (o : Op) (b : Block) (slot : Nat) : State :=
  let bs := (List.range 64).map fun i => tgetD o.got i 0
  let d := descOf bs
  if !descOk bs then
    ((s.modBlock o.uid fun b => { b with colls := tdel b.colls slot }).deliver o.uid slot 1).completeOp id
  else
    let (s, done) := s.releaseNamed b d.bufs
    if !done || s.namedOut b d.bufs o.uid id then s.again id
    else if d.oper = 5 ∨ (d.oper = 4 ∧ d.rank ≠ 0) ∨ d.bytes = 0 then s.sendPart id o b.ctx slot d []
    else s.readMore id o b (.collBody slot bs) d.src d.bytes 0 .load .own

/-- R352: the source is here: the part is sent. -/
def State.finishCollBody (s : State) (id : Nat) (o : Op) (b : Block) (slot : Nat) (desc : List Byte) : State :=
  let d := descOf desc
  s.sendPart id o b.ctx slot d ((List.range d.bytes).map fun i => tgetD o.got i 0)

/-- R217: an element's value rounded once. -/
def elemOut (anchor : Int) (w : Int) (flagged : Bool) : Nat :=
  if flagged then Fmt.genNan .f32
  else if !guardOk w then Fmt.withSign .f32 (decide (w < 0)) (Fmt.infCode .f32)
  else if w = 0 then 0
  else (roundMag .f32 .rne false (decide (w < 0)) ⟨w.natAbs, anchor - 80, false⟩).1

/-- R206, R353: the exact sum of f32 values under an anchor, rounded once. -/
def sumAt (anchor : Int) (xs : List Nat) : Nat :=
  let r := xs.foldl (fun (r : Row) x => r.addOne 0 (Fmt.decode .f32 x)) (Row.zero 0 0 0 0 1 anchor)
  elemOut anchor (r.at' 0) (r.flagged 0)

/-- R284, R353: the greatest or least of f32 values. -/
def extreme (mx : Bool) (xs : List Nat) : Nat :=
  match xs.filter fun x => !(Fmt.decode .f32 x).isNan with
  | [] => Fmt.genNan .f32
  | x :: t => t.foldl (fun m y => ((if mx then Scalar.fmax false m y else Scalar.fmin false m y) : Res).1) x

/-- R353: the bytes that every destination receives. -/
def Coll.result (c : Coll) : List Byte :=
  let data := fun (r : Nat) => match c.parts.find? fun p => p.rank == r with | some p => p.data | none => []
  let word := fun (p : Part) (i : Nat) => leNat ((p.data.drop (4 * i)).take 4)
  let each := fun (f : List Nat → Nat) => (List.range (c.bytes / 4)).flatMap fun i => natLe 4 (f (c.parts.map fun p => word p i))
  match c.oper with
  | 0 => each (sumAt (BitVec.ofNat 12 c.anchor).toInt)
  | 1 => each (extreme true)
  | 2 => each (extreme false)
  | 3 => (List.range c.npart).flatMap data
  | 4 => data 0
  | _ => []

/-- R98, R101: whose a participant's writes are: those of its COLL's engine, with the COLL's PC. -/
def State.partWho (s : State) (c die : Nat) (p : Part) : Who :=
  match s.block? p.uid with
  | some b => b.engineWho p.uid 5 p.pc
  | none => { mpWho c die with agent := .engine p.uid, pc := p.pc }

/-- R86, R353: the destinations of all parts found, or why not. -/
def State.reachParts (s : State) (c die n : Nat) : List Part → List (Part × List (Nat × Nat × Nat × Entry)) →
    Option (List (Part × List (Nat × Nat × Nat × Entry))) × State
  | [], acc => (some acc, s)
  | p :: t, acc =>
    match s.reachVa (.engine p.uid) c die p.dst n permWr false true with
    | (.ok ps, s) => reachParts s c die n t (acc ++ [(p, ps)])
    | (.wait, s) => (none, s)
    | (.lost ra, s) => (none, s.poisoned (s.partWho c die p) ra (s.lostStore die ra))
    | (.denied, s) => (none, s.pkgFault c die p.dst 5)

/-- R353: COLLECTIVE_COMPLETION: with every rank there, the destinations are written; with every piece landed, all
participants read DONE. -/
def execCollectiveCompletion (key : Nat) (s : State) : Out :=
  .next (match tget? s.colls key with
    | none => s
    | some c =>
      if c.outcome.isSome || c.parts.length ≠ c.npart then s
      else match c.op with
        | some id => if (tget? s.ops id).isSome then s else s.decideColl key c 0
        | none =>
          let bs := c.result
          if bs.isEmpty then s.decideColl key c 0
          else
            let die := holderDie c.root
            match s.reachParts c.ctx die bs.length c.parts [] with
            | (none, s) => s
            | (some xs, s) =>
              let (id, s) := s.openPkgOp
              let s := xs.foldl (fun (s : State) x =>
                let s := match s.block? x.1.uid with | some b => s.flushVa b x.1.dst bs.length | none => s
                s.pkgWrite (.engine x.1.uid) c.ctx die x.1.dst x.2 bs (some id)) s
              ({ s with colls := tset s.colls key { c with op := some id } }).opDone (some id))

/-- R353: COLLECTIVE_TIMEOUT: a participant's TIMEOUT passes before every rank has come. -/
def execCollectiveTimeout (key rank : Nat) (s : State) : Out :=
  .next (match tget? s.colls key with
    | none => s
    | some c =>
      if c.outcome.isNone && decide (c.parts.length < c.npart) && c.parts.any fun p => p.rank == rank && p.timeout != 0 then
        s.decideColl key c 2
      else s)

/-! ### Contribution-counted reductions -/

/-- R354: REDC. -/
def execRedc (l : Lat) (pad : Bool) (n a b c : SReg) (s : State) : Out :=
  seqGate l [n, a, b, c] (fun h s =>
    let x := (h.get n).toNat
    let src := (h.get a).toNat
    let dst := (h.get b).toNat
    let rdy := (h.get c).toNat
    if x % 2 ^ 32 = 0 ∨ x / 2 ^ 44 ≠ 0 ∨ dst % 128 ≠ 0 ∨ rdy % 8 ≠ 0 ∨ highVa dst ∨ highVa rdy then s.seqIllegal h
    else if pad ∧ (s.padKey h.b .core (src : Int) 128).isNone then s.seqIllegal h
    else if !pad ∧ (highVa src ∨ highVa (src + 127)) then s.seqIllegal h
    else match s.translate h.b.coreNo (h.who 2) (permRd ||| permWr ||| permAt) [⟨0xFF, dst, 128⟩, ⟨0xFF, rdy, 8⟩] with
      | .error s' => s'
      | .ok ras =>
        let line := ras.headD 0
        let fin := Fin'.redc line (ras.getD 1 0) (x / 2 ^ 32) (x % 2 ^ 32)
        let s := (s.dropLine h.b.coreNo (line / 128) none).dropLine h.b.coreNo (ras.getD 1 0 / 128) none
        if pad then
          match s.padKey h.b .core (src : Int) 128 with
          | none => s.seqIllegal h
          | some k =>
            match s.rowsPoison [k] 128 with
            | some (y, p) => s.poisoned (h.b.readWho h.uid h.run.va true) y p
            | none => s.seqHave h l fin [] (s.rdN h.b.ctx k 128) false .dom
        else s.seqRead h l fin [] src 128 false .dom true) s

/-- R354: whether an earlier REDC of the same sequencer to the same line has still to be counted. -/
def State.redcBefore (s : State) (id : Nat) (o : Op) (line : Nat) : Bool :=
  s.ops.any fun kv => decide (kv.1 < id) && kv.2.uid == o.uid && match kv.2.fin with | .redc l _ _ _ => l == line | _ => false

/-- R160, R217, R354: the source is here: the contribution sets out, as a write of its core, once the core's writes to its line and its
ready word have landed and its sequencer's earlier contributions to the line have been counted. -/
def State.finishRedc (s : State) (id : Nat) (o : Op) (b : Block) (line ready anchor n : Nat) : State :=
  if s.contribs.any fun kv => kv.2.op == id then s
  else if s.unlanded b.coreNo (line / 128 * 128) 128 || s.unlanded b.coreNo ready 8 || s.redcBefore id o line then s.again id
  else
    let s := { s with ops := tmod s.ops id fun o => { o with retry := false } }
    let (rd, s) := s.countSent (some b.coreNo)
    let (k, s) := s.takeId
    let words := (List.range 32).map fun i => (BitVec.ofNat 32 (leNat ((List.range 4).map fun j => tgetD o.got (4 * i + j) 0)) : W32)
    let c : Contribution := ⟨o.uid, b.ctx, b.die, line, anchor, n, words, ready, id, b.coreNo, rd⟩
    { s with contribs := tset s.contribs k c }

/-- R206, R217: a contribution's words added to a line state. -/
def RedcLine.add (r : RedcLine) (c : Contribution) : RedcLine :=
  let a := (BitVec.ofNat 12 r.anchor).toInt
  let row : Row := { Row.zero r.die 0 0 0 32 a with w := r.w, flag := r.flag }
  let row := ((List.range 32).zip c.words).foldl (fun (x : Row) iw => x.addOne iw.1 (Fmt.decode .f32 iw.2.toNat)) row
  let row := if c.anchor ≠ r.anchor ∨ c.n ≠ r.n then (List.range 32).foldl (fun (x : Row) i => x.flagAt i) row else row
  { r with count := r.count + 1, w := row.w, flag := row.flag }

/-- R217: the line's 128 bytes. -/
def RedcLine.bytes (r : RedcLine) : List Byte :=
  (List.range 32).flatMap fun i => natLe 4 (elemOut (BitVec.ofNat 12 r.anchor).toInt (tgetD r.w i 0).toInt (tgetD r.flag i false))

/-- R101, R217: a line that has its count: its state freed, and it is written at its home, for the contribution `c` that completes it, with
the PC of its REDC. The ready word is raised once the line has landed at every holder (R47, R159). -/
def State.closeLine (s : State) (line : Nat) (r : RedcLine) (c : Contribution) (pc : W64) : State :=
  let s := { s with redcs := tdel s.redcs (line / 128) }
  let (id, s) := s.openPkgOp (.lineDone c.uid r.ctx r.die r.ready)
  let s := { s with ops := tmod s.ops id fun o => { o with pc := pc } }
  s.serve (pkgReq .engineWrite (.engine c.uid) r.ctx r.die 0 line 128 (bytesAt line r.bytes) (some id))

/-- R101, R217: the ready word of a line that has landed raised at its home, unless its context has been lost meanwhile. -/
def State.raiseReady (s : State) (uid c die ready : Nat) (pc : W64) : State :=
  if (tget? s.ctxs c).any fun x => x.lost.isNone then
    let (id, s) := s.openPkgOp
    let s := { s with ops := tmod s.ops id fun o => { o with pc := pc } }
    s.serve { pkgReq .engineWrite (.engine uid) c die 0 ready 8 [] (some id) with aop := some ⟨.add, 8, 1, 0⟩ }
  else s

/-- R98, R101: whose a contribution is: that of the REDC's engine, with the REDC's PC. -/
def State.contribWho (s : State) (c : Contribution) : Who :=
  let pc := match tget? s.ops c.op with | some o => o.pc | none => 0
  match s.block? c.uid with
  | some b => b.engineWho c.uid 2 pc
  | none => { mpWho c.ctx c.die with agent := .engine c.uid, pc := pc }

/-- R217, R354: REDC_CONTRIBUTION: a contribution counted at its line's home; it is held while its route is not known or the
reserve is full. -/
def execRedcContribution (rc : Nat) (s : State) : Out :=
  .next (match tget? s.contribs rc with
    | none => s
    | some c =>
      match s.pieceAt (.engine c.uid) c.ctx c.die 0 c.line 128 true false with
      | (.error (.lost ra), s) => s.poisoned (s.contribWho c) ra (s.lostStore c.die ra)
      | (.error _, s) => s
      | (.ok e, s) =>
        let die := holderDie e.holder
        if s.badAdders.contains (mkHolder s.pkg.device die 3) then
          ({ s with contribs := tdel s.contribs rc }.uncount (some c.core) c.round).residueAt (s.contribWho c) (mkHolder s.pkg.device die 3) c.line
        else
          let open' := match tget? s.redcs (c.line / 128) with
            | some r => some r
            | none =>
              if Config.lineStates < (s.redcs.filter fun (kv : Nat × RedcLine) => kv.2.die == die).length then none
              else some ({ ctx := c.ctx, die := die, anchor := c.anchor, n := c.n, count := 0, w := [], flag := [], ready := c.ready } : RedcLine)
          match open' with
          | none => s
          | some r =>
            let r := r.add c
            let s := { s with contribs := tdel s.contribs rc, redcs := tset s.redcs (c.line / 128) r }
            let pc := (s.contribWho c).pc
            let s := (s.countLanded (some c.core) c.round e.holder).completeOp c.op
            if r.n ≤ r.count then s.closeLine c.line r c pc else s)

/-! ### Device-side launch -/

/-- R355: LAUNCH: a release at .dom, and the record read as load events. -/
def execLaunch (l : Lat) (d a : SReg) (s : State) : Out :=
  seqGate l [d, a] (fun h s =>
    let va := (h.get a).toNat
    if va % 256 != 0 || highVa va then s.seqIllegal h else s.seqRead h l (.launch va) [(d.val, 0)] va 256 true .dom) s

/-- R121, R355: the number of a context's device queue of a level. -/
def deviceQueue (c level : Nat) : Nat := 2 ^ 17 + c * 64 + level

/-- A device queue is there once something is launched into it. -/
def State.needDeviceQueue (s : State) (c level : Nat) : State :=
  match tget? s.queues (deviceQueue c level) with
  | some _ => s
  | none =>
    let q : Queue :=
      { fn := 0, ctx := c, locNo := 0, ring := 0, logN := 0, prio := level, vec := 0, st := .active, code := 0, tail := 0, head := 0
        done := 0, pkts := [], hold := none, closer := none, work := [], deficit := 0, level := level, passes := 0, starved := false }
    { s with queues := tset s.queues (deviceQueue c level) q }

/-- R355: device-launched grids of a context that wait for dispatch. -/
def State.waitingGrids (s : State) (c : Nat) : Nat :=
  (s.grids.filter fun kv => kv.2.ctx == c && kv.2.nextCluster == 0 && match kv.2.owner with | .device _ => true | _ => false).length

/-- R355: the record is here: it is judged, and the grid entered. -/
def State.finishLaunch (s : State) (id : Nat) (o : Op) (b : Block) (va : Nat) : State :=
  match tget? s.ctxs b.ctx with
  | none => s.endWith id 1
  | some x =>
    if !x.dlaunch then s.endWith id 1
    else match s.judge b.ctx b.die va ((List.range 256).map fun i => tgetD o.got i 0) with
      | (.wait, s) => s.again id
      | (.lost, s) => s
      | (.bad, s) => s.endWith id 2
      | (.ok r, s) =>
        if 4096 ≤ s.waitingGrids b.ctx then s.endWith id 3
        else
          let g := tget? s.grids b.grid
          let level := match g.bind fun g => tget? s.queues g.q with | some q => q.level | none => 0
          let s := s.needDeviceQueue b.ctx level
          ((s.enterGrid b.ctx (deviceQueue b.ctx level) r (.device b.grid) (g.bind Grid.root) 0 0).2).endWith id 0

/-! ### Record pushes and pops -/

/-- R356: the lanes of an entry that have a record, with their index and source. -/
def recordLanes (e : QEntry) : List (Nat × Nat × Nat) :=
  (List.range 32).filterMap fun l =>
    let w := (e.data.getD l 0).toNat
    if w % 2 ^ 16 = 0xFFFF then none else some (l, w % 2 ^ 16, w / 2 ^ 16)

/-- A record push whose table is still being read. -/
def Fin'.readsTable : Fin' → Bool
  | .rqTable .. => true
  | _ => false

/-- R154, R356: RQPUSH: an entry popped, which is an acquire at .block, and its lanes' table entries read. -/
def execRqpush (l : Lat) (d a b c : SReg) (q : QReg) (sel : Fin 64) (s : State) : Out :=
  seqGate l [d, a, b, c] (fun h s =>
    if s.under h.uid Fin'.readsTable then s.waits
    else match h.b.select q.val sel.val with
      | none => s.seqBlock h (.queue q.val)
      | some e =>
        if !e.ready then s.seqBlock h (.queue q.val)
        else if s.loading h.uid .seq then s.waits
        else
          let ls := recordLanes e
          let ea := fun (i : Nat) => (h.get a + BitVec.ofNat 64 (8 * i)).toNat
          let core := h.b.coreNo
          let pop := fun (s : State) => (s.modBlock h.uid fun b => b.remove q.val e).wakeQueues h.uid
          let from' := fun (i : Nat) => (h.get b + BitVec.ofNat 64 i * h.get c).toNat
          if ls.any fun x => highVa (ea x.2.1) || highVa (from' x.2.2) then s.seqIllegal h
          else
            let ts := spanTouches (((List.range ls.length).zip ls).map fun ix => (8 * ix.1, ea ix.2.2.1, 8))
            let w := h.b.readWho h.uid h.run.va true
            match s.translate core w permRd (ts.map Prod.fst) with
            | .error s' => s'
            | .ok ras =>
              let rs := (ts.zip ras).map fun x => h.b.readReq w .load .nc x.1.1 x.2 x.1.2 none
              let (s, wait) := s.prepare core true rs
              if wait then s.waits
              else
                let (id, s) := (pop s).openSeqOp h l (.rqTable (h.get b) (h.get c) (ls.map fun x => (x.1, x.2.2))) [(d.val, 0)] rs.length
                rs.foldl (fun s r => s.loadPiece core { r with op := some id }) s) s

/-- R356: the running record-queue node of a context whose control block lies at a VA. -/
def State.nodeAt (s : State) (c va : Nat) : Option (Nat × Nat) :=
  s.graphs.findSome? fun kv =>
    if kv.2.ctx ≠ c then none
    else (kv.2.nodes.find? fun n => n.2.kind == 2 && !n.2.done && n.2.ctlVa.toNat == va).map fun n => (kv.1, n.1)

/-- R356: the status of a push. -/
def pushStatus (pushed code : Nat) : W64 := BitVec.ofNat 64 (pushed % 2 ^ 32 + code * 2 ^ 32)

/-- R356: the table entries are here: lanes are skipped or queue up for their slots. -/
def State.finishTable (s : State) (id : Nat) (o : Op) (b : Block) (src stride : W64) (lanes : List (Nat × Nat)) : State :=
  let each := fun (ix : Nat × Nat × Nat) =>
    let ctl := leNat ((List.range 8).map fun j => tgetD o.got (8 * ix.1 + j) 0)
    let va := (src + BitVec.ofNat 64 ix.2.2 * stride).toNat
    match s.nodeAt b.ctx ctl with
    | none => (Except.error 1 : Except Nat (Nat × Nat × Nat))
    | some (g, k) => if va % 16 ≠ 0 then .error 2 else .ok (g, k, va)
  let rs := ((List.range lanes.length).zip lanes).map each
  let code := (rs.findSome? fun r => match r with | .error c => some c | .ok _ => none).getD 0
  let ps := rs.filterMap fun r => match r with
    | .ok x => some (⟨o.uid, id, x.1, x.2.1, none, x.2.2, none⟩ : Push)
    | .error _ => none
  let dests := o.dests.map fun (kv : Nat × W64) => (kv.1, pushStatus ps.length code)
  let s := { s with ops := tmod s.ops id fun o => { o with fin := .rqPush ps.length code, left := ps.length, dests := dests } }
  if ps.isEmpty then s.completeOp id else ({ s with pushes := s.pushes ++ ps }).reserveAll

/-- R103, R356: one record's copy: its source read when it starts, then written into its slot. -/
def State.finishCopy (s : State) (id : Nat) (o : Op) (b : Block) (dst n : Nat) : State :=
  match s.pushes.find? fun p => p.copy == some id with
  | none => s.completeOp id
  | some p =>
    if o.got.isEmpty then s.readMore id o b (.rqCopy dst n) p.src n 0 .engineRead .nc
    else
      let core := b.coreNo
      let ts := seqTouches dst n
      match s.translate core (b.engineWho o.uid 5 o.pc) permWr ts with
      | .error s' => s'.again id
      | .ok ras =>
        let s := ras.foldl (fun (s : State) ra => s.dropLine core (ra / 128) none) s
        if (ts.zip ras).any fun x => s.unlanded core x.2 x.1.len then s.again id
        else
          let s := { s with ops := tmod s.ops id fun o => { o with fin := .rqLand, left := ts.length, retry := false } }
          (ts.zip ras).foldl (fun (s : State) x =>
            let (rd, s) := s.countSent (some core)
            s.serve { b.engineReq o.uid .engineWrite .nc true x.1.va x.2 x.1.len id with
              agent := .engine o.uid
              bytes := bytesAt x.2 ((List.range x.1.len).map fun j => tgetD o.got (x.1.va - dst + j) 0), round := rd
              poison := o.bad }) s

/-- R118: a record has landed. -/
def State.finishLand (s : State) (id : Nat) : State :=
  let s' := s.completeOp id
  match s.pushes.find? fun p => p.copy == some id with
  | some p => match p.slot with | some k => s'.due (.recordCountedFilled (nodeKey p.graph p.node) k) | none => s'
  | none => s'

/-- R357: RQPOP. -/
def execRqpop (l : Lat) (free : Bool) (d a : SReg) (s : State) : Out :=
  seqGate l [d, a] (fun h s =>
    let mine := match h.b.consumer with
      | some c => (match s.node? c.graph c.node with
        | some (_, n) => if n.ctlVa = h.get a then some (c, n) else none
        | none => none)
      | none => none
    match mine with
    | none => s.seqDone h l [(d.val, 0)]
    | some (c, n) =>
      if free then
        let k := c.popped - c.freed
        let s := s.modBlock h.uid fun b => { b with consumer := some { c with freed := c.popped } }
        (s.freeSlotsOf c.graph c.node k).seqDone h l [(d.val, statusW k)]
      else if c.count ≤ c.popped then s.seqDone h l [(d.val, 0)]
      else
        let va := n.ringVa.toNat + (c.first + c.popped) % n.cap * n.slotB
        (s.modBlock h.uid fun b => { b with consumer := some { c with popped := c.popped + 1 } }).seqDone h l [(d.val, BitVec.ofNat 64 va)]) s

end Sys2Proof.Machine
end

