-- ==== Sys2Proof/Machine/HostPort.lean ====
section
/-! DEFINITION. The host port (R60 to R62, R69 to R72): functions, accesses of BAR4 windows, tail writes and their order. -/

namespace Sys2Proof.Machine

open Sys2Proof

/-- R61: a function's registers. -/
def State.fnOf (s : State) (fn : Nat) : Fn := tgetD s.fns fn Fn.reset
def State.setFn (s : State) (fn : Nat) (f : Fn) : State := { s with fns := tset s.fns fn f }

/-- R63, R75, R100: an MSI-X message sent. -/
def State.msix (s : State) (fn vec : Nat) : State := { s with out := s.out ++ [.msix fn vec] }

/-- R62: a discarded access counted. -/
def State.countHostErr (s : State) (fn : Nat) : State :=
  let f := s.fnOf fn
  s.setFn fn { f with hosterr := if f.hosterr = BitVec.allOnes 32 then f.hosterr else f.hosterr + 1 }

/-- R62: a discarded access: a read answers zero. -/
def State.discardHost (s : State) (fn : Nat) (isWrite : Bool) : State :=
  let s := s.countHostErr fn
  if isWrite then s else { s with out := s.out ++ [.data fn (natLe 4 0)] }

/-! ### Queue errors and tails -/

/-- R71, R99: a queue enters ERROR and its context receives one QERROR record. Packets taken before run on. -/
def State.queueError (s : State) (q code : Nat) (idx user : W32) : State :=
  match tget? s.queues q with
  | none => s
  | some x =>
    if x.st != .active then s
    else
      let s := { s with queues := tset s.queues q { x with st := .error, code := code } }
      let (st, s) := s.readCycles 8
      s.record
        { code := 3, exact := true, redun := match tget? s.ctxs x.ctx with | some c => c.redun | none => false, ctx := x.ctx, die := 8
          core := 0xFF, warp := 0xFF, pc := 0, stamp := st
          body := natLe 4 q ++ natLe 1 code ++ natLe 3 0 ++ natLe 4 idx.toNat ++ natLe 4 user.toNat ++ natLe 16 0, keep := false }

/-- R72: a tail write to a queue. -/
def State.applyTail (s : State) (fn q : Nat) (v : W32) : State :=
  match tget? s.queues q with
  | none => s.countHostErr fn
  | some x =>
    if x.st != .active then s.countHostErr fn
    else if v = x.tail then s
    else if 2 ^ x.logN < (v - x.head).toNat then s.queueError q 1 v 0
    else { s with queues := tset s.queues q { x with tail := v } }

/-- R63: a tail write of the mailbox. -/
def State.applyMailbox (s : State) (fn : Nat) (v : W32) : State :=
  let f := s.fnOf fn
  if 256 < (v - f.done).toNat then s.countHostErr fn else s.setFn fn { f with tail := v }

/-! ### BAR4 accesses -/

/-- R20, R69: a Completer Abort, logged by AER as a non-fatal error: bit 15 of the uncorrectable status. -/
def State.abortHost (s : State) (fn : Nat) : State :=
  let f := s.fnOf fn
  let s := s.setFn fn { f with aerUncor := f.aerUncor ||| 0x8000 }
  { s with out := s.out ++ [.aer fn] }

/-- What a BAR4 access finds: it goes on, it is aborted, or it would consume lost or poisoned data of a store. -/
inductive HostReach where
  | go
  | abort
  | lost (ra store : Nat)
  deriving DecidableEq, Repr

/-- R69, R108: whether a context serves BAR4 accesses of a range of RAs: not lost, and within its grants: the RAs that they were given, or
a frame that their leaves map now (an alias's, or one that a copy on write has moved a page to). -/
def State.hostGranted (s : State) (c ra n : Nat) : Bool :=
  match tget? s.ctxs c with
  | some x => x.lost.isNone &&
    ((x.grants.any fun g => decide (g.ra ≤ ra) && decide (ra + n ≤ g.ra + g.len)) || (s.vaOf c ra).isSome)
  | none => false

/-- R69: one piece of a BAR4 access: a page in need of service calls for it and the access is aborted. -/
def State.hostPiece (s : State) (fn c : Nat) (isWrite : Bool) (p : Nat × Nat) : HostReach × State :=
  let ra := p.1
  if !s.hostGranted c ra p.2 then (.abort, s)
  else match (s.engine 8).resolve ra false isWrite with
    | .held .lostData => (.lost ra (s.lostStore 8 ra), s)
    | .held w => match w with
      | .unrouted | .regen => (.abort, s.callFor (.host fn) c 8 ((s.vaOf c ra).getD 0) ra false w)
      | _ => (.go, s)
    | .toward e =>
      if s.promotes e.holder ra then (.abort, s.callFor (.host fn) c 8 ((s.vaOf c ra).getD 0) ra false .promote)
      else
        let x := s.poisonIn (s.keyAt e.holder ra) p.2
        if !isWrite && x != 0 then (.lost ra (x - 1), s) else (.go, s)

/-- R69: all pieces of a BAR4 access, up to the first that does not go on. -/
def State.hostPieces (s : State) (fn c : Nat) (isWrite : Bool) : List (Nat × Nat) → HostReach × State
  | [] => (.go, s)
  | p :: t => match s.hostPiece fn c isWrite p with
    | (.go, s) => hostPieces s fn c isWrite t
    | x => x

/-- R69: the naturally aligned pieces, of at most 16 bytes, of `n` bytes at an RA: offset, RA and length. -/
def hostParts (ra n : Nat) : List (Nat × Nat × Nat) := (pieces ra (n + 1) 0 n).map fun p => (p.1, ra + p.1, p.2)

/-- An op of the host port; its `word` names the context. -/
def State.openHostOp (s : State) (c : Nat) (fin : Fin') : Nat × State :=
  let (id, s) := s.takeId
  let o : Op :=
    { uid := pkgUid, st := .seq, ctr := none, word := BitVec.ofNat 64 c, pc := 0, dests := [], flags := [], got := [], fin := fin, left := 1
      sfu := 0, bad := 0 }
  (id, { s with ops := tset s.ops id o })

/-- R69: a write of a window sent on its way. -/
def State.hostWrite (s : State) (fn c ra : Nat) (bs : List Byte) : State :=
  let ps := hostParts ra bs.length
  match s.hostPieces fn c true (ps.map Prod.snd) with
  | (.abort, s) => s.abortHost fn
  | (.lost ra st, s) => (s.abortHost fn).poisoned { mpWho c 8 with agent := .host fn } ra st
  | (.go, s) =>
    let (id, s) := s.openHostOp c (.host fn)
    (ps.foldl (fun (s : State) p => (s.opMore (some id)).serve
      (pkgReq .engineWrite (.host fn) c 8 0 p.2.1 p.2.2 (bytesAt p.2.1 ((bs.drop p.1).take p.2.2)) (some id))) s).opDone (some id)

/-- R69: a read of a window, once the writes before it have landed. -/
def State.hostRead (s : State) (fn c ra n : Nat) : State :=
  let ps := hostParts ra n
  match s.hostPieces fn c false (ps.map Prod.snd) with
  | (.abort, s) => s.abortHost fn
  | (.lost ra st, s) => (s.abortHost fn).poisoned { mpWho c 8 with agent := .host fn } ra st
  | (.go, s) =>
    let (id, s) := s.openHostOp c (.hostRead fn n)
    (ps.foldl (fun (s : State) p => (s.opMore (some id)).serve
      { pkgReq .engineUse (.host fn) c 8 0 p.2.1 p.2.2 [] (some id) with at' := p.1 }) s).opDone (some id)

/-! ### Order -/

/-- R69: whether a function has BAR4 writes that have not landed. -/
def State.hostWrites (s : State) (fn : Nat) : Bool := s.ops.any fun kv => kv.2.fin == .host fn

/-- R64: whether a function has BAR4 accesses that have not completed. -/
def State.hostBusy (s : State) (fn : Nat) : Bool :=
  s.hostWrites fn || (s.ops.any fun kv => match kv.2.fin with | .hostRead f _ => f == fn | _ => false) ||
  (s.fnOf fn).posted.any fun p => match p with | .read .. => true | _ => false

/-- What a posted access does when its turn comes. -/
def State.applyPosted (s : State) (fn : Nat) : Posted → State
  | .mailbox v => s.applyMailbox fn v
  | .tail q v => s.applyTail fn q v
  | .read c ra n => s.hostRead fn c ra n

/-- R69: accesses that waited, in order, once the function's writes have landed. -/
def State.postedGo (s : State) (fn : Nat) : State :=
  if s.hostWrites fn then s
  else
    let ps := (s.fnOf fn).posted
    let s := s.setFn fn { s.fnOf fn with posted := [] }
    ps.foldl (fun (s : State) p => s.applyPosted fn p) s

/-- R69: an access that must not pass the function's earlier BAR4 writes. -/
def State.post (s : State) (fn : Nat) (p : Posted) : State :=
  if s.hostWrites fn then s.setFn fn { s.fnOf fn with posted := (s.fnOf fn).posted ++ [p] } else s.applyPosted fn p

/-- An access of a window is over: a read is answered, and what waited for a write goes on. -/
def State.hostDone (s : State) (id : Nat) (o : Op) : State :=
  let s := { s with ops := tdel s.ops id }
  match o.fin with
  | .host fn => (if o.bad != 0 then s.abortHost fn else s).postedGo fn
  | .hostRead fn n =>
    if o.bad != 0 then s.abortHost fn
    else { s with out := s.out ++ [.data fn ((List.range n).map fun i => tgetD o.got i 0)] }
  | _ => s

end Sys2Proof.Machine
end

