-- ==== Sys2Proof/Machine/Completion.lean ====
section
/-! DEFINITION. LONG_LATENCY_COMPLETION (R144): what an op does when all of its parts are done. -/

namespace Sys2Proof.Machine

open Sys2Proof

/-- R120, R217, R364, R369: what completing an op writes besides registers. -/
def State.settle (s : State) (o : Op) : State :=
  match o.fin with
  | .pin p => s.modBlock o.uid fun b => { b with pins := tmod b.pins p fun _ => ⟨o.got, o.bad, true⟩ }
  | .tile z => s.modBlock o.uid fun b =>
    b.setTile z fun e => BitVec.ofNat 32 (leNat ((List.range 4).map fun j => tgetD o.got (4 * e + j) 0))
  | .prefetch grs => (s.setFull true grs).wakeFull
  | .lineDone uid c die ready => s.raiseReady uid c die ready o.pc
  | _ => s

/-- The next part of an op of a block that is on its core. -/
def State.goOn (s : State) (id : Nat) (o : Op) (b : Block) : State :=
  match o.fin with
  | .rowAdd page fmt first n => s.finishAdd id o page fmt first n
  | .rowLoad page va head => s.finishLoad id o page va head
  | .drainPad ks => s.finishDrainPad id o ks
  | .drainMem ras => s.finishDrainMem id o ras
  | .drainRow pages first => s.finishDrainRow id o pages first
  | .launch va => s.finishLaunch id o b va
  | .collHead slot => s.finishCollHead id o b slot
  | .collBody slot desc => s.finishCollBody id o b slot desc
  | .redc line ready anchor n => s.finishRedc id o b line ready anchor n
  | .rqTable src stride lanes => s.finishTable id o b src stride lanes
  | .rqCopy dst n => s.finishCopy id o b dst n
  | .rqLand => s.finishLand id
  | .plain | .lanes .. | .scalar .. | .entry .. | .pin _ | .tile _ | .chain _ | .rowOut _ | .rqPush .. | .prefetch _ | .lineDone .. | .relFirst | .saveRel | .host _ |
    .hostRead .. => s

/-- R145: whether an earlier instruction of the same special-function or conversion queue has still to complete. -/
def State.queuedBehind (s : State) (id : Nat) (o : Op) : Bool :=
  o.sfu != 0 && s.ops.any fun kv => decide (kv.1 < id) && kv.2.uid == o.uid && kv.2.st == o.st && kv.2.sfu == o.sfu

/-- R144, R145: LONG_LATENCY_COMPLETION. An op of a block that has left its core goes on when the block is back, and one
that its save waits for before that (R359, R378). -/
def execLongLatencyCompletion (op : Nat) (s : State) : Out :=
  .next (match tget? s.ops op with
    | none => s
    | some o =>
      if o.left ≠ 0 then s
      else if s.queuedBehind op o then s.due (.longLatencyCompletion op)
      else match o.fin with
        | .plain | .lanes .. | .scalar .. | .pin _ | .tile _ | .rowOut _ | .prefetch _ | .lineDone .. | .saveRel =>
          let s := s.settle o
          ({ s with ops := tset s.ops op o.results }).completeOp op
        | .rqPush .. => s.completeOp op
        | .entry .. | .chain _ | .relFirst => s
        | .host _ | .hostRead .. => s.hostDone op o
        | _ =>
          match s.block? o.uid with
          | none => s.completeOp op
          | some b => if b.goesOn o.fin then s.goOn op o b else s.again op)

end Sys2Proof.Machine
end

