-- ==== Sys2Proof/Machine/Faults.lean ====
section
/-! DEFINITION. Page tables (R81 to R85), walks and shoot-downs (R83, R87, R88), and the faults that the memory processor
serves (R40, R55, R89 to R97, R399). -/

namespace Sys2Proof.Machine

open Sys2Proof

/-! ### Table entries -/

/-- R82: a table entry and a leaf. -/
def tableWord (base : Nat) : W64 := BitVec.ofNat 64 (2 ^ 63 + base / 2 ^ 10 * 2 ^ 16)
def leafWord (ra perm : Nat) : W64 := BitVec.ofNat 64 (2 ^ 63 + 2 ^ 62 + ra / 2 ^ 14 * 2 ^ 20 + perm * 2 ^ 14)

/-- The table that an entry points at, made where there is none. -/
def State.below (s : State) (slot level : Nat) : Option (Nat × State) :=
  let e := (tgetD s.ptes slot 0).toNat
  if pteValid level e && e / 2 ^ 62 % 2 == 0 then some (e / 2 ^ 16 % 2 ^ 46 * 2 ^ 10, s)
  else match s.takePages s.pkg.device 1 1 with
    | none => none
    | some (pg, s) => some (pg * 2 ^ 14, { s with ptes := tset s.ptes slot (tableWord (pg * 2 ^ 14)) })

/-- R81: the entry of a level for a VA, tables made on the way down. -/
def State.descend (s : State) (va target : Nat) : Nat → Nat → Option (Nat × State)
  | 0, _ => none
  | k + 1, slot =>
    if k + 1 = target then some (slot, s)
    else match s.below slot (k + 1) with
      | none => none
      | some (base, s) => descend s va target k (base / 8 + va / pageSize k % 128)

/-- R81, R82: a leaf written for a VA of a context. -/
def State.setLeaf (s : State) (c va level ra perm : Nat) : State :=
  match tget? s.ctxs c with
  | none => s
  | some x =>
    match s.descend va level 4 (x.rootRa / 8 + va / 2 ^ 35) with
    | some (slot, s) => { s with ptes := tset s.ptes slot (leafWord ra perm) }
    | none => s

/-- R88: the entry that maps a VA cleared. -/
def State.dropLeaf (s : State) (c va : Nat) : State :=
  match tget? s.ctxs c, s.walk c va with
  | some x, some (_, _, level) =>
    match s.descend va level 4 (x.rootRa / 8 + va / 2 ^ 35) with
    | some (slot, s) => { s with ptes := tdel s.ptes slot }
    | none => s
  | _, _ => s

/-- R85: the pages that map a range: (VA, level), larger sizes first; `fit` says whether a block may be one leaf. -/
def leavesOf (fit : Nat → Nat → Bool) (stop : Nat) : Nat → Nat → List (Nat × Nat)
  | 0, _ => []
  | fuel + 1, va =>
    if stop ≤ va then []
    else
      let level := ([4, 3, 2].find? fun k => va % pageSize k == 0 && decide (va + pageSize k ≤ stop) && fit va k).getD 1
      (va, level) :: leavesOf fit stop fuel (va + pageSize level)

/-- R93: a leaf larger than 16 KiB split into 16 KiB leaves of the same frames. -/
def State.splitLeaf (s : State) (c va : Nat) : State :=
  match s.walk c va with
  | none => s
  | some (ra, perm, level) =>
    if level ≤ 1 then s
    else
      let z := pageSize level
      let v0 := va / z * z
      let r0 := ra / z * z
      let s := s.dropLeaf c va
      (List.range (z / 2 ^ 14)).foldl (fun (s : State) i => s.setLeaf c (v0 + i * 2 ^ 14) 1 (r0 + i * 2 ^ 14) perm) s

/-- R93: the reference count of a frame; a mapped frame that is not listed has count 1. -/
def State.frameCount (s : State) (ra : Nat) : Nat := tgetD s.frames (ra / 2 ^ 14) 1
def State.setFrameCount (s : State) (ra n : Nat) : State := { s with frames := tput 1 s.frames (ra / 2 ^ 14) n }

/-! ### Shoot-downs -/

/-- R88: the tables have changed: the generation rises and a shoot-down goes to every die; answers its number. -/
def State.shoot (s : State) (c va len : Nat) : Nat × State :=
  let s := s.modCtx c fun x => { x with tgen := (x.tgen + 1) % 2 ^ 32 }
  let (id, s) := s.takeId
  let dies := (List.range 8).filter s.dieLive
  if dies.isEmpty then (id, s)
  else
    let sh : Shoot := { ctx := c, va := va, len := len, gen := s.tgenOf c, dies := dies }
    (id, { s with shoots := tset s.shoots id sh }.dues (dies.map fun d => .shootDown d id))

def TlbEntry.overlaps (e : TlbEntry) (c va len : Nat) : Bool :=
  e.ctx == c && decide (e.va < va + len) && decide (va < e.va + pageSize e.level)

/-- R81: whether a generation is older than another, modulo 2^32. -/
def olderGen (a b : Nat) : Bool := (b + 2 ^ 32 - a) % 2 ^ 32 != 0 && decide ((b + 2 ^ 32 - a) % 2 ^ 32 < 2 ^ 31)

/-- The die that a request's translation was made on. -/
def Req.origin (r : Req) : Nat := match r.core with | some k => k / 128 | none => r.die

/-- R88: the RAs of a context's accesses on a die that have been translated and have not all been served: requests, drains and
contributions. -/
def State.translated (s : State) (die c : Nat) : List Nat :=
  (s.reqs.filterMap fun kv => if kv.2.origin = die ∧ kv.2.ctx = c ∧ kv.2.why ≠ .cow then some kv.2.ra else none) ++
  (s.ops.flatMap fun kv => match s.block? kv.2.uid with
    | some b => if b.ctx ≠ c || b.die != die then [] else match kv.2.fin with
      | .drainMem ps => ps.map Prod.snd
      | .redc line ready .. => [line, ready]
      | _ => []
    | none => []) ++
  s.contribs.flatMap fun kv => if kv.2.ctx = c ∧ kv.2.die = die then [kv.2.line, kv.2.ready] else []

/-- R88: what a die has still to finish before it completes a shoot-down: marked walks, and requests that a removed entry
translated. -/
def State.shootBusy (s : State) (die : Nat) (x : Shoot) : Bool :=
  (s.walks.any fun w => w.die == die && w.ctx == x.ctx && w.marked) ||
  (s.translated die x.ctx).any fun ra => x.removed.any fun e => e.1 == die && decide (e.2.1 ≤ ra) && decide (ra < e.2.1 + e.2.2)

/-- R88: SHOOT_DOWN at a die: overlapping entries go, older walks are marked; it is complete when those have retired and the
requests that the removed entries translated have been served. -/
def execShootDown (die sd : Nat) (s : State) : Out :=
  .next (match tget? s.shoots sd with
    | none => s
    | some x =>
      if !x.dies.contains die then s
      else
        let keep := fun (es : List TlbEntry) => es.filter fun (e : TlbEntry) => !e.overlaps x.ctx x.va x.len
        let gone := (((s.cores.filter fun kv => kv.1 / 128 == die).flatMap fun kv => kv.2.tlb) ++ tgetD s.tlb2 die []).filter fun e =>
          e.overlaps x.ctx x.va x.len
        let x := { x with removed := (x.removed ++ gone.map fun (e : TlbEntry) => (die, e.ra, pageSize e.level)).eraseDups }
        let s := { s with
          shoots := tset s.shoots sd x
          cores := tmap (fun k (c : Core) => if k / 128 = die then { c with tlb := keep c.tlb } else c) s.cores
          tlb2 := tmod s.tlb2 die keep
          walks := s.walks.map fun (w : Walk) => if w.die = die ∧ w.ctx = x.ctx ∧ olderGen w.gen x.gen then { w with marked := true } else w }
        if s.shootBusy die x then s
        else
          let left := x.dies.filter (· != die)
          { s with shoots := if left.isEmpty then tdel s.shoots sd else tset s.shoots sd { x with dies := left } })

/-! ### Walks -/

/-- R87: a TLB filled: 256 entries for a core, 16,384 for a die. -/
def State.fillTlb (s : State) (core die : Nat) (e : TlbEntry) : State :=
  let s := s.modCore core fun c => { c with tlb := (e :: c.tlb).take 256 }
  { s with tlb2 := tset s.tlb2 die ((e :: tgetD s.tlb2 die []).take 16384) }

/-- R83, R87, R88: TABLE_WALK: a marked walk starts again under the new generation; a translation fills the TLBs; without one
the context is lost (R89 to R92). -/
def execTableWalk (die ctx va : Nat) (s : State) : Out :=
  .next (match s.walks.find? fun w => w.die == die && w.ctx == ctx && w.va == va with
    | none => s
    | some w =>
      let rest := s.walks.filter fun x => !(x.die == die && x.ctx == ctx && x.va == va)
      if w.marked then
        ({ s with walks := rest ++ [{ w with marked := false, gen := s.tgenOf ctx }] }).due (.tableWalk die ctx va)
      else
        let s := { s with walks := rest }
        match s.walk ctx va with
        | some (ra, perm, level) =>
          let z := pageSize level
          s.fillTlb (coreNo die w.who.core) die ⟨ctx, va / z * z, level, ra / z * z, perm, w.gen⟩
        | none =>
          s.faults w.who true (w.touches.filterMap fun t => match s.walk ctx t.va with
            | none => some ⟨t, 0x20, 0, 0, 1⟩
            | some (ra, perm, level) => (accessFault perm (accNeed w.who.acc)).map fun code => ⟨t, code, ra, level, 1⟩))

/-! ### Finding room -/

/-- Free pages of a store. -/
def State.freePages (s : State) (h : Nat) : Nat := s.capacity h - s.placed h

/-- R55, R94, R95, R399: the announced stack of a die with the most free space that has room, ties to stack 0. -/
def State.stackOf (s : State) (die len : Nat) : Option Nat :=
  let ok := fun (st : Nat) => s.stackUp die st && s.hasRoom (mkHolder s.pkg.device die st) len
  let h := fun (st : Nat) => mkHolder s.pkg.device die st
  match ok 0, ok 1 with
  | true, true => some (if s.freePages (h 0) < s.freePages (h 1) then h 1 else h 0)
  | true, false => some (h 0)
  | false, true => some (h 1)
  | false, false => none

/-- R399: the die that a placement starts from: of the block or engine, or for an access of the host or the IOD's own units, CD1,
CD2 or the lowest live die. -/
def State.touchDie (s : State) (die : Nat) : Nat := if die < 8 then die else ((1 :: 2 :: List.range 8).find? s.dieLive).getD 1

/-- R399: the live dies in ascending hop count from where a touch starts. -/
def State.nearDies (s : State) (at' : Nat) : List Nat :=
  (List.range 9).flatMap fun n => (List.range 8).filter fun d => s.dieLive d && s.hops (s.touchDie at') d == n

/-- R399: the stack for a first touch: of the die, or of the nearest live die with room. -/
def State.firstTouch (s : State) (at' len : Nat) : Option Nat :=
  (s.nearDies at').findSome? fun d => s.stackOf d len

/-- R97: whether a placed prefix can be evicted. -/
def State.victim (s : State) (h page : Nat) : Bool :=
  let es := ((List.range 9).flatMap fun k => (s.engine k).entries.filter fun e => e.pfx == page && e.holder == h && e.st != .regen)
  match es with
  | [] => false
  | e :: _ =>
    let backed := (List.range 9).any (fun k => (s.engine k).entries.any fun x => x.pfx == e.pfx && x.len == e.len && x.st == .regen) ||
      (match s.grantOf (page * 2 ^ 14) with | some (_, g) => g.kind == 1 | none => false)
    holderStore h ≤ 1 && backed && !s.prefixBusy e.pfx e.len && decide (s.topVersion e.pfx e.len ≤ topProgramVersion)

/-- R96, R97: the eviction of one victim begun. One backed by kind 1 migrates back to its host pages, unless its home is there, where a
replica at the host becomes the home without a copy, and its other holders are withdrawn; of one with a regeneration entry every holder is. -/
def State.evict (s : State) (h page : Nat) : State :=
  match ((List.range 9).flatMap fun k => (s.engine k).entries.filter fun e => e.pfx == page && e.holder == h && e.st != .regen).head? with
  | none => s
  | some e =>
    match (s.grantOf (page * 2 ^ 14)).filter fun x => x.2.kind == 1 with
    | none => s.withdrawAll e.pfx e.len
    | some _ =>
      let host := hostHolder s.pkg.device
      match s.homeNow e.pfx e.len with
      | none => s
      | some home =>
        let there := (s.entryNow e.pfx e.len host).filter fun x => x.st == .active
        let s := ((s.entriesNow e.pfx e.len).filter fun x => x.holder != home.holder && x.holder != host).foldl State.withdrawOne s
        if home.holder = host then s else s.moveHome home host 0 there.isSome

/-- Pages of a store that evictions under way will free. -/
def State.freeingPages (s : State) (h : Nat) : Nat :=
  ((s.rops.filter fun kv => kv.2.uid.isNone && ((kv.2.kind == .withdraw && kv.2.holder == h) || (kv.2.kind == .migrate && kv.2.old == h))).map
    fun kv => pagesOf kv.2.len).sum

/-- R97: victims of a store evicted until a prefix will fit; none where there are too few. -/
def State.evictFor (s : State) (h len : Nat) : Nat → Option State
  | 0 => none
  | fuel + 1 =>
    if s.placed h + pagesOf len ≤ s.capacity h + s.freeingPages h then some s
    else match (s.placements h).find? fun kv => s.victim h (kv.1 % 2 ^ 64 / 2 ^ 14) with
      | none => none
      | some kv => evictFor (s.evict h (kv.1 % 2 ^ 64 / 2 ^ 14)) h len fuel

/-- What a search for room finds: a holder, that room will be there once evictions under way are done, or that there is none. -/
inductive Room where
  | here (h : Nat)
  | later (s : State)
  | none

/-- R97, R399: a place for a prefix: `first` where it has room; else on the stacks of the dies given, once evictions have made room.
With no entry left for it in the engines' tables it waits for one (notes/assumptions/80.md). -/
def State.findRoom (s : State) (dies : List Nat) (len : Nat) (first : Option Nat) : Room :=
  match s.entriesLeft 1, first with
  | false, _ => .later s
  | true, some h => .here h
  | true, none =>
    let hs := dies.flatMap fun d => ((List.range 2).filter fun st => s.stackUp d st).map fun st => mkHolder s.pkg.device d st
    match hs.findSome? fun h => s.evictFor h len (s.places.length + 1) with
    | some s => .later s
    | none => .none

/-! ### Records and saves -/

/-- R89: the fault that a held request raises. -/
def faultCode : Held → Nat
  | .cow => 0x22
  | .unrouted => 0x23
  | .regen => 0x24
  | .promote => 0x25
  | _ => 0x23

/-- R55: the depth at which a regeneration for a request would run. -/
def State.regenDepth (s : State) (r : Req) : Nat :=
  match r.agent with
  | .stream uid _ | .engine uid | .chain uid =>
    match s.regenOf uid with
    | some h => (match tget? s.regens h with | some x => x.depth | none => 0) + 1
    | none => 1
  | .host _ | .mp _ => 1

/-- R55: the regeneration entry of an RA in an engine's table, as its handle. -/
def State.regenHandle (s : State) (die ra : Nat) : Option Nat :=
  (((s.engine die).longest ra).find? fun e => e.st == .regen).map Entry.holder

/-- R40, R55, R97: whether serving a request has no way out, so that its context is lost. -/
def State.hopeless (s : State) (r : Req) : Bool :=
  match r.why with
  | .unrouted =>
    !((s.engine r.die).longest r.ra).isEmpty == false &&
    (match s.grantOf r.ra with
      | none => true
      | some (_, g) => g.kind == 0 && (match s.findRoom (s.nearDies r.die) 42 (s.firstTouch r.die 42) with | .none => true | _ => false))
  | .regen =>
    (match s.regenHandle r.die r.ra with
      | some h => (match tget? s.regens h with
        | some x => x.grid.isNone && (decide (4 < s.regenDepth r) || match tget? s.ctxs x.ctx with | some c => c.lost.isSome | none => true)
        | none => true)
      | none => false)
  | _ => false

/-- R92: the held requests of one instruction whose records are not written. -/
def State.groupOf (s : State) (id : Nat) (r : Req) : List (Nat × Req) :=
  match r.op with
  | some op => s.reqs.filter fun kv => kv.2.op == some op && !kv.2.noted && kv.2.why.served
  | none => [(id, r)]

/-- R92: whether every request of an instruction has been resolved: served, or faulted. -/
def State.resolved (s : State) (r : Req) : Bool :=
  match r.op with
  | some op => !s.reqs.any fun kv => kv.2.op == some op && !kv.2.why.served
  | none => true

/-- R91: the level of the leaf that maps a VA; 0 where none does. -/
def State.leafLevel (s : State) (c va : Nat) : Nat := match s.walk c va with | some x => x.2.2 | none => 0

/-- R90 to R92: the records of an instruction's faulted requests; its context is lost, or its block saved. Requests of the
host write no context's block and lose none. R89, R97: a request noted before that has no way out any more loses its context then. R350: a
fault of a chain saves no block. -/
def State.note (s : State) (id : Nat) (r : Req) : State :=
  if r.noted then
    if s.hopeless r && !(match r.agent with | .host _ => true | _ => false) then
      s.faults (s.whoOf r) true (r.pieces.map fun x => ⟨x.t, faultCode r.why, x.ra, s.leafLevel r.ctx x.t.va, 1⟩)
    else s
  else
    let g := s.groupOf id r
    let bad := g.any fun kv => s.hopeless kv.2
    let host := match r.agent with | .host _ => true | _ => false
    let fs := g.flatMap fun kv => kv.2.pieces.map fun x =>
      (⟨x.t, faultCode kv.2.why, x.ra, s.leafLevel kv.2.ctx x.t.va, if s.hopeless kv.2 then 1 else 0⟩ : Faulted)
    let s := s.faults (s.whoOf r) (bad && !host) fs
    let s := { s with reqs := g.foldl (fun t kv => tmod t kv.1 fun x => { x with noted := true }) s.reqs }
    if bad then s
    else match r.agent with
      | .stream uid _ | .engine uid => s.saveFor uid 1
      | .chain _ | .host _ | .mp _ => s

/-! ### Serving -/

/-- R40, R85, R398, R399: UNROUTED: the backing of the page is announced, unless the RA has been routed meanwhile, here or by the device
in whose part it lies. DESIGN CHOICE: the peer of a grant of kind 3 serves it at its store 0 of die 0 (notes/assumptions/58.md). -/
def State.serveUnrouted (s : State) (r : Req) : State :=
  if !((s.engine r.die).longest r.ra).isEmpty || ((List.range 9).any fun k => !((s.engine k).longest r.ra).isEmpty) then s
  else match s.grantOf r.ra with
    | none => s
    | some (c, g) =>
      let pfx := r.ra / 2 ^ 14
      if s.createdElsewhere pfx 42 then s.takeId.2 else
      let ctx := s.routeCtx c
      let lock := g.flags / 2 % 2 == 1
      match g.kind with
      | 0 =>
        (match s.findRoom (s.nearDies r.die) 42 (s.firstTouch r.die 42) with
          | .here h => s.announceHome h pfx 42 ctx lock
          | .later s => s
          | .none => s)
      | 1 => if s.entriesLeft 1 then s.announceHome (hostHolder s.pkg.device) pfx 42 ctx lock else s
      | 3 => if !s.entriesLeft 1 then s else s.announceHome (mkHolder (g.backA.toNat % 1024) 0 0) pfx 42 ctx lock
      | _ => s

def execUnrouted (req : Nat) (s : State) : Out :=
  .next (match tget? s.reqs req with
    | none => s
    | some r =>
      if r.why != .unrouted || !s.resolved r then s
      else
        let bad := s.hopeless r
        let s := s.note req r
        if bad then { s with reqs := tdel s.reqs req } else s.serveUnrouted r)

/-- R55: a regeneration begun: the holder announced FILLING, the kernel launched in the owning context with its parameter block in s1
and the prefix's RA in s3 (DESIGN CHOICE: the spec names no register for the RA; notes/assumptions/45.md). -/
def State.beginRegen (s : State) (req : Nat) (r : Req) (h : Nat) (x : Regen) : State :=
  match s.judge x.ctx 8 x.lrec.toNat x.copy with
  | (.wait, s) => s
  | (.lost, s) => s
  | (.bad, s) => ({ s with reqs := tdel s.reqs req }).faults (s.whoOf r) true [⟨⟨r.lane, r.va, r.len⟩, 0x24, r.ra, s.leafLevel r.ctx r.va, 1⟩]
  | (.ok rcd, s) =>
    match s.findRoom [s.touchDie r.die] x.len (s.stackOf (s.touchDie r.die) x.len) with
    | .none => ({ s with reqs := tdel s.reqs req }).faults (s.whoOf r) true [⟨⟨r.lane, r.va, r.len⟩, 0x23, r.ra, s.leafLevel r.ctx r.va, 1⟩]
    | .later s => s
    | .here holder =>
      let depth := s.regenDepth r
      let s := (s.place holder x.pfx x.len).say 8
        (mkMsg mFill x.pfx x.len holder (s.topVersion x.pfx x.len + 1) (s.routeCtx x.ctx) false x.lock)
      let level := match r.agent with
        | .stream uid _ | .engine uid | .chain uid =>
          (match (s.block? uid).bind fun b => (tget? s.grids b.grid).bind fun g => tget? s.queues g.q with | some q => q.level | none => 0)
        | .host _ | .mp _ => 0
      let s := s.needDeviceQueue x.ctx level
      let (gid, s) := s.enterGrid x.ctx (deviceQueue x.ctx level) { rcd with param := x.param } (.regen h) none (pfxBase x.pfx) 0
      { s with regens := tset s.regens h { x with grid := some gid, depth := depth, holder := holder } }

/-- R55: REGENF. -/
def execRegenf (req : Nat) (s : State) : Out :=
  .next (match tget? s.reqs req with
    | none => s
    | some r =>
      if r.why != .regen || !s.resolved r then s
      else
        let bad := s.hopeless r
        let s := s.note req r
        if bad then { s with reqs := tdel s.reqs req }
        else match s.regenHandle r.die r.ra with
          | none => s
          | some h => match tget? s.regens h with
            | none => s
            | some x => if x.grid.isSome then s else s.beginRegen req r h x)

/-- R55: REGENERATION_COMPLETE: the holder becomes the ACTIVE home; held requests are replayed when their engines know. -/
def execRegenerationComplete (pfx len : Nat) (s : State) : Out :=
  .next (match s.regens.find? fun kv => kv.2.pfx == pfx && kv.2.len == len && kv.2.grid.isSome with
    | none => s
    | some kv =>
      match kv.2.grid with
      | none => s
      | some gid =>
        if (tget? s.grids gid).isSome then s
        else
          let x := kv.2
          let s := { s with regens := tset s.regens kv.1 { x with grid := none } }
          s.say 8 (mkMsg mAnnounce pfx len x.holder (s.topVersion pfx len + 1) (s.routeCtx x.ctx) true x.lock))

/-- R92, R95: the requests of one instruction that wait for the promotion of a page, as its TAGFAIL record names them. -/
def State.tagFails (s : State) (r : Req) (outcome : Nat) : List Faulted :=
  ((s.reqs.filter fun kv => kv.2.why == .promote && kv.2.op == r.op && kv.2.agent == r.agent).flatMap fun kv => kv.2.pieces.filterMap fun x =>
    if x.ra / 2 ^ 14 = r.ra / 2 ^ 14 then some ⟨x.t, 0x26, x.ra, s.leafLevel kv.2.ctx x.t.va, outcome⟩ else none)

/-- R95, R96: PROMOTE: a holder of the requesting die's HBM is announced FILLING and the touched page's home moves there, as MIGRATE
moves it; a tag that fails withdraws both holders by failure. -/
def State.servePromote (s : State) (r : Req) : State :=
  let pfx := r.ra / 2 ^ 14
  match s.grantOf r.ra with
  | none => s
  | some (c, _) =>
    match ((s.engine r.die).longest r.ra).find? fun e => e.home && e.serving with
    | none => s
    | some e =>
      if s.prefixBusy e.pfx e.len || !s.promotes e.holder r.ra then s
      -- the touched 16 KiB prefix becomes one of its own where a larger one maps it
      else if e.len ≠ 42 then (if (s.entryNow pfx 42 e.holder).isSome then s else if s.entriesLeft 1 then s.announceHome e.holder pfx 42 e.ctx e.lock else s)
      else match s.findRoom [s.touchDie r.die] 42 (s.stackOf (s.touchDie r.die) 42) with
        | .none => s.faults (s.whoOf r) true [⟨⟨r.lane, r.va, r.len⟩, 0x23, r.ra, s.leafLevel r.ctx r.va, 1⟩]
        | .later s => s
        | .here h =>
          let fails := match tget? s.pageTags pfx with | some t => t != s.pageTag c e.holder pfx | none => false
          let regen := (s.regenHandle r.die r.ra).isSome
          let s := ({ s with pageTags := tdel s.pageTags pfx }).moveHome e h r.die false
          if !fails then s
          else
            let s := s.faults (s.whoOf r) false (s.tagFails r (if regen then 2 else 3))
            (s.failHolder (homeEngine h) pfx 42 h).failHolder r.die pfx 42 e.holder

def execPromote (req : Nat) (s : State) : Out :=
  .next (match tget? s.reqs req with
    | none => s
    | some r => if r.why != .promote || !s.resolved r then s else (s.note req r).servePromote r)

/-- R94, R162: a frame's privatised bytes merged at its home holder `e`; in a locked prefix the merges may have to wait there. -/
def State.mergeFrame (s : State) (e : Entry) (ra : Nat) : State :=
  (List.range 128).foldl (fun (s : State) i => s.mergeOwn e (ra / 128 + i) (BitVec.allOnes 128) none) s
/-- R47: whether a line of a frame is locked at its home, or merges wait there. -/
def State.frameLocked (s : State) (h ra : Nat) : Bool :=
  (List.range 128).any fun i => s.lockedLine (ra + 128 * i) h || s.mergesWait (ra / 128 + i) (BitVec.allOnes 128) none

/-- R94: one frame copied to another at a holder, line by line, as its home holder `e` serves it. -/
def State.copyFrame (s : State) (c : Nat) (e : Entry) (ra h ra2 : Nat) : State :=
  (List.range 128).foldl (fun (s : State) i =>
    s.copyLine c (s.keyAt e.holder ra + 128 * i) (keyHolder h ra2 + 128 * i) (ra + 128 * i) (ra2 + 128 * i) fun _ => false) s

/-- R94: the permission bits of a leaf that has become the context's own. -/
def ownPerm (p : Nat) : Nat := (p ||| permWr) &&& (0x3F ^^^ permCow)

/-- R93, R94: COWF: the frame is copied while others map it, to the faulting die's own stacks, else the leaf becomes writable; the page is
shot down. A frame whose home is not there to be read is called for first, as any access would. -/
def State.serveCow (s : State) (req : Nat) (r : Req) : State :=
  let s := s.splitLeaf r.ctx r.va
  match s.walk r.ctx r.va with
  | none => s
  | some (ra0, perm, _) =>
    let va := r.va / 2 ^ 14 * 2 ^ 14
    let ra := ra0 / 2 ^ 14 * 2 ^ 14
    let finish := fun (s : State) =>
      let (sd, s) := s.shoot r.ctx va (2 ^ 14)
      { s with reqs := tmod s.reqs req fun x => { x with sd := some sd } }
    if perm &&& permCow = 0 then finish s
    else if s.frameCount ra < 2 then finish (s.setLeaf r.ctx va 1 ra (ownPerm perm))
    else match (s.engine r.die).resolve ra true false with
      | .held .lostData => s.poisoned (s.whoOf r) ra (s.lostStore r.die ra)
      | .held w => s.callFor (.mp r.ctx) r.ctx r.die va ra true w
      | .toward e =>
        let s := s.mergeFrame ((s.arrival e).getD e) ra
        if s.promotes e.holder ra then s.callFor (.mp r.ctx) r.ctx r.die va ra true .promote
        else if s.paused e.holder ra || !s.servesAt e true || s.awaitsMarker e || s.frameLocked e.holder ra then s
        else match s.findRoom [s.touchDie r.die] 42 (s.stackOf (s.touchDie r.die) 42) with
        | .later s => s
        | .none => s.faults (s.whoOf r) true [⟨⟨r.lane, r.va, r.len⟩, 0x23, ra, 1, 1⟩]
        | .here h =>
          match s.takePages (s.domainDev r.ctx) 1 1 with
          | none => s
          | some (pg, s) =>
            let ra2 := pg * 2 ^ 14
            let s := (s.announceHome h pg 42 (s.routeCtx r.ctx) false).copyFrame r.ctx ((s.arrival e).getD e) ra h ra2
            finish ((s.setLeaf r.ctx va 1 ra2 (ownPerm perm)).setFrameCount ra (s.frameCount ra - 1))

def execCowf (req : Nat) (s : State) : Out :=
  .next (match tget? s.reqs req with
    | none => s
    | some r =>
      if r.why != .cow || r.sd.isSome then s
      else
        let s := match r.agent with
          | .stream uid _ | .engine uid => s.saveFor uid 1
          | .chain _ | .host _ | .mp _ => s
        s.serveCow req r)

/-! ### Replays -/

/-- R90: whether a served request can be replayed: its route is known and serves it, or its shoot-down is complete. -/
def State.replays (s : State) (r : Req) : Bool :=
  r.noted &&
  match r.why with
  | .cow => (match r.sd with | some sd => (tget? s.shoots sd).isNone | none => false)
  | .unrouted | .regen | .promote =>
    s.freed r && (match s.resolveFor r r.aop.isSome r.isStore with
      | .toward e => !s.promotes e.holder r.ra
      | .held w => w == .lostData)
  | _ => false

/-- R90: REQUEST_REPLAY: the request is served, or the faulting instruction is free to issue again. -/
def execRequestReplay (req : Nat) (s : State) : Out :=
  .next (match tget? s.reqs req with
    | none => s
    | some r =>
      if !s.replays r then s
      else if r.why == .cow then { s with reqs := tdel s.reqs req }
      else ({ s with reqs := tdel s.reqs req }).serve { r with noted := false })

/-- The faults' events that can happen now. -/
def State.faultEvents (s : State) : List Instr :=
  (s.reqs.filter fun kv => s.replays kv.2).map fun kv => .requestReplay kv.1

end Sys2Proof.Machine
end

