-- ==== Sys2Proof/Machine/Errors.lean ====
section
/-! DEFINITION. Errors and containment (R98 to R109): writing records, eviction of work, context loss, memory errors. -/

namespace Sys2Proof.Machine

open Sys2Proof

/-! ### Host memory as the memory processor reaches it -/

/-- R63, R100: host memory by bus address, outside every context: 1024 names no context (R67). -/
def State.hostRd (s : State) (a n : Nat) : List Byte := s.rdN 1024 (keyHost a) n
def State.hostWr (s : State) (a : Nat) (bs : List Byte) : State := s.wrN 1024 (keyHost a) bs

/-! ### Writing records -/

/-- R98: the 64 bytes of a record. -/
def ErrRec.bytes (r : ErrRec) (drops seq : Nat) : List Byte :=
  natLe 1 r.code ++ natLe 1 ((if r.exact then 1 else 0) + (if r.redun then 2 else 0)) ++ natLe 2 drops ++ natLe 4 seq ++ natLe 2 r.ctx ++
  natLe 1 r.die ++ natLe 1 r.core ++ natLe 1 r.warp ++ natLe 3 0 ++ natLe 8 r.pc.toNat ++ natLe 8 r.stamp ++ r.body

/-- R108: CTXLOST counts the later causes until it is written. -/
def ErrRec.counted (r : ErrRec) (later : Nat) : ErrRec :=
  if r.code = 1 then { r with body := r.body.take 2 ++ natLe 2 later ++ r.body.drop 4 } else r

/-- R100: the bus address of the slot that a context's next record goes to. -/
def Ctx.eqSlot (x : Ctx) : Nat := x.eqBase.toNat + 64 * (x.eqSeq % x.eqN)

/-- R100: ERROR_RECORD_WRITE: the oldest record of a context goes to its slot if the host has freed it; else it is dropped, or,
where it may not be, it waits. -/
def execErrorRecordWrite (ctx : Nat) (s : State) : Out :=
  .next (match tget? s.ctxs ctx with
    | none => s
    | some x => match x.eqHeld with
      | [] => s
      | r :: rest =>
        let seq := (x.eqSeq + 1) % 2 ^ 32
        if s.hostRd x.eqSlot 1 = [0] then
          let s := s.hostWr x.eqSlot ((r.counted x.later).bytes x.eqDrops x.eqSeq)
          let s := { s with ctxs := tset s.ctxs ctx { x with eqHeld := rest, eqSeq := seq, eqDrops := 0 } }
          s.msix x.fn ((s.fnOf x.fn).errvec.toNat % 2048)
        else if r.keep then s
        else { s with ctxs := tset s.ctxs ctx { x with eqHeld := rest, eqSeq := seq, eqDrops := min 0xFFFF (x.eqDrops + 1) } })

/-! ### Evicting work -/

/-- Requests dropped; what they would have written no longer counts as sent. -/
def State.dropReqs (s : State) (p : Req → Bool) : State :=
  let gone := s.reqs.filter fun kv => p kv.2
  let s := { s with reqs := s.reqs.filter fun kv => !p kv.2 }
  gone.foldl (fun (s : State) kv =>
    if kv.2.counted then s.uncount kv.2.core kv.2.round else s) s

/-- Contributions dropped that had set out; they no longer count as sent. -/
def State.dropContribs (s : State) (p : Contribution → Bool) : State :=
  let gone := s.contribs.filter fun kv => p kv.2
  let s := { s with contribs := s.contribs.filter fun kv => !p kv.2 }
  gone.foldl (fun (s : State) kv => s.uncount (some kv.2.core) kv.2.round) s

/-- The blocks whose work an agent does. -/
def Agent.uid? : Agent → Option Nat
  | .stream uid _ => some uid
  | .engine uid => some uid
  | .chain uid => some uid
  | .host _ | .mp _ => none

/-- R55: a regeneration whose kernel is gone: the holder is withdrawn, the entry stays. -/
def State.regenLost (s : State) (h : Nat) (x : Regen) : State :=
  let s := s.say 8 (mkMsg mFinal x.pfx x.len x.holder (s.topVersion x.pfx x.len + 1) (s.routeCtx x.ctx) false x.lock)
  let s := s.unplace x.holder x.pfx x.len
  { s with regens := tset s.regens h { x with grid := none } }

/-- R77, R108: work evicted without saving: the grids and graphs named, with their blocks, engines, requests and records. What
has landed stays; answers how many blocks went. -/
def State.evictWork (s : State) (grid : Grid → Bool) (graph : Graph → Bool) : Nat × State :=
  let gids := (s.grids.filter fun kv => grid kv.2).map Prod.fst
  let grs := (s.graphs.filter fun kv => graph kv.2).map Prod.fst
  let uids := (s.blocks.filter fun kv => gids.contains kv.2.grid).map Prod.fst
  let cls := (s.clusters.filter fun kv => gids.contains kv.2.grid).map Prod.fst
  let mine := fun (a : Agent) => match a.uid? with | some u => uids.contains u | none => false
  let rowSets := (s.rowSets.filter fun kv => match kv.2.grid with | some g => gids.contains g | none => false).map Prod.fst
  let regens := s.regens.filter fun kv => match kv.2.grid with | some g => gids.contains g | none => false
  let s := (s.dropReqs fun r => mine r.agent).dropContribs fun c => uids.contains c.uid
  let keepWork := fun (w : Work) => match w with | .grid g => !gids.contains g | .gang c => !cls.contains c
  let lostOp := fun (id : Nat) => match tget? s.ops id with | some o => uids.contains o.uid | none => false
  let keepParts := fun (c : Coll) => { c with parts := c.parts.filter fun p => !uids.contains p.uid }
  let s := { s with
    cores := tmap (fun _ (c : Core) => { c with rels := c.rels.filter fun r => !lostOp r.op }) s.cores
    ops := s.ops.filter fun kv => !uids.contains kv.2.uid
    blocks := s.blocks.filter fun kv => !uids.contains kv.1
    clusters := s.clusters.filter fun kv => !cls.contains kv.1
    grids := s.grids.filter fun kv => !gids.contains kv.1
    graphs := s.graphs.filter fun kv => !grs.contains kv.1
    pushes := s.pushes.filter fun p => !uids.contains p.uid
    padOut := s.padOut.filter fun x => !uids.contains x.uid
    colls := (tmap (fun _ c => keepParts c) s.colls).filter fun (kv : Nat × Coll) => !kv.2.parts.isEmpty || kv.2.outcome.isSome
    walks := s.walks.filter fun w => !mine w.who.agent
    queues := tmap (fun _ (q : Queue) => { q with work := q.work.filter keepWork }) s.queues }
  let s := rowSets.foldl (fun (s : State) b => s.freeRows b) s
  let s := regens.foldl (fun (s : State) kv => s.regenLost kv.1 kv.2) s
  let s := match s.cur with | some (u, _) => if uids.contains u then s.waits else s | none => s
  (uids.length, s.reserveAll)

/-! ### Mailbox responses -/

/-- R63: a response of 64 bytes: OP and TAG of the request, the status, and the results from byte 8 on. -/
def respBytes (rq : BitVec 512) (status : Nat) (res : List Byte) : List Byte :=
  let q := natLe 8 rq.toNat
  (q.take 1 ++ natLe 1 status ++ natLe 2 0 ++ q.drop 4 ++ res ++ natLe 56 0).take 64

/-- R63: the response written, then MBXDONE advanced, then the vector sent. -/
def State.respond (s : State) (fn : Nat) (rq : BitVec 512) (status : Nat) (res : List Byte) : State :=
  let f := s.fnOf fn
  let s := s.hostWr (f.rspHi.toNat * 2 ^ 32 + f.rspLo.toNat + 64 * (f.done.toNat % 256)) (respBytes rq status res)
  (s.setFn fn { f with done := f.done + 1, cur := none }).msix fn (f.vec.toNat % 2048)

/-! ### Closing queues -/

/-- R71, R77: a queue becomes FREE; the request that closed it is answered. -/
def State.freeQueue (s : State) (q : Nat) : State :=
  match tget? s.queues q with
  | none => s
  | some x =>
    let s := { s with queues := tset s.queues q { x with st := .free, pkts := [], hold := none, closer := none, work := [] } }
    match x.closer with
    | some (fn, idx, rq) =>
      let f := s.fnOf fn
      if f.done.toNat = idx ∧ f.cur = some rq then s.respond fn rq 0 [] else s
    | none => s

/-! ### Context loss -/

/-- R108: whether a context owns a poisoned granule of a placed frame. -/
def State.ownsPoison (s : State) (c gr : Nat) : Bool :=
  let h := gr * 16 / 2 ^ 64
  decide (h < 2 ^ 17) && decide (holderStore h ≤ 2) && holderDev h == s.pkg.device && tgetD s.tags (gr / 8) 0 == s.ownerOf (gr * 16) c &&
  tgetD s.tags (gr / 8) 0 != 0

/-- R108: one frame that holds poison of a lost context withdrawn by failure and retired. -/
def State.retireFrame (s : State) (page : Nat) : State :=
  let h := page * 2 ^ 14 / 2 ^ 64
  let ra := page * 2 ^ 14 % 2 ^ 64
  let s := { s with badFrames := h :: s.badFrames }
  match (s.engine (homeEngine h)).entries.find? fun e => e.covers ra && e.holder == h && e.st != .regen with
  | some e => s.failHolder (homeEngine h) e.pfx e.len h
  | none => s

/-- R108: the poisoned rows of a lost context: each's home is withdrawn by failure and its place in the store is not given out again: it
stays taken, under a key that no RA has. -/
def State.retireRow (s : State) (page : Nat) (r : Row) : State :=
  let (id, s) := s.takeId
  let h := mkHolder s.pkg.device r.die 3
  let s := { s with rows := tset s.rows (2 ^ 50 + id) { r with st := .live, w := [], flag := [], tag := 0, poison := false } }
  match (s.engine r.die).entries.find? fun e => e.covers (page * 2 ^ 14) && e.holder == h && e.st != .regen with
  | some e => s.failHolder r.die e.pfx e.len h
  | none => s

/-- R108: CTXLOST. -/
def lostRec (c cause blocks frames st : Nat) (redun : Bool) : ErrRec :=
  { code := 1, exact := false, redun := redun, ctx := c, die := 8, core := 0xFF, warp := 0xFF, pc := 0, stamp := st
    body := natLe 1 cause ++ natLe 1 0 ++ natLe 2 0 ++ natLe 4 blocks ++ natLe 4 frames ++ natLe 20 0, keep := true }

/-- R69, R108: the BAR4 accesses of a context that have not completed end unserved. -/
def State.endHostOps (s : State) (c : Nat) : State :=
  let mine := fun (o : Op) => o.word.toNat == c && match o.fin with | .host _ | .hostRead .. => true | _ => false
  let ids := (s.ops.filter fun kv => mine kv.2).map Prod.fst
  ({ s with ops := tmap (fun _ (o : Op) => if mine o then { o with left := 0, bad := 1 } else o) s.ops }).dues
    (ids.map fun id => .longLatencyCompletion id)

/-- R77, R108: every piece of a context's work evicted, and its other agents' requests with it. -/
def State.evictCtx (s : State) (c : Nat) : Nat × State :=
  let (n, s) := s.evictWork (fun g => g.ctx == c) (fun g => g.ctx == c)
  let s := ((s.dropReqs fun r => r.ctx == c).dropContribs fun x => x.ctx == c).endHostOps c
  (n, { s with
    colls := s.colls.filter fun kv => kv.2.ctx != c
    redcs := s.redcs.filter fun kv => kv.2.ctx != c
    walks := s.walks.filter fun w => w.ctx != c })

/-- The queues of a context that are not free. -/
def State.queuesOf (s : State) (c : Nat) : List Nat := (s.queues.filter fun kv => kv.2.ctx == c && kv.2.st != QState.free).map Prod.fst

/-- R68: a loss told to the memory processors of the other devices of the domain context. -/
def State.tellLoss (s : State) (c cause : Nat) : State :=
  { s with peerOut := s.peerOut ++ [.lost (s.domainDev c) (s.routeCtx c) cause] }

/-- R108: the four steps of a loss: freeze, evict, retire, record; then the queues are FREE. -/
def State.carryOut (s : State) (c cause : Nat) (redun : Bool) : State :=
  -- a loss detected here is noted with its cause before it is carried out; one that a peer tells is not told again
  let s := if (tget? s.ctxs c).any fun x => x.lost.isSome then s.tellLoss c cause else s
  let qs := s.queuesOf c
  let s := qs.foldl (fun (s : State) q => s.modQueue q fun x => { x with st := QState.aborting }) s
  let (n, s) := s.evictCtx c
  let pages := ((s.poison.filter fun (kv : Nat × Nat) => s.ownsPoison c kv.1).map fun (kv : Nat × Nat) => kv.1 / 2 ^ 10).eraseDups
  let s := pages.foldl State.retireFrame s
  let bad := s.rows.filter fun kv => kv.2.poison && kv.2.tag == s.rowTag c
  let s := bad.foldl (fun (s : State) kv => s.retireRow kv.1 kv.2) s
  let (st, s) := s.readCycles 8
  let s := s.modCtx c fun x =>
    { x with lost := some (x.lost.getD cause), ended := true, eqHeld := x.eqHeld ++ [lostRec c (x.lost.getD cause) n (pages.length + bad.length) st redun] }
  qs.foldl State.freeQueue (s.due (.errorRecordWrite c))

/-- R108: CONTEXT_LOSS: the first loss of a context is carried out; a later cause is counted. -/
def execContextLoss (ctx cause : Nat) (s : State) : Out :=
  .next (match tget? s.ctxs ctx with
    | none => s
    | some x => if x.ended then s.modCtx ctx fun y => { y with later := min 0xFFFF (y.later + 1) } else s.carryOut ctx cause x.redun)

/-! ### Memory errors -/

/-- R33: the context that an owner tag names: its number and generation. -/
def State.tagOwner (s : State) (tag : Nat) : Nat :=
  match tget? s.ctxs (tag % 1024) with
  | some x => if x.gen = tag / 1024 then tag % 1024 else 0xFFFF
  | none => 0xFFFF

/-- R102: the context whose number a line of memory is tagged with. -/
def State.lineOwner (s : State) (key : Nat) : Nat :=
  match tgetD s.tags (key / 128) 0 % 2 ^ 40 with
  | 0 => 0xFFFF
  | t => ((s.ctxs.find? fun kv => s.ownerOf key kv.1 == t).map Prod.fst).getD 0xFFFF

/-- R103: where a location of STORE 2 lies: in a placed prefix, or in the chip scratchpad. -/
def State.chipKey (s : State) (loc : ErrLoc) : Nat :=
  let h := mkHolder s.pkg.device loc.die 2
  if (s.engine loc.die).entries.any fun e => e.covers loc.addr && e.holder == h then keyHolder h loc.addr else keyChip loc.die loc.addr

/-- R204: the row that a location of STORE 3 lies in. -/
def State.rowOf (s : State) (loc : ErrLoc) : Option (Nat × Row) :=
  (s.rows.filter fun kv => decide (kv.1 * 2 ^ 14 ≤ loc.addr) && decide (loc.addr < kv.1 * 2 ^ 14 + rowBytes kv.2.len) && kv.2.die == loc.die).getLast?

/-- R103: where a location of L2 lies: at the holder that its die's engine takes it from. -/
def State.l2Key (s : State) (loc : ErrLoc) : Option Nat :=
  (nearest (((s.engine loc.die).longest loc.addr).filter Entry.serving)).map fun e => s.keyAt e.holder loc.addr

/-- R102: the context that an error's record goes to: the owner of the prefix for HBM, else that of the owner tag (for a line of L2 that
nothing has been written to, the owner of its prefix); tiles, registers and queues are those of a block on the core. -/
def State.errOwner (s : State) (loc : ErrLoc) : Nat :=
  let core := coreNo loc.die loc.core
  match loc.store with
  | 0 | 1 => (match s.grantOf loc.addr with | some (c, _) => c | none => 0xFFFF)
  | 5 => (match (s.l2Key loc).map s.lineOwner, s.grantOf loc.addr with
    | some 0xFFFF, some (c, _) | none, some (c, _) => c
    | some c, _ => c
    | none, none => 0xFFFF)
  | 2 => s.lineOwner (s.chipKey loc)
  | 3 => (match s.rowOf loc with | some kv => s.tagOwner (kv.2.tag - 1) | none => 0xFFFF)
  | 6 => s.lineOwner (keySpad core loc.addr)
  | 7 => (match s.line? core (loc.addr / 128) with | some ln => s.tagOwner ln.tag | none => 0xFFFF)
  | _ => if s.blocks.any fun kv => kv.2.home == some (loc.die, loc.core) && kv.2.ctx == loc.ctx then loc.ctx else 0xFFFF

/-- R99: a record with a location block. -/
def State.locRecord (s : State) (code : Nat) (loc : ErrLoc) (count : Nat) : State :=
  let (st, s) := s.readCycles loc.die
  let c := s.errOwner loc
  s.record
    { code := code, exact := false, redun := match tget? s.ctxs c with | some x => x.redun | none => false, ctx := c, die := loc.die
      core := if 6 ≤ loc.store then loc.core else 0xFF, warp := 0xFF, pc := 0, stamp := st
      body := natLe 1 loc.store ++ natLe 1 (if loc.store ≤ 1 then loc.channel else 0) ++ natLe 1 (if loc.store ≤ 1 then loc.symbol else 0) ++
        natLe 5 0 ++ natLe 8 (placeAddr (if loc.store = 7 then coreNo loc.die loc.core else loc.die) loc.store loc.addr) ++ natLe 4 count ++
        natLe 12 0
      keep := false }

/-- R109: a HBM channel's key, by package stack and channel. -/
def stackChan (stack channel : Nat) : Nat := stack * 64 + channel

/-- R109: corrections on one lane counted; sixteen within 2^24 management cycles pause the channel while a spare is left. -/
def State.laneError (s : State) (loc : ErrLoc) : State :=
  let (now, s) := s.readCycles 8
  let k := stackChan (loc.die * 2 + loc.store) loc.channel
  let ch := tgetD s.chans k ⟨false, 0, 0, 0, []⟩
  let seen := (now :: tgetD ch.seen loc.symbol []).take 16
  let ch' :=
    if seen.length = 16 ∧ now - seen.getLastD now ≤ 2 ^ 24 ∧ ch.spares < 2 ∧ !ch.paused then
      { ch with paused := true, lane := loc.symbol, since := now, seen := tdel ch.seen loc.symbol }
    else { ch with seen := tset ch.seen loc.symbol seen }
  { s with chans := tset s.chans k ch' }

/-- R102: ECC_CORRECTION. -/
def execEccCorrection (loc : ErrLoc) (s : State) : Out :=
  .next (
    let s := match s.merges.find? fun m => m.loc == loc with
      | none => ({ s with merges := s.merges ++ [(⟨loc, 0⟩ : Merge)] }).locRecord 0x11 loc 1
      | some _ => { s with merges := s.merges.map fun m => if m.loc == loc then { m with count := m.count + 1 } else m }
    if loc.store ≤ 1 then s.laneError loc else s)

/-- R102: CORRECTION_MERGE_FLUSH: 65,536 cycles have passed without a correction at the location. -/
def execCorrectionMergeFlush (loc : ErrLoc) (s : State) : Out :=
  .next (match s.merges.find? fun m => m.loc == loc with
    | none => s
    | some m =>
      let s := { s with merges := s.merges.filter fun m => m.loc != loc }
      if m.count = 0 then s else s.locRecord 0x11 loc m.count)

/-- R109: CHANNEL_RESUME: the spare is in place; the pause is reported and held requests go on. -/
def execChannelResume (stack channel : Nat) (s : State) : Out :=
  .next (match tget? s.chans (stackChan stack channel) with
    | none => s
    | some ch =>
      if !ch.paused then s
      else
        let (now, s) := s.readCycles 8
        let s := { s with chans := tset s.chans (stackChan stack channel) { ch with paused := false, spares := ch.spares + 1 } }
        let s := s.record
          { code := 0x17, exact := false, redun := false, ctx := 0xFFFF, die := 8, core := 0xFF, warp := 0xFF, pc := 0, stamp := now
            body := natLe 1 stack ++ natLe 1 channel ++ natLe 1 ch.lane ++ natLe 1 ch.spares ++ natLe 4 (min (now - ch.since) (2 ^ 17)) ++
              natLe 24 0
            keep := false }
        s.afterPause)

/-- R99, R103: the poison that an error leaves at an address: the store's code plus 1, for HBM the channel and symbol beside it, and the
granule's number. -/
def locPoison (loc : ErrLoc) (addr : Nat) : Nat :=
  loc.store + 1 + (if loc.store ≤ 1 then 16 * (loc.channel % 64 + 64 * (loc.symbol % 256)) else 0) + 2 ^ 18 * (addr / 16 + 1)

/-- R103: granules of a range, from an address, marked poisoned by an error. -/
def State.poisonGranules (s : State) (key addr n : Nat) (loc : ErrLoc) : State :=
  { s with poison := (List.range n).foldl (fun t i => tset t (key / 16 + i) (locPoison loc (addr + 16 * i))) s.poison }

/-- R54: the holder that a location lies in withdrawn by failure. -/
def State.failPlace (s : State) (loc : ErrLoc) : State :=
  let h := mkHolder s.pkg.device loc.die loc.store
  match (s.engine loc.die).entries.find? fun e => e.covers loc.addr && e.holder == h && e.st != .regen with
  | some e => s.failHolder loc.die e.pfx e.len h
  | none => s

/-- R102, R103: an uncorrectable error in HBM: the line is poisoned and its holder withdrawn by failure. -/
def State.hbmError (s : State) (loc : ErrLoc) : State :=
  let h := mkHolder s.pkg.device loc.die loc.store
  ((s.poisonGranules (keyHolder h (loc.addr / 128 * 128)) (loc.addr / 128 * 128) 8 loc).locRecord 0x12 loc 1).failPlace loc

/-- R103: an uncorrectable error in an L1 line: a clean one is dropped, of a dirty one the granule is poisoned. -/
def State.l1Error (s : State) (loc : ErrLoc) : State :=
  let core := coreNo loc.die loc.core
  let line := loc.addr / 128
  match s.line? core line with
  | none => s
  | some ln =>
    if ln.dirty ||| ln.own = 0 then (s.locRecord 0x11 loc 1).modCore core fun c => { c with l1 := tdel c.l1 line }
    else (s.setLine core line { ln with poison := tset ln.poison (loc.addr % 128 / 16) (locPoison loc loc.addr) }).locRecord 0x12 loc 1

/-- R54, R103: where an error's granule lies in the other stores, poisoned; a holder that it lies in is withdrawn by failure. -/
def State.sramError (s : State) (loc : ErrLoc) : State :=
  match loc.store with
  | 2 => (s.poisonGranules (s.chipKey loc) loc.addr 1 loc).failPlace loc
  | 3 =>
    (match s.rowOf loc with
      | some kv => { s with rows := tset s.rows kv.1 { kv.2 with poison := true } }
      | none => s).failPlace loc
  | 5 =>
    (match s.l2Key loc with
      | some k => s.poisonGranules k loc.addr 1 loc
      | none => s)
  | 6 => s.poisonGranules (keySpad (coreNo loc.die loc.core) loc.addr) loc.addr 1 loc
  | 8 =>
    { s with blocks := tmap (fun _ (b : Block) =>
        if b.home = some (loc.die, loc.core) ∧ b.ctx = loc.ctx then { b with
          tileBad := b.tileBad ||| BitVec.ofNat 8 (2 ^ (loc.addr / 65536)), tilePoison := tset b.tilePoison (loc.addr / 16) (locPoison loc loc.addr) }
        else b) s.blocks }
  | _ => s

/-- R102, R103: UNCORRECTABLE_ERROR: by the store that held the data. A clean cached line is fetched again; a register or queue
is consumed at once. -/
def execUncorrectableError (loc : ErrLoc) (dirty : Bool) (s : State) : Out :=
  .next (match loc.store with
    | 0 | 1 => s.hbmError loc
    | 5 => if dirty then (s.sramError loc).locRecord 0x12 loc 1 else s.locRecord 0x11 loc 1
    | 7 => s.l1Error loc
    | 2 | 3 | 6 | 8 => (s.locRecord 0x12 loc 1).sramError loc
    | 9 | 10 => (s.locRecord 0x12 loc 1).poisoned { mpWho loc.ctx loc.die with core := loc.core } loc.addr loc.store
    | _ => s)

end Sys2Proof.Machine
end

