-- ==== Sys2Proof/Machine/Mailbox.lean ====
section
/-! DEFINITION. The mailbox (R63 to R66): contexts (R67, R68), grants (R84, R85, R93), windows, queues (R77), limits (R79). -/

namespace Sys2Proof.Machine

open Sys2Proof

/-! ### Requests -/

/-- `n` bytes of a request from byte `i` on. -/
def rqField (rq : BitVec 512) (i n : Nat) : Nat := rq.toNat / 2 ^ (8 * i) % 2 ^ (8 * n)

/-- R66: whether every byte from 8 on that the operation does not list, as (byte, bytes), is zero. -/
def rqClean (rq : BitVec 512) (fields : List (Nat × Nat)) : Bool :=
  (List.range 56).all fun i => (fields.any fun f => decide (f.1 ≤ i + 8) && decide (i + 8 < f.1 + f.2)) || rqField rq (i + 8) 1 == 0

/-- R63: the request in a slot of a function's request ring. -/
def State.requestAt (s : State) (fn idx : Nat) : BitVec 512 :=
  let f := s.fnOf fn
  BitVec.ofNat 512 (leNat (s.hostRd (f.reqHi.toNat * 2 ^ 32 + f.reqLo.toNat + 64 * (idx % 256)) 64))

/-- R63: whether a function has a request that has not been taken. -/
def Fn.asks (f : Fn) : Bool := f.cur.isNone && f.head == f.done && f.head != f.tail

/-- R63: the function whose request is taken next, in round-robin order. -/
def State.nextFn (s : State) : Option Nat := following id s.lastFn ((s.fns.filter fun kv => kv.2.asks).map Prod.fst)

/-- R63: the request that a function's mailbox serves now, or takes next where it is the function's turn. -/
def State.pendingRequest (s : State) (fn : Nat) : Option (Nat × BitVec 512) :=
  let f := s.fnOf fn
  match f.cur with
  | some rq => some (f.done.toNat, rq)
  | none => if s.nextFn = some fn then some (f.head.toNat, s.requestAt fn f.head.toNat) else none

/-- R63: a request taken, in index order; `true` where it had been taken before and still waits. -/
def State.takeRequest (s : State) (fn idx : Nat) (rq : BitVec 512) : Option (Bool × State) :=
  let f := s.fnOf fn
  if s.pendingRequest fn ≠ some (idx, rq) then none
  else match f.cur with
    | some _ => some (true, s)
    | none => some (false, { s.setFn fn { f with head := f.head + 1, cur := some rq } with lastFn := fn })

/-- R65: statuses. -/
def stOk : Nat := 0
def stBadop : Nat := 1
def stNotown : Nat := 2
def stNospace : Nat := 3
def stBadarg : Nat := 4
def stBusy : Nat := 5

/-- An operation of the mailbox: its code, the bytes it lists, and what it does (`true` where it has begun before). A request
of another code or with nonzero bytes 1 to 3 is not its; one with other bytes set is refused with BADARG. DESIGN CHOICE: that refusal
comes before all others (R65), which have the order of the operation's own checks (notes/assumptions/91.md). -/
def mailOp (code : Nat) (fields : List (Nat × Nat)) (f : Bool → State → State) (fn idx : Nat) (rq : BitVec 512) (s : State) : Out :=
  .next (if rqField rq 0 1 ≠ code ∨ rqField rq 1 3 ≠ 0 then s
    else match s.takeRequest fn idx rq with
      | none => s
      | some (again, s) => if rqClean rq fields then f again s else s.respond fn rq stBadarg [])

/-- R65: BADOP: an unknown code or nonzero bytes 1 to 3. -/
def execBadop (fn idx : Nat) (rq : BitVec 512) (s : State) : Out :=
  .next (if (1 ≤ rqField rq 0 1 ∧ rqField rq 0 1 ≤ 12) ∧ rqField rq 1 3 = 0 then s
    else match s.takeRequest fn idx rq with
      | none => s
      | some (_, s) => s.respond fn rq stBadop [])

/-- R65, R108: the context that a request names: the status that refuses it, or the context. `lostToo` for the operations that a
lost context may be named in. -/
def State.namedCtx (s : State) (fn c : Nat) (lostToo : Bool) : Except Nat Ctx :=
  if 1024 ≤ c then .error stBadarg
  else match tget? s.ctxs c with
    | none => .error stBadarg
    | some x =>
      if x.fn ≠ fn then .error stNotown
      else if x.lost.isSome && !lostToo then .error stBadarg
      else if x.freeing.isSome then .error stBusy
      else .ok x

/-! ### Limits -/

/-- R79: the functions that can have limits. -/
def vfs : List Nat := (List.range 63).map (· + 1)
/-- R79: a resource of a function: a VF's limit, or what the VFs leave to the PF. -/
def State.limitOf (s : State) (fn total : Nat) (get : Fn → Nat) : Nat :=
  if fn = 0 then total - sumOf (fun v => get (s.fnOf v)) vfs else get (s.fnOf fn)
def State.maxCtxOf (s : State) (fn : Nat) : Nat := s.limitOf fn 1024 Fn.maxCtx
def State.maxQOf (s : State) (fn : Nat) : Nat := s.limitOf fn 131072 Fn.maxQ
def State.maxVecOf (s : State) (fn : Nat) : Nat := s.limitOf fn 2048 Fn.maxVec
def State.maxWinOf (s : State) (fn : Nat) : Nat := if fn = 0 then 1024 else (s.fnOf fn).maxWin
def State.ceilOf (s : State) (fn : Nat) : Nat := if fn = 0 then 63 else (s.fnOf fn).ceil

/-- R61: contexts and queues that a function holds. -/
def State.ctxsHeld (s : State) (fn : Nat) : Nat := (s.ctxs.filter fun kv => kv.2.fn == fn).length
def State.queuesHeld (s : State) (fn : Nat) : Nat :=
  (s.queues.filter fun kv => decide (kv.1 < 131072) && kv.2.fn == fn && kv.2.st != QState.free).length
/-- R67: the queue quotas that a function's contexts hold. -/
def State.quotasHeld (s : State) (fn : Nat) : Nat := sumOf (fun x => if x.fn = fn then x.qquota else 0) (tvals s.ctxs)

/-! ### Contexts -/

/-- R33: every on-chip line that carries a context number loses its bytes and tag, in L1 too. -/
def State.wipeTags (s : State) (c : Nat) : State :=
  let dead := fun (line : Nat) => !encrypted (line * 128) && tgetD s.tags line 0 != 0 && (tgetD s.tags line 0 - 1) % 1024 == c
  { s with
    mem := s.mem.filter fun kv => !dead (kv.1 / 128), tags := s.tags.filter fun kv => !dead kv.1
    cores := tmap (fun _ (k : Core) => { k with l1 := k.l1.filter fun kv => kv.2.tag % 1024 != c }) s.cores }

/-- R33: the generation of a context number that is about to be used; before it wraps, the lines of its older ones are zeroed. -/
def State.nextGen (s : State) (c : Nat) : Nat × State :=
  let g := tgetD s.gens c 0
  if g = 64 then (0, { s.wipeTags c with gens := tset s.gens c 1 }) else (g, { s with gens := tset s.gens c (g + 1) })

/-- R68: what another device's memory processor tells of an origin: its number, its ceiling and modes, and whether it is the
origin that this device's last member of that number had. -/
structure Span where
  dev : Nat
  octx : Nat
  ceil : Nat
  modes : Nat
  same : Bool
  deriving DecidableEq, Repr

/-- R68: the context of another device that a SPAN names, unless it is refused. -/
def spanOf (dev octx n : Nat) : Option Span :=
  let x := Config.peerContext dev octx n
  if x % 2 = 0 then none else some ⟨dev, octx, x / 2 % 64, x / 128 % 8, x / 1024 % 2 == 1⟩

/-- R32, R68: the key number of a new context: a number not used before, but for a member the number that the last member of the
same origin had. -/
def State.drawKey (s : State) : Option Span → Nat × State
  | none => s.takeId
  | some o =>
    let k := o.dev * 1024 + o.octx
    let kept := s.ctxs.any fun kv => kv.2.origin == some (o.dev, o.octx)
    match if o.same || kept then tget? s.peerKeys k else none with
    | some key => (key, s)
    | none => let (key, s) := s.takeId; (key, { s with peerKeys := tset s.peerKeys k key })

/-- R67, R68, R81: a context made: its number, or none where no number or no RA for its root table is left. -/
def State.makeCtx (s : State) (fn ceil modes qquota rquota eqBase eqN : Nat) (origin : Option Span) : Option (Nat × State) :=
  match (List.range 1024).find? fun c => (tget? s.ctxs c).isNone with
  | none => none
  | some c =>
    match s.takePages s.pkg.device 2048 1 with
    | none => none
    | some (pg, s) =>
      let (gen, s) := s.nextGen c
      let (key, s) := s.drawKey origin
      let x : Ctx :=
        { fn := fn, gen := gen, keyNo := key
          ceil := ceil, redun := modes % 2 == 1, dlaunch := modes / 2 % 2 == 1, devrec := modes / 4 % 2 == 1, rquota := rquota
          qquota := qquota, origin := origin.map fun o => (o.dev, o.octx), eqBase := BitVec.ofNat 64 eqBase, eqN := eqN, eqSeq := 0, eqDrops := 0, eqHeld := []
          rootRa := pg * 2 ^ 14, rootLog := 22, tgen := 0, grants := [], freeing := none, lost := none, later := 0 }
      some (c, { s with ctxs := tset s.ctxs c x })

/-- R64, R66, R67: CTXNEW. -/
def execCtxnew (fn idx : Nat) (rq : BitVec 512) (s : State) : Out :=
  mailOp 1 [(8, 1), (9, 1), (10, 2), (12, 2), (16, 8), (24, 4), (28, 2), (30, 2)] (fun _ s =>
    let ceil := rqField rq 8 1
    let modes := rqField rq 9 1
    let qq := rqField rq 10 2
    let rquota := rqField rq 12 2
    let eqBase := rqField rq 16 8
    let eqN := rqField rq 24 4
    let span := rqField rq 28 2
    let octx := rqField rq 30 2
    let member := decide (2 ^ 15 ≤ span)
    let dev := span % 1024
    let bad (n : Nat) := s.respond fn rq n []
    if eqBase % 64 ≠ 0 ∨ eqN < 64 ∨ 65536 < eqN ∨ span / 1024 % 32 ≠ 0 ∨ 1024 ≤ octx ∨ (!member && (span != 0 || octx != 0)) then bad stBadarg
    else if !member && (decide (7 < modes) || decide (s.ceilOf fn < ceil) || (decide (4 ≤ modes) && fn != 0)) then bad stBadarg
    else if s.maxCtxOf fn ≤ s.ctxsHeld fn ∨ s.maxQOf fn < s.quotasHeld fn + qq ∨ 15872 < sumOf Ctx.rquota (tvals s.ctxs) + rquota then bad stNospace
    else
      let (n, s) := s.takeFresh
      let from' : Option (Nat × Nat × Option Span) :=
        if !member then some (ceil, modes, none)
        else if dev = s.pkg.device ∨ !((List.range 18).any s.portUp) then none
        else (spanOf dev octx n).map fun x => (x.ceil, x.modes, some x)
      match from' with
      | none => s.respond fn rq stBadarg []
      | some (ceil, modes, origin) =>
        match s.makeCtx fn ceil modes qq rquota eqBase eqN origin with
        | none => s.respond fn rq stNospace []
        | some (c, s) => s.respond fn rq stOk (natLe 2 c)) fn idx rq s

/-! ### Grants -/

/-- R66, R84: PERM of a leaf's bits, and a leaf's bits of PERM. -/
def leafOfPerm (p : Nat) : Nat :=
  (if p % 2 = 1 then permRd else 0) + (if p / 2 % 2 = 1 then permWr else 0) + (if p / 4 % 2 = 1 then permEx else 0) +
  (if p / 8 % 2 = 1 then permAt else 0) + (if p / 16 % 2 = 1 then permRt else 0)
def permOfLeaf (l : Nat) : Nat :=
  (if hasPerm l permRd then 1 else 0) + (if hasPerm l permWr then 2 else 0) + (if hasPerm l permEx then 4 else 0) +
  (if hasPerm l permAt then 8 else 0) + (if hasPerm l permRt then 16 else 0)

/-- R84: whether a range overlaps a grant of a context. -/
def Ctx.overlapsGrant (x : Ctx) (va len : Nat) : Bool := x.grants.any fun g => decide (va < g.va + g.len) && decide (g.va < va + len)

/-- R84: whether a range lies within the grants of a context that permit writes. -/
def Ctx.writable (x : Ctx) (va len : Nat) : Bool :=
  (List.range (len / 2 ^ 14)).all fun i =>
    let a := va + i * 2 ^ 14
    x.grants.any fun g => decide (g.va ≤ a) && decide (a < g.va + g.len) && g.perm / 2 % 2 == 1

/-- R85: the largest page size that a length holds; 16 KiB where it holds none of the larger ones. -/
def largestPage (len : Nat) : Nat := (([4, 3, 2].map pageSize).find? fun p => decide (p ≤ len)).getD (2 ^ 14)

/-- R35, R68, R85: an RA base congruent to the VA base modulo the largest page size of the range, in the part of the device that the
context has its origin on. -/
def State.takeRange (s : State) (c va len : Nat) : Option (Nat × State) :=
  let p := largestPage len
  (s.takePages (s.domainDev c) ((len + p) / 2 ^ 14) (p / 2 ^ 14)).map fun ps => (ps.1 * 2 ^ 14 + va % p, ps.2)

/-- R85: the leaves of a range, all over one run of RAs. -/
def State.mapRange (s : State) (c va len ra perm : Nat) : State :=
  (leavesOf (fun _ _ => true) (va + len) (len / 2 ^ 14 + 1) va).foldl (fun (s : State) l => s.setLeaf c l.1 l.2 (ra + (l.1 - va)) perm) s

/-- R85, R93: whether the source frames of a block of an alias are one aligned run, so that one leaf maps them. -/
def State.aliasFit (s : State) (c0 va va0 a level : Nat) : Bool :=
  let at' := fun (i : Nat) => (s.walk c0 (va0 + (a - va) + i * 2 ^ 14)).map fun x => x.1
  match at' 0 with
  | none => false
  | some ra => ra % pageSize level == 0 && (List.range (pageSize level / 2 ^ 14)).all fun i => at' i == some (ra + i * 2 ^ 14)

/-- R93: the source leaves become copy-on-write, and each 16 KiB frame is counted once more. -/
def State.aliasSource (s : State) (c0 va0 : Nat) : Nat → State
  | 0 => s
  | n + 1 =>
    let s := aliasSource s c0 va0 n
    let a := va0 + n * 2 ^ 14
    match s.walk c0 a with
    | none => s
    | some (ra, p, level) =>
      let z := pageSize level
      (s.setLeaf c0 (a / z * z) level (ra / z * z) ((p &&& (0x3F ^^^ permWr)) ||| permCow)).setFrameCount ra (s.frameCount ra + 1)

/-- R93: an alias of a source range: its leaves point at the source's frames, copy-on-write. -/
def State.aliasRange (s : State) (c va len c0 va0 perm : Nat) : State :=
  let leaves := leavesOf (s.aliasFit c0 va va0) (va + len) (len / 2 ^ 14 + 1) va
  leaves.foldl (fun (s : State) l =>
    match s.walk c0 (va0 + (l.1 - va)) with
    | some (ra, _, _) => s.setLeaf c l.1 l.2 ra ((perm &&& (0x3F ^^^ permWr)) ||| permCow)
    | none => s) (s.aliasSource c0 va0 (len / 2 ^ 14))

/-- R55, R85: the lowest free regeneration handle; a handle is no holder number (its STORE code is 7). -/
def State.freeHandle (s : State) : Nat :=
  ((List.range (s.regens.length + 1)).find? fun k => (tget? s.regens (8 * k + 7)).isNone).getD s.regens.length * 8 + 7

/-- R55, R85: the regeneration entries of a range. -/
def State.installRegens (s : State) (c : Nat) (g : Grant) (bs : List Byte) : State :=
  (coverRun 64 (g.ra / 2 ^ 14) (g.len / 2 ^ 14)).foldl (fun (s : State) p =>
    let h := s.freeHandle
    let x : Regen :=
      { ctx := c, lrec := g.backA, copy := bs, param := g.backB, lock := g.flags / 2 % 2 == 1, depth := 0, grid := none, pfx := p.1, len := p.2, holder := 0 }
    ({ s with regens := tset s.regens h x }).say 8
      (mkMsg mRegen p.1 p.2 h (s.topVersion p.1 p.2 + 1) (s.routeCtx c) false (g.flags / 2 % 2 == 1))) s

/-- R85: the host-memory homes of a range, announced at grant. -/
def State.announceHost (s : State) (c : Nat) (g : Grant) : State :=
  (coverRun 64 (g.ra / 2 ^ 14) (g.len / 2 ^ 14)).foldl (fun (s : State) p =>
    s.announceHome (hostHolder s.pkg.device) p.1 p.2 (s.routeCtx c) (g.flags / 2 % 2 == 1)) s

def State.addGrant (s : State) (c : Nat) (g : Grant) : State := s.modCtx c fun x => { x with grants := x.grants ++ [g] }

/-- R84: whether the operands of a GRANT are in their ranges, but for what they name. -/
def grantOk (perm kind va len a b flags : Nat) : Bool :=
  decide (perm < 32) && decide (kind ≤ 4) && va % 2 ^ 14 == 0 && decide (0 < len) && len % 2 ^ 14 == 0 && decide (va + len ≤ 2 ^ 57) &&
  decide (flags < 4) &&
  (match kind with
    | 0 => a == 0 && b == 0
    | 1 => a % 2 ^ 14 == 0 && b == 0
    | 2 => a % 256 == 0 && decide (a < 2 ^ 57) && decide (b < 2 ^ 57)
    | 3 => decide (a < 1024) && decide (b < 2 ^ 56)
    | _ => a % 2 ^ 14 == 0 && decide (a + len ≤ 2 ^ 57) && decide (b < 1024))

/-- R84, R85, R93: a grant of anonymous, host, regenerated or peer backing made, or none where it has no room. -/
def State.makeGrant (s : State) (c perm kind va len a b flags : Nat) (bs : List Byte) : Option (Nat × State) :=
  match s.takeRange c va len with
  | none => none
  | some (ra, s) =>
    let g : Grant := { va := va, len := len, perm := perm, kind := kind, backA := BitVec.ofNat 64 a, backB := BitVec.ofNat 64 b, flags := flags, ra := ra }
    if kind = 2 ∧ !s.quotaTakes c (coverRun 64 (ra / 2 ^ 14) (len / 2 ^ 14)).length then none
    else
      let s := (s.addGrant c g).mapRange c va len ra (leafOfPerm perm)
      some (ra, match kind with
        | 1 => s.announceHost c g
        | 2 => s.installRegens c g bs
        | 3 => { s with peerGrants := s.peerGrants ++ [(a, s.routeCtx c, ra, len)] }
        | _ => s)

/-- R93: an alias made. -/
def State.makeAlias (s : State) (c perm va len a b flags : Nat) : Nat × State :=
  let ra := match s.walk b a with | some x => x.1 | none => 0
  let g : Grant := { va := va, len := len, perm := perm, kind := 4, backA := BitVec.ofNat 64 a, backB := BitVec.ofNat 64 b, flags := flags, ra := ra }
  let s := (s.addGrant c g).aliasRange c va len b a (leafOfPerm perm)
  (ra, (s.shoot b a len).2)

/-- R88: whether a context's shoot-downs are all complete. -/
def State.shootsDone (s : State) (c : Nat) : Bool := !s.shoots.any fun kv => kv.2.ctx == c

/-- R84: the RA base that a grant's response carries. -/
def State.grantBase (s : State) (c va : Nat) : Nat :=
  match tget? s.ctxs c with
  | some x => match x.grants.find? fun g => g.va == va with | some g => g.ra | none => 0
  | none => 0

/-- R84: whether a context has a grant at a VA. -/
def State.hasGrant (s : State) (c va : Nat) : Bool :=
  match tget? s.ctxs c with
  | some x => x.grants.any fun g => g.va == va
  | none => false

/-- R85: the launch record that a grant of kind 2 copies; the other kinds have none. -/
def State.grantRecord (s : State) (c kind a : Nat) : Brought × State := if kind = 2 then s.pkgRead c 8 a 256 else (.bytes [], s)

/-- R84, R85, R88: GRANT; the response waits for the record to be read, and for the shoot-downs. -/
def execGrant (fn idx : Nat) (rq : BitVec 512) (s : State) : Out :=
  mailOp 3 [(8, 2), (10, 1), (11, 1), (16, 8), (24, 8), (32, 8), (40, 8), (48, 1)] (fun again s =>
    let c := rqField rq 8 2
    let perm := rqField rq 10 1
    let kind := rqField rq 11 1
    let va := rqField rq 16 8
    let len := rqField rq 24 8
    let a := rqField rq 32 8
    let b := rqField rq 40 8
    let flags := rqField rq 48 1
    let finish := fun (s : State) => if s.shootsDone c && (kind != 4 || s.shootsDone b) then s.respond fn rq stOk (natLe 8 (s.grantBase c va)) else s
    if again && (kind != 2 || s.hasGrant c va) then
      -- R108: a context that is lost meanwhile has its grants still
      finish s
    else match s.namedCtx fn c false with
      | .error n => s.respond fn rq n []
      | .ok x =>
        if !grantOk perm kind va len a b flags || x.overlapsGrant va len then s.respond fn rq stBadarg []
        else if kind = 4 then
          match tget? s.ctxs b with
          | none => s.respond fn rq stBadarg []
          | some y =>
            if y.fn ≠ fn then s.respond fn rq stNotown []
            else if y.lost.isSome then s.respond fn rq stBadarg []
            else if y.freeing.isSome then s.respond fn rq stBusy []
            else if !y.writable a len then s.respond fn rq stBadarg []
            else finish ((s.makeAlias c perm va len a b flags).2.shoot c va len).2
        else match s.grantRecord c kind a with
          | (.wait, s) => s
          | (.denied, s) => s.respond fn rq stBadarg []
          | (.lost, s) => s.respond fn rq stBadarg []
          | (.bytes bs, s) =>
            let (n, s) := s.takeFresh
            if kind = 3 ∧ (a = s.pkg.device ∨ !((List.range 18).any s.portUp) ∨ !Config.peerGranted a b len n) then s.respond fn rq stBadarg []
            else match s.makeGrant c perm kind va len a b flags bs with
              | none => s.respond fn rq stNospace []
              | some (_, s) => finish (s.shoot c va len).2) fn idx rq s

/-- R93: the pages that a grant's leaves map, all leaves cleared: the RAs of the frames, each counted once less. -/
def State.unmapPages (s : State) (c va : Nat) : Nat → List Nat → List Nat × State
  | 0, acc => (acc, s)
  | n + 1, acc =>
    match s.walk c va with
    | none => unmapPages s c (va + 2 ^ 14) n acc
    | some (ra, _, _) =>
      unmapPages (s.setFrameCount ra (s.frameCount ra - 1)) c (va + 2 ^ 14) n (ra / 2 ^ 14 :: acc)

/-- The leaves of a range cleared. -/
def State.clearLeaves (s : State) (c va : Nat) : Nat → State
  | 0 => s
  | n + 1 => clearLeaves (s.dropLeaf c va) c (va + 2 ^ 14) n

/-- R93, R97: a prefix whose frames no leaf maps any more: its holders and its regeneration entry go. -/
def State.dropPrefix (s : State) (pfx len : Nat) : State :=
  let s := s.withdrawAll pfx len
  let s := match s.regens.find? fun kv => kv.2.pfx == pfx && kv.2.len == len with
    | some kv => ({ s with regens := tdel s.regens kv.1 }).say 8
        (mkMsg mFinal pfx len kv.1 (s.topVersion pfx len + 1) (s.routeCtx kv.2.ctx) false kv.2.lock)
    | none => s
  { s with
    frames := tclear s.frames pfx (pfx + pagesOf len), pageTags := tclear s.pageTags pfx (pfx + pagesOf len)
    orphans := s.orphans.filter fun x => decide (x.2.ra / 2 ^ 14 < pfx) || decide (pfx + pagesOf len ≤ x.2.ra / 2 ^ 14) }

/-- R93: the pages of a grant that another leaf still maps when it is revoked, each with what backs it. -/
def State.orphansOf (s : State) (c : Nat) (g : Grant) (pages : List Nat) : List (Nat × Grant) :=
  (pages.filter fun p => g.kind != 4 && decide (g.ra ≤ p * 2 ^ 14) && decide (p * 2 ^ 14 < g.ra + g.len) && s.frameCount (p * 2 ^ 14) != 0).map
    fun p =>
      let off := BitVec.ofNat 64 (p * 2 ^ 14 - g.ra)
      (c, { g with ra := p * 2 ^ 14, len := 2 ^ 14, backA := if g.kind = 1 then g.backA + off else g.backA
                   backB := if g.kind = 3 then g.backB + off else g.backB })

/-- The prefixes that hold one of a list of pages. -/
def State.prefixesOf (s : State) (pages : List Nat) : List (Nat × Nat) :=
  (((List.range 9).flatMap fun k => (s.engine k).entries.filter fun e => pages.any fun p => e.covers (p * 2 ^ 14)).map
    fun e => (e.pfx, e.len)).eraseDups

/-- R42: whether a route operation still runs on a prefix of a grant, which a withdrawal waits for. -/
def State.grantBusy (s : State) (c : Nat) (g : Grant) : Bool :=
  let pages := (List.range (g.len / 2 ^ 14)).filterMap fun i => (s.walk c (g.va + i * 2 ^ 14)).map fun x => x.1 / 2 ^ 14
  (s.prefixesOf pages).any fun p => s.prefixBusy p.1 p.2

/-- R64, R88, R93: a grant revoked: leaves cleared, frames counted, unmapped prefixes withdrawn, the range shot down. -/
def State.revoke (s : State) (c : Nat) (g : Grant) : State :=
  let n := g.len / 2 ^ 14
  let (pages, s) := s.unmapPages c g.va n []
  let s := s.clearLeaves c g.va n
  let s := { s with orphans := s.orphans ++ s.orphansOf c g pages }
  let s := (s.prefixesOf pages).foldl (fun (s : State) p =>
    if (List.range (pagesOf p.2)).all fun i => s.frameCount ((p.1 + i) * 2 ^ 14) == 0 then s.dropPrefix p.1 p.2 else s) s
  let s := s.modCtx c fun x => { x with grants := x.grants.filter fun h => h.va != g.va }
  let s := { s with peerGrants := s.peerGrants.filter fun p => p.2.2.1 != g.ra }
  (s.shoot c g.va g.len).2

/-- R64: REVOKE; it waits for route operations on the range and for the shoot-down. -/
def execRevoke (fn idx : Nat) (rq : BitVec 512) (s : State) : Out :=
  mailOp 4 [(8, 2), (16, 8)] (fun again s =>
    let c := rqField rq 8 2
    let va := rqField rq 16 8
    let g? := (tget? s.ctxs c).bind fun x => x.grants.find? fun g => g.va == va
    let finish := fun (s : State) => if s.shootsDone c && !s.withdrawing c then s.respond fn rq stOk [] else s
    let go := fun (s : State) => match g? with
      | some g => if s.grantBusy c g then s else finish (s.revoke c g)
      | none => finish s
    if again then go s
    else match s.namedCtx fn c true with
      | .error n => s.respond fn rq n []
      | .ok _ => if g?.isNone || decide (2 ^ 57 ≤ va) then s.respond fn rq stBadarg [] else go s) fn idx rq s

/-- R64, R66: XLATE. -/
def execXlate (fn idx : Nat) (rq : BitVec 512) (s : State) : Out :=
  mailOp 5 [(8, 2), (16, 8)] (fun _ s =>
    let c := rqField rq 8 2
    let va := rqField rq 16 8
    match s.namedCtx fn c false with
    | .error n => s.respond fn rq n []
    | .ok _ =>
      match if va < 2 ^ 57 then s.walk c va else none with
      | none => s.respond fn rq stBadarg []
      | some (ra, p, level) =>
        s.respond fn rq stOk (natLe 8 ra ++ natLe 1 (permOfLeaf p) ++ natLe 1 level ++ natLe 1 (if hasPerm p permCow then 1 else 0))) fn idx rq s

/-! ### Freeing a context -/

/-- R64: CTXFREE begun: its work evicted, its queues freed, its windows unmapped. DESIGN CHOICE: the queues that it aborts write no
QABORTED record (notes/assumptions/91.md). -/
def State.beginFree (s : State) (c fn idx : Nat) : State :=
  let qs := s.queuesOf c
  let s := qs.foldl (fun (s : State) q => s.modQueue q fun x => { x with st := QState.aborting }) s
  let (_, s) := s.evictCtx c
  let s := qs.foldl State.freeQueue s
  let s := s.modCtx c fun x => { x with freeing := some (fn, idx) }
  let s := { s with peerOut := s.peerOut ++ (match tget? s.ctxs c with
    | some x => if x.origin.isNone then [PeerMsg.freed s.pkg.device c] else []
    | none => []) }
  { s with fns := tmap (fun _ (f : Fn) => { f with wins := f.wins.filter fun w => w.2.ctx != c }) s.fns }

/-- R32, R64: what is left of a freed context: row sets, line states, cached lines, its keys and its number. -/
def State.endFree (s : State) (c : Nat) : State :=
  let s := (s.rowSets.filter fun kv => kv.2.ctx == c).foldl (fun (s : State) kv => s.freeRows kv.1) s
  { s with
    ctxs := tdel s.ctxs c
    queues := s.queues.filter fun kv => kv.2.ctx != c || decide (kv.1 < 131072)
    cores := tmap (fun _ (k : Core) => { k with l1 := k.l1.filter fun l => l.2.tag % 1024 != c, tlb := k.tlb.filter fun e => e.ctx != c }) s.cores
    tlb2 := tmap (fun _ es => es.filter fun (e : TlbEntry) => e.ctx != c) s.tlb2
    merges := s.merges.filter fun m => m.loc.ctx != c }

/-- R64: a freeing that goes on: grants revoked once no route operation runs on them, and all done once shot down. -/
def State.goFree (s : State) (c : Nat) : Bool × State :=
  match tget? s.ctxs c with
  | none => (true, s)
  | some x =>
    if x.grants.any fun g => s.grantBusy c g then (false, s)
    else
      let s := x.grants.foldl (fun (s : State) g => s.revoke c g) s
      if s.shootsDone c then (true, s.endFree c) else (false, s)

/-- The index of a freeing that no request asked for (R79). -/
def resetIdx : Nat := 2 ^ 32

/-- The index of the freeing of a member that its origin's memory processor asks for (R68). -/
def peerIdx : Nat := 2 ^ 33

/-- R32: the key pair of a freed origin erased: a later member of the same name has another. -/
def State.eraseKey (s : State) (o : Nat × Nat) (key : Nat) : State :=
  let k := o.1 * 1024 + o.2
  if tget? s.peerKeys k = some key then { s with peerKeys := tdel s.peerKeys k } else s

/-- R64, R68: CTXFREE. With `resetIdx` it goes on with the contexts that a function-level reset or a peer frees; with `peerIdx` the
memory processor of the origin tells that it has been freed, and `rq` names the member. -/
def execCtxfree (fn idx : Nat) (rq : BitVec 512) (s : State) : Out :=
  if idx = peerIdx then
    let c := rqField rq 8 2
    .next (match tget? s.ctxs c with
      | some x => match x.origin with
        | some o => if x.freeing.isNone then (s.eraseKey o x.keyNo).beginFree c x.fn resetIdx else s
        | none => s
      | none => s)
  else if idx = resetIdx then
    .next ((s.ctxs.filter fun kv => kv.2.freeing == some (fn, resetIdx)).foldl (fun (s : State) kv => (s.goFree kv.1).2) s)
  else
    mailOp 2 [(8, 2)] (fun again s =>
      let c := rqField rq 8 2
      let go := fun (s : State) => match s.goFree c with
        | (true, s) => s.respond fn rq stOk []
        | (false, s) => s
      if again then go s
      else match s.namedCtx fn c true with
        | .error n => s.respond fn rq n []
        | .ok _ => go (s.beginFree c fn idx)) fn idx rq s

/-! ### Windows -/

/-- R66: WINMAP. -/
def execWinmap (fn idx : Nat) (rq : BitVec 512) (s : State) : Out :=
  mailOp 6 [(8, 2), (10, 2), (16, 8)] (fun _ s =>
    let w := rqField rq 8 2
    let c := rqField rq 10 2
    let base := rqField rq 16 8
    match s.namedCtx fn c false with
    | .error n => s.respond fn rq n []
    | .ok _ =>
      if s.maxWinOf fn ≤ w ∨ base % 2 ^ 28 ≠ 0 ∨ 2 ^ 56 ≤ base ∨ (tget? (s.fnOf fn).wins w).isSome then s.respond fn rq stBadarg []
      else (s.setFn fn { s.fnOf fn with wins := tset (s.fnOf fn).wins w ⟨c, base⟩ }).respond fn rq stOk []) fn idx rq s

/-- R64: WINUNMAP; the response waits for the accesses accepted before. -/
def execWinunmap (fn idx : Nat) (rq : BitVec 512) (s : State) : Out :=
  mailOp 7 [(8, 2)] (fun again s =>
    let w := rqField rq 8 2
    let finish := fun (s : State) => if s.hostBusy fn then s else s.respond fn rq stOk []
    if again then finish s
    else if (tget? (s.fnOf fn).wins w).isNone then s.respond fn rq stBadarg []
    else finish (s.setFn fn { s.fnOf fn with wins := tdel (s.fnOf fn).wins w })) fn idx rq s

/-! ### Queues -/

/-- R60: the global number of a function's queue number. -/
def State.globalQ (s : State) (fn n : Nat) : Option Nat :=
  if fn = 0 then (if n < 131072 ∧ (tget? s.queues n).isSome then some n else none) else tget? (s.fnOf fn).locals n

/-- R64, R66, R76: QNEW. DESIGN CHOICE: on the PF the local number is the low 16 bits of the global one
(notes/assumptions/76.md). -/
def execQnew (fn idx : Nat) (rq : BitVec 512) (s : State) : Out :=
  mailOp 8 [(8, 2), (10, 1), (11, 1), (12, 2), (16, 8)] (fun _ s =>
    let c := rqField rq 8 2
    let logN := rqField rq 10 1
    let prio := rqField rq 11 1
    let vec := rqField rq 12 2
    let ring := rqField rq 16 8
    match s.namedCtx fn c false with
    | .error n => s.respond fn rq n []
    | .ok x =>
      let held := (s.queues.filter fun kv => decide (kv.1 < 131072) && kv.2.ctx == c && kv.2.st != QState.free).length
      let free := (List.range 131072).find? fun n => match tget? s.queues n with | some q => q.st == .free | none => true
      if 16 < logN ∨ x.ceil < prio ∨ s.maxVecOf fn ≤ vec ∨ ring % 64 ≠ 0 ∨ 2 ^ 57 ≤ ring then s.respond fn rq stBadarg []
      else if x.qquota ≤ held ∨ s.maxQOf fn ≤ s.queuesHeld fn then s.respond fn rq stNospace []
      else match free with
        | none => s.respond fn rq stNospace []
        | some q =>
          -- a number that is used again leaves the function that had it
          let s := { s with fns := tmap (fun _ (f : Fn) => { f with locals := f.locals.filter fun l => l.2 != q }) s.fns }
          let locals := (s.fnOf fn).locals
          let loc := if fn = 0 then q else ((List.range 16384).find? fun n => match tget? locals n with
            | some g => (match tget? s.queues g with | some y => y.st == .free | none => true)
            | none => true).getD 0
          let y : Queue :=
            { fn := fn, ctx := c, locNo := loc, ring := BitVec.ofNat 64 ring, logN := logN, prio := prio, vec := vec, st := .active, code := 0
              tail := 0, head := 0, done := 0, pkts := [], hold := none, closer := none, work := [], deficit := 0, level := prio, passes := 0
              starved := false }
          let s := { s with queues := tset s.queues q y }
          let s := if fn = 0 then s else s.setFn fn { s.fnOf fn with locals := tset locals loc q }
          s.respond fn rq stOk (natLe 4 q ++ natLe 2 loc)) fn idx rq s

/-- R65, R77: the queue that a closing request names. -/
def State.namedQueue (s : State) (fn n : Nat) : Except Nat (Nat × Queue) :=
  match (s.globalQ fn n).bind fun q => (tget? s.queues q).map fun x => (q, x) with
  | none => .error stBadarg
  | some (q, x) =>
    if x.fn ≠ fn then .error stNotown
    else match x.st with
      | .free => .error stBadarg
      | .closing | .aborting => .error stBusy
      | _ => .ok (q, x)

/-- R77: whether a packet that was taken can still complete: one that sent its queue to ERROR never does. -/
def Pkt.live (p : Pkt) : Bool := p.kind != 0

/-- R71, R77: a queue in CLOSING becomes FREE when its last taken packet has completed. -/
def State.maybeFree (s : State) (q : Nat) : State :=
  match tget? s.queues q with
  | none => s
  | some x => if x.st == .closing && !(x.pkts.any fun kv => kv.2.live) then s.freeQueue q else s

/-- R69, R77: whether a tail write to a queue has arrived and still waits for BAR4 writes before it. -/
def State.tailPosted (s : State) (fn q : Nat) : Bool := (s.fnOf fn).posted.any fun p => match p with | .tail k _ => k == q | _ => false

/-- R77: closing a queue that a request names: it takes effect once the tail writes that arrived before have been applied. -/
def State.closeQueue (s : State) (fn idx : Nat) (rq : BitVec 512) (again : Bool) (go : State → Nat → Queue → State) : State :=
  let n := rqField rq 8 4
  let begun := match (s.globalQ fn n).bind fun q => tget? s.queues q with
    | some x => x.closer == some (fn, idx, rq)
    | none => false
  if again && begun then s
  else match s.namedQueue fn n with
    | .error k => s.respond fn rq k []
    | .ok (q, x) => if s.tailPosted fn q then s else go s q x

/-- R77: QDESTROY: the response comes when the queue is FREE. -/
def execQdestroy (fn idx : Nat) (rq : BitVec 512) (s : State) : Out :=
  mailOp 9 [(8, 4)] (fun again s => s.closeQueue fn idx rq again fun s q _ =>
    (s.modQueue q fun x => { x with st := .closing, closer := some (fn, idx, rq) }).maybeFree q) fn idx rq s

/-- R77: a queue's work evicted without saving, and a QABORTED record. -/
def State.abortQueue (s : State) (q : Nat) (x : Queue) : State :=
  let s := s.modQueue q fun y => { y with st := .aborting }
  let (_, s) := s.evictWork (fun g => match g.root with | some r => r.1 == q | none => false) (fun g => g.q == q)
  let (st, s) := s.readCycles 8
  s.record
    { code := 2, exact := true, redun := match tget? s.ctxs x.ctx with | some c => c.redun | none => false, ctx := x.ctx, die := 8
      core := 0xFF, warp := 0xFF, pc := 0, stamp := st, body := natLe 4 q ++ natLe 4 x.done.toNat ++ natLe 24 0, keep := false }

/-- R77: QABORT. -/
def execQabort (fn idx : Nat) (rq : BitVec 512) (s : State) : Out :=
  mailOp 10 [(8, 4)] (fun again s => s.closeQueue fn idx rq again fun s q x =>
    ((s.abortQueue q x).modQueue q fun y => { y with closer := some (fn, idx, rq) }).freeQueue q) fn idx rq s

/-! ### Limits and power -/

/-- R79: one more than the highest vector that a function uses. -/
def State.vectorsHeld (s : State) (fn : Nat) : Nat :=
  let f := s.fnOf fn
  let used := (s.queues.filter fun kv => kv.2.fn == fn && kv.2.st != QState.free && decide (kv.1 < 131072)).map fun kv => kv.2.vec + 1
  let regs := (if f.vec = 0 then 0 else f.vec.toNat + 1) :: (if f.errvec = 0 then 0 else f.errvec.toNat + 1) :: used
  regs.foldl max 0

/-- R64, R79: VFCFG. -/
def execVfcfg (fn idx : Nat) (rq : BitVec 512) (s : State) : Out :=
  mailOp 11 [(8, 1), (9, 1), (10, 2), (12, 2), (14, 2), (16, 2)] (fun _ s =>
    let vf := rqField rq 8 1
    let ceil := rqField rq 9 1
    let nc := rqField rq 10 2
    let nq := rqField rq 12 2
    let nv := rqField rq 14 2
    let nw := rqField rq 16 2
    let others (get : Fn → Nat) := sumOf (fun v => if v = vf then 0 else get (s.fnOf v)) vfs
    let f := s.fnOf vf
    if fn ≠ 0 then s.respond fn rq stNotown []
    else if vf < 1 ∨ 63 < vf ∨ 63 < ceil ∨ 16384 < nq ∨ 64 < nw then s.respond fn rq stBadarg []
    else if 1024 < others Fn.maxCtx + nc + s.ctxsHeld 0 ∨ 131072 < others Fn.maxQ + nq + s.queuesHeld 0 ∨
        2048 < others Fn.maxVec + nv + max 64 (s.vectorsHeld 0) then s.respond fn rq stNospace []
    else if nc < s.ctxsHeld vf ∨ nq < s.queuesHeld vf ∨ nv < s.vectorsHeld vf ∨ (f.wins.any fun w => decide (nw ≤ w.1)) then s.respond fn rq stNospace []
    else (s.setFn vf { f with maxCtx := nc, maxQ := nq, maxVec := nv, maxWin := nw, ceil := ceil }).respond fn rq stOk []) fn idx rq s

/-- R28: the fields of a boot-record entry. -/
def bootNext (e : BitVec 128) : Nat := e.toNat / 2 ^ 72 % 16
def bootStep (e : BitVec 128) : Nat := e.toNat / 2 ^ 88 % 256
def bootUnit (e : BitVec 128) : Nat := e.toNat / 2 ^ 80 % 256
def bootDetail (e : BitVec 128) : Nat := e.toNat / 2 ^ 32 % 2 ^ 32

/-- CRC-32 of IEEE 802.3, bit by bit over a register. -/
def crcBit (c : BitVec 32) : BitVec 32 := if c.getLsbD 0 then (c >>> 1) ^^^ 0xEDB88320 else c >>> 1
def crcByte (c : BitVec 32) (b : Byte) : BitVec 32 := (List.range 8).foldl (fun x _ => crcBit x) (c ^^^ b.setWidth 32)
def crc32 (bs : List Byte) : BitVec 32 := (bs.foldl crcByte (BitVec.allOnes 32)) ^^^ BitVec.allOnes 32

/-- R28: whether an entry is whole; a torn one is ignored. -/
def bootWhole (e : BitVec 128) : Bool := e.toNat % 2 ^ 32 == (crc32 (natLe 12 (e.toNat / 2 ^ 32))).toNat

/-- R28, R29: the standing decisions. -/
def Pkg.decisions (p : Pkg) : List (BitVec 128) := p.sticky.filter bootWhole

/-- R18, R28: whether a standing decision caps the package. -/
def Pkg.capped (p : Pkg) : Bool := p.decisions.any fun e => bootNext e == 5
/-- R18, R66: the power limit in force, by the limit asked for. -/
def Pkg.limitInForce (p : Pkg) : Nat := if p.capped then min p.limit 2400 else p.limit

/-- R64, R66: PWRLIM. -/
def execPwrlim (fn idx : Nat) (rq : BitVec 512) (s : State) : Out :=
  mailOp 12 [(8, 2)] (fun _ s =>
    let w := rqField rq 8 2
    if fn ≠ 0 then s.respond fn rq stNotown []
    else if w < 1200 ∨ 3200 < w then s.respond fn rq stBadarg []
    else
      let p := { s.pkg with limit := w }
      ({ s with pkg := p }).respond fn rq stOk (natLe 2 p.limitInForce)) fn idx rq s

end Sys2Proof.Machine
end

