-- ==== Sys2Proof/Machine/Packets.lean ====
section
/-! DEFINITION. Packets of the work queues (R73 to R78): reading, starting, waiting, signalling and completing. -/

namespace Sys2Proof.Machine

open Sys2Proof

/-! ### Packets -/

/-- The 64-bit words of a packet. -/
def packetWord (bs : List Byte) (k : Nat) : W64 := BitVec.ofNat 64 (leNat ((bs.drop (8 * k)).take 8))

/-- R73: a packet as read. -/
def pktOf (bs : List Byte) : Pkt :=
  let h := (packetWord bs 0).toNat
  { kind := h % 256, user := BitVec.ofNat 32 (h / 2 ^ 32), irq := h / 2 ^ 9 % 2 == 1, sop := h / 2 ^ 10 % 4
    body := (List.range 8).map (packetWord bs), started := false, finished := false, op := none, bar := h / 2 ^ 8 % 2 == 1, due := false }

/-- A word of a packet's body; word 1 is bits [127:64]. -/
def Pkt.word (p : Pkt) (k : Nat) : W64 := p.body.getD k 0

/-- R73, R74: whether a packet is valid but for the VAs it names. -/
def Pkt.valid (p : Pkt) : Bool :=
  decide (1 ≤ p.kind) && decide (p.kind ≤ 5) && (p.word 0).toNat / 2 ^ 12 % 2 ^ 20 == 0 && p.sop != 3 &&
  (p.sop == 0 || (p.kind != 3 && p.kind != 5)) && (p.sop != 0 || p.kind != 4) &&
  (match p.kind with
    | 1 | 2 => (p.body.drop 4).all (· == 0)
    | 3 => (p.word 4).toNat % 2 ^ 32 / 16 == 0 && decide ((p.word 4).toNat % 16 ≤ 3) && (p.body.drop 5).all (· == 0)
    | 4 => (p.body.drop 3).all (· == 0)
    | _ => true)

/-- R74: the VAs that a packet names, with their alignment. DEDUCED: with SOP nonzero a signal VA of 0 is that of a signal
(notes/assumptions/40.md). -/
def Pkt.vas (p : Pkt) : List (Nat × Nat) :=
  match p.kind with
  | 1 | 2 => ((p.word 1).toNat, 256) :: if p.sop = 0 ∧ p.word 2 = 0 then [] else [((p.word 2).toNat, 8)]
  | 3 | 4 => [((p.word 1).toNat, 8)]
  | _ => ((p.body.drop 1).filter (· != 0)).map fun v => (v.toNat, 8)

/-- R74: whether a VA is aligned and within the grants of a context. -/
def State.named (s : State) (c : Nat) (v : Nat × Nat) : Bool :=
  v.1 % v.2 == 0 && decide (v.1 < 2 ^ 57) && (s.walk c v.1).isSome

/-- R71: a packet that was taken sends its queue to ERROR; it does not complete. -/
def State.packetError (s : State) (q idx code : Nat) (p : Pkt) : State :=
  let s := s.queueError q code (BitVec.ofNat 32 idx) p.user
  let dead := { p with kind := 0, started := true, finished := true, due := false }
  (s.modQueue q fun x => { x with pkts := tset x.pkts idx dead, hold := if x.hold = some idx then none else x.hold }).maybeFree q

/-- R75: whether the next packet of a queue can be taken: one at a time, each once the packet before it has started and no wait
holds it back. -/
def Queue.takes (x : Queue) : Bool :=
  x.st == .active && x.head != x.tail && x.hold.isNone && x.pkts.all fun kv => kv.2.started

/-- R77: a packet that has been taken and whose read is in flight: KIND 256, which no packet has. -/
def Pkt.inFlight : Pkt :=
  { kind := 256, user := 0, irq := false, sop := 0, body := [], started := false, finished := false, op := none, bar := false, due := false }
/-- R77: the index of the packet whose read is in flight. -/
def Queue.reading (x : Queue) : Option Nat := (x.pkts.find? fun kv => kv.2.kind == 256).map Prod.fst

/-- R75: the VA of a packet's slot. -/
def Queue.slotVa (x : Queue) (i : Nat) : Nat := x.ring.toNat + 64 * (i % 2 ^ x.logN)

/-- R71, R75: a packet that has been read is judged. -/
def State.judgePacket (s : State) (c q i : Nat) (bs : List Byte) : State :=
  let p := pktOf bs
  if !p.valid then s.packetError q i 2 p
  else if !(p.vas.all (s.named c)) then s.packetError q i 4 p
  else s.modQueue q fun y => { y with pkts := tset y.pkts i p }

/-- R75, R77, R78: PACKET_READ: the next packet is taken, its read perhaps still in flight, or a read in flight goes on. A ring found
unmapped takes no packet; unmapped under a read in flight, it leaves the packet that was taken not completing. -/
def execPacketRead (q : Nat) (s : State) : Out :=
  .next (match tget? s.queues q with
    | none => s
    | some x => match x.reading with
      | some i =>
        (match s.pkgRead x.ctx 8 (x.slotVa i) 64 with
          | (.denied, s) => s.packetError q i 3 Pkt.inFlight
          | (.wait, s) => s
          | (.lost, s) => s
          | (.bytes bs, s) => s.judgePacket x.ctx q i bs)
      | none =>
        if !x.takes then s
        else
          let i := x.head.toNat
          match s.pkgRead x.ctx 8 (x.slotVa i) 64 with
          | (.denied, s) => s.queueError q 3 x.head 0
          | (.wait, s) => s.modQueue q fun y => { y with head := y.head + 1, pkts := tset y.pkts i Pkt.inFlight }
          | (.lost, s) => s
          | (.bytes bs, s) => (s.modQueue q fun y => { y with head := y.head + 1 }).judgePacket x.ctx q i bs)

/-- The queue and the packet that an event names, where the packet is of a kind and not started. -/
def State.packet? (s : State) (q idx kind : Nat) : Option (Queue × Pkt) :=
  match tget? s.queues q with
  | none => none
  | some x =>
    match tget? x.pkts idx with
    | some p => if p.kind = kind then some (x, p) else none
    | none => none

/-- R73, R75: whether a packet may start: under BAR, and always for SIGNAL, once every earlier packet has completed. -/
def Queue.free (x : Queue) (idx : Nat) (p : Pkt) : Bool := !p.started && (!(p.bar || p.kind == 4) || x.done.toNat == idx)

def State.setPkt (s : State) (q idx : Nat) (p : Pkt) : State := s.modQueue q fun x => { x with pkts := tset x.pkts idx p }

/-! ### LAUNCH and GRAPH -/

/-- R75, R110: LAUNCH_PACKET: the grid enters the queue; its blocks acquire when they are placed. -/
def execLaunchPacket (q idx : Nat) (s : State) : Out :=
  .next (match s.packet? q idx 1 with
    | none => s
    | some (x, p) =>
      if !x.free idx p then s
      else if !(p.vas.all (s.named x.ctx)) then s.packetError q idx 4 p
      else match s.readRecord x.ctx 8 (p.word 1).toNat with
        | (.bad, s) => s.packetError q idx 2 p
        | (.wait, s) => s
        | (.lost, s) => s
        | (.ok r, s) => ((s.enterGrid x.ctx q r (.packet q idx) (some (q, idx)) 0 0).2).setPkt q idx { p with started := true })

/-- R86, R393: where the control blocks of nodes lie; none where one has to wait, or where the context may not write it and is lost. -/
def State.reachControls (s : State) (c : Nat) : List Node → List (Node × List (Nat × Nat × Nat × Entry)) →
    Option (List (Node × List (Nat × Nat × Nat × Entry))) × State
  | [], acc => (some acc.reverse, s)
  | n :: t, acc =>
    match s.reachVa (.mp c) c 8 n.ctlVa.toNat 64 permWr false true with
    | (.ok ps, s) => reachControls s c t ((n, ps) :: acc)
    | (.wait, s) => (none, s)
    | (.lost ra, s) => (none, s.poisoned (mpWho c 8) ra (s.lostStore 8 ra))
    | (.denied, s) => (none, s.pkgFault c 8 n.ctlVa.toNat 5)

/-- R116, R393: a graph made, its control blocks written first. -/
def State.makeGraph (s : State) (c q idx : Nat) (p : Pkt) (ns : Tab Node) : State :=
  match s.reachControls c ((ns.map Prod.snd).filter fun n => n.kind == 2) [] with
  | (none, s) => s
  | (some xs, s) =>
    let (g, s) := s.takeId
    let gr : Graph := { ctx := c, q := q, idx := idx, nodes := ns }
    let (op, s) := { s with graphs := tset s.graphs g gr }.openPkgOp
    let s := xs.foldl (fun (s : State) x => s.pkgWrite (.mp c) c 8 x.1.ctlVa.toNat x.2 x.1.control (some op)) s
    (s.opDone (some op)).setPkt q idx { p with op := some op }

/-- R75, R116: GRAPH_PACKET: the descriptor judged and the control blocks written; once they have landed the nodes start. -/
def execGraphPacket (q idx : Nat) (s : State) : Out :=
  .next (match s.packet? q idx 2 with
    | none => s
    | some (x, p) =>
      if !x.free idx p then s
      else match p.op with
        | some op =>
          if (tget? s.ops op).isSome then s
          else
            let s := s.setPkt q idx { p with started := true, op := none }
            match s.graphs.find? fun kv => kv.2.q == q && kv.2.idx == idx with
            | some kv => s.settleGraph kv.1
            | none => s
        | none =>
          if !(p.vas.all (s.named x.ctx)) then s.packetError q idx 4 p
          else match s.readGraph x.ctx (p.word 1).toNat with
            | (.bad, s) => s.packetError q idx 2 p
            | (.wait, s) => s
            | (.lost, s) => s
            | (.ok ns, s) => s.makeGraph x.ctx q idx p ns)

/-! ### Waits -/

/-- R74: the conditions of WAIT-VALUE, both sides masked. -/
def waitHolds (cond : Nat) (word cmp mask : W64) : Bool :=
  let a := (word &&& mask).toNat
  let b := (cmp &&& mask).toNat
  match cond with
  | 0 => a == b
  | 1 => a != b
  | 2 => decide (b ≤ a)
  | _ => decide (a < b)

/-- R75: the words that a wait watches, read one after another: all of them, or that they cannot be read now. -/
def State.readWords (s : State) (c : Nat) : List Nat → List W64 → Except Bool (List W64) × State
  | [], acc => (.ok acc.reverse, s)
  | va :: t, acc =>
    match s.pkgRead c 8 va 8 with
    | (.bytes bs, s) => readWords s c t (BitVec.ofNat 64 (leNat bs) :: acc)
    | (.denied, s) => (.error true, s)
    | (.wait, s) => (.error false, s)
    | (.lost, s) => (.error false, s)

/-- R75: a wait evaluated: satisfied, it no longer holds its queue back. -/
def State.evaluate (s : State) (q idx : Nat) (x : Queue) (p : Pkt) : State :=
  match s.readWords x.ctx (p.vas.map Prod.fst) [] with
  | (.error true, s) => s.packetError q idx 4 p
  | (.error false, s) => s.setPkt q idx { p with due := true }
  | (.ok ws, s) =>
    let met := if p.kind = 3 then waitHolds ((p.word 4).toNat % 16) (ws.getD 0 0) (p.word 2) (p.word 3) else ws.all (· == 0)
    if met then (s.setPkt q idx { p with due := false, finished := true }).modQueue q fun y => { y with hold := none }
    else s.setPkt q idx { p with due := false }

/-- R75: a wait packet begun, or evaluated where that is due. -/
def waitPacket (q idx kind : Nat) (s : State) : Out :=
  .next (match s.packet? q idx kind with
    | none => s
    | some (x, p) =>
      if x.free idx p then
        let p := { p with started := true }
        ((s.setPkt q idx p).modQueue q fun y => { y with hold := some idx }).evaluate q idx x p
      else if p.started ∧ !p.finished ∧ p.due then s.evaluate q idx x p
      else s)

/-- R75: WAIT_VALUE_PACKET. -/
def execWaitValuePacket (q idx : Nat) (s : State) : Out := waitPacket q idx 3 s

/-- R75: BARRIER_AND_PACKET: every used signal must read 0. -/
def execBarrierAndPacket (q idx : Nat) (s : State) : Out := waitPacket q idx 5 s

/-- R75: WAIT_VALUE_REEVALUATE. -/
def execWaitValueReevaluate (q : Nat) (s : State) : Out :=
  .next (match tget? s.queues q with
    | none => s
    | some x => match x.hold with
      | none => s
      | some idx => match tget? x.pkts idx with
        | some p => if p.finished then s else s.evaluate q idx x p
        | none => s)

/-- R71, R75: WAITTO: the timeout of a WAIT-VALUE expires. -/
def execWaitto (q : Nat) (s : State) : Out :=
  .next (match tget? s.queues q with
    | none => s
    | some x => match x.hold with
      | none => s
      | some idx => match tget? x.pkts idx with
        | some p => if p.kind = 3 ∧ !p.finished ∧ (p.word 4).toNat / 2 ^ 32 ≠ 0 then s.packetError q idx 5 p else s
        | none => s)

/-! ### Signals and completion -/

/-- R75: a signal written at its home as a 64-bit atomic; the packet then waits for it to land. -/
def State.sendSignal (s : State) (q idx : Nat) (x : Queue) (p : Pkt) (va : Nat) (v : W64) : State :=
  match s.reachVa (.mp x.ctx) x.ctx 8 va 8 (permRd ||| permWr ||| permAt) true true with
  | (.denied, s) => if (s.walk x.ctx va).isNone then s.packetError q idx 4 p else s.pkgFault x.ctx 8 va 2
  | (.wait, s) => s
  | (.lost ra, s) => s.poisoned (mpWho x.ctx 8) ra (s.lostStore 8 ra)
  | (.ok ps, s) =>
    match ps with
    | [] => s
    | (_, ra, _, _) :: _ =>
      let (op, s) := s.openPkgOp
      ((s.pkgAtomic x.ctx 8 va ra (if p.sop = 1 then .exch else .add) v.toNat (some op)).opDone (some op)).setPkt q idx
        { p with started := true, finished := true, op := some op }

/-- R75: SIGNAL_PACKET. -/
def execSignalPacket (q idx : Nat) (s : State) : Out :=
  .next (match s.packet? q idx 4 with
    | none => s
    | some (x, p) => if !x.free idx p then s else s.sendSignal q idx x p (p.word 1).toNat (p.word 2))

/-- R70: QDONE: the lowest index that has not completed, from the one before on: of a packet that is there, or the head. -/
def doneFrom (pkts : Tab Pkt) (head d : W32) : W32 :=
  d + BitVec.ofNat 32 ((pkts.map fun kv => (BitVec.ofNat 32 kv.1 - d).toNat).foldl min (head - d).toNat)

/-- R75: evaluations made due in every queue by a SIGNAL that has completed. -/
def State.wakeWaits (s : State) : State :=
  { s with queues := tmap (fun _ (x : Queue) => match x.hold with
      | some i => { x with pkts := tmod x.pkts i fun p => { p with due := true } }
      | none => x) s.queues }

/-- R75: a packet is complete: its interrupt, then QDONE. -/
def State.completePacket (s : State) (q idx : Nat) (x : Queue) (p : Pkt) : State :=
  let s := if p.irq then s.msix x.fn x.vec else s
  let s := s.modQueue q fun y =>
    let pkts := tdel y.pkts idx
    { y with pkts := pkts, done := doneFrom pkts y.head y.done }
  let s := if p.kind = 4 then s.wakeWaits else s
  s.maybeFree q

/-- R75: whether the work of a LAUNCH or GRAPH is done, device-side launches that descend from it with it. -/
def State.workDone (s : State) (q idx : Nat) : Bool :=
  (s.grids.all fun kv => kv.2.root != some (q, idx)) && s.graphs.all fun kv => !(kv.2.q == q && kv.2.idx == idx)

/-- Whether the signal of a packet has landed. -/
def State.signalled (s : State) (p : Pkt) : Bool := match p.op with | some op => (tget? s.ops op).isNone | none => true

/-- R75: PACKET_COMPLETION: with its work done (each block has released its core's writes at .sys, R115) a packet's signal is
written; once that has landed the packet is complete. -/
def execPacketCompletion (q idx : Nat) (s : State) : Out :=
  .next (match tget? s.queues q with
    | none => s
    | some x =>
      match tget? x.pkts idx with
      | none => s
      | some p =>
        if !p.live || !p.started then s
        else if p.finished then (if s.signalled p then s.completePacket q idx x p else s)
        else if (p.kind = 1 ∨ p.kind = 2) ∧ s.workDone q idx then
          if p.sop = 0 then s.setPkt q idx { p with finished := true } else s.sendSignal q idx x p (p.word 2).toNat (p.word 3)
        else s)

/-! ### What queues can do -/

/-- The events of a queue that can be tried now. -/
def State.queueEvents (s : State) (q : Nat) (x : Queue) : List Instr :=
  (if x.takes || x.reading.isSome then [.packetRead q] else []) ++
  x.pkts.flatMap fun kv =>
    let i := kv.1
    let p := kv.2
    if !p.live || p.kind == 256 then []
    else if x.free i p then
      match p.kind with
      | 1 => [.launchPacket q i]
      | 2 => [.graphPacket q i]
      | 3 => [.waitValuePacket q i]
      | 4 => [.signalPacket q i]
      | _ => [.barrierAndPacket q i]
    else if !p.started then []
    else if p.finished then (if s.signalled p then [.packetCompletion q i] else [])
    else if p.due then (if p.kind = 3 then [.waitValuePacket q i] else [.barrierAndPacket q i])
    else if (p.kind = 1 ∨ p.kind = 2) ∧ s.workDone q i then [.packetCompletion q i]
    else []

end Sys2Proof.Machine
end

