-- ==== Sys2Proof/Machine/Registers.lean ====
section
/-! DEFINITION. Host accesses of registers and windows (R24 to R29, R60 to R62, R69, R70, R72, R79). -/

namespace Sys2Proof.Machine

open Sys2Proof

/-! ### What registers read as -/

/-- R26: whether bring-up has completed. -/
def State.isReady (s : State) : Bool := s.pkg.powered && s.pkg.bootstat.toNat % 2 == 1

/-- R25, R26: the bring-up window. A VF's is a mirror of the PF's. DESIGN CHOICE: BOOTWIN shows torn entries
too, and of fewer than sixteen the oldest at 0x0100 with zeros behind the last (notes/assumptions/75.md). -/
def State.bootRegister (s : State) (off : Nat) : W32 :=
  match off with
  | 0x00 => 0x58160001
  | 0x04 => Config.idStep
  | 0x08 => BitVec.ofNat 32 Config.serial.toNat
  | 0x0C => BitVec.ofNat 32 (Config.serial.toNat / 2 ^ 32)
  | 0x10 => s.pkg.bootstat ||| (if s.pkg.decisions.isEmpty then 0 else 0x80)
  | 0x14 => s.pkg.booterr
  | 0x18 => s.pkg.livemap
  | 0x1C => s.pkg.stackrate
  | 0x20 => s.pkg.nrdycnt
  | 0x24 => s.pkg.fwver
  | 0x28 => s.pkg.bootseq
  | _ =>
    if 0x100 ≤ off ∧ off < 0x200 then
      let last := s.pkg.ring.drop (s.pkg.ring.length - 16)
      BitVec.ofNat 32 ((last.getD ((off - 0x100) / 16) 0).toNat / 2 ^ (8 * (off % 16)))
    else 0

/-- R61: the registers of a function. DESIGN CHOICE: a count beyond its field of FNINFO wraps (notes/assumptions/76.md). -/
def State.fnRegister (s : State) (fn off : Nat) : W32 :=
  let f := s.fnOf fn
  match off with
  | 0x200 => f.reqLo
  | 0x204 => f.reqHi
  | 0x208 => f.rspLo
  | 0x20C => f.rspHi
  | 0x210 => f.tail
  | 0x214 => f.head
  | 0x218 => f.done
  | 0x21C => f.vec
  | 0x220 => f.hosterr
  | 0x224 => BitVec.ofNat 32 (fn * 2 ^ 26 + s.ctxsHeld fn % 2 ^ 10 * 2 ^ 16 + s.queuesHeld fn % 2 ^ 16)
  | 0x228 => f.errvec
  | _ => 0

/-- R71: state codes. -/
def QState.code : QState → Nat
  | .free => 0
  | .active => 1
  | .closing => 2
  | .error => 3
  | .aborting => 4

/-- R70: the registers of a queue's window. -/
def Queue.register (x : Queue) (off : Nat) : W32 :=
  match off with
  | 0x4 => x.head
  | 0x8 => x.done
  | 0xC => BitVec.ofNat 32 (x.st.code * 2 ^ 28 + x.code * 2 ^ 20)
  | _ => 0

/-! ### Writes -/

/-- R24, R25: a not-ready response, counted; a read answers zero. -/
def State.notReady (s : State) (fn : Nat) (isWrite : Bool) : State :=
  let n := s.pkg.nrdycnt
  if !s.pkg.powered then s
  else
    let s := { s with pkg := { s.pkg with nrdycnt := if n = BitVec.allOnes 32 then n else n + 1 } }
    if isWrite then s else { s with out := s.out ++ [.data fn (natLe 4 0)] }

/-- R24: NOT_READY_RESPONSE. -/
def execNotReadyResponse (access : EarlyAccess) (s : State) : Out := .next (s.notReady access.fn access.isWrite)

/-- R61, R62: HOST_ACCESS_DISCARDED; before READY it is a not-ready response. -/
def execHostAccessDiscarded (fn : Nat) (isWrite : Bool) (s : State) : Out :=
  .next (if s.isReady then s.discardHost fn isWrite else s.notReady fn isWrite)

/-- R25: NRDYCNT_WRITE; on a VF it is ignored. -/
def State.writeNrdycnt (s : State) (fn : Nat) (v : W32) : State :=
  if fn = 0 ∧ v = BitVec.allOnes 32 then { s with pkg := { s.pkg with nrdycnt := 0 } } else s
def execNrdycntWrite (fn : Nat) (val : W32) (s : State) : Out := .next (s.writeNrdycnt fn val)

/-- R29: BOOTCLR_WRITE: every standing decision is cleared. -/
def State.writeBootclr (s : State) (fn : Nat) (v : W32) : State :=
  if fn = 0 ∧ v = 0xC1EA then { s with pkg := { s.pkg with sticky := [] } } else s
def execBootclrWrite (fn : Nat) (val : W32) (s : State) : Out := .next (s.writeBootclr fn val)

/-- R61: HOSTERR_WRITE. -/
def State.writeHosterr (s : State) (fn : Nat) (v : W32) : State :=
  if v = BitVec.allOnes 32 then s.setFn fn { s.fnOf fn with hosterr := 0 } else s
def execHosterrWrite (fn : Nat) (val : W32) (s : State) : Out := .next (if s.isReady then s.writeHosterr fn val else s.notReady fn true)

/-- R61: MBX_RING_BASE_WRITE. -/
def State.writeRingBase (s : State) (fn off : Nat) (v : W32) : State :=
  let f := s.fnOf fn
  if f.head ≠ f.done ∨ ((off = 0x200 ∨ off = 0x208) ∧ v.toNat % 4096 ≠ 0) then s.countHostErr fn
  else match off with
    | 0x200 => s.setFn fn { f with reqLo := v }
    | 0x204 => s.setFn fn { f with reqHi := v }
    | 0x208 => s.setFn fn { f with rspLo := v }
    | 0x20C => s.setFn fn { f with rspHi := v }
    | _ => s
def execMbxRingBaseWrite (fn off : Nat) (val : W32) (s : State) : Out :=
  .next (if s.isReady then s.writeRingBase fn off val else s.notReady fn true)

/-- R63, R69: MBXTAIL, behind the function's BAR4 writes. -/
def State.writeMbxtail (s : State) (fn : Nat) (v : W32) : State := s.post fn (.mailbox v)
def execMbxtail (fn : Nat) (val : W32) (s : State) : Out := .next (if s.isReady then s.writeMbxtail fn val else s.notReady fn true)

/-- R61, R79: MBXVEC; the reserved bits are ignored. -/
def State.writeMbxvec (s : State) (fn : Nat) (v : W32) : State :=
  let x := v.toNat % 2048
  if s.maxVecOf fn ≤ x then s.countHostErr fn else s.setFn fn { s.fnOf fn with vec := BitVec.ofNat 32 x }
def execMbxvec (fn : Nat) (val : W32) (s : State) : Out := .next (if s.isReady then s.writeMbxvec fn val else s.notReady fn true)

/-- R61: ERRVEC. -/
def State.writeErrvec (s : State) (fn : Nat) (v : W32) : State :=
  let x := v.toNat % 2048
  if s.maxVecOf fn ≤ x then s.countHostErr fn else s.setFn fn { s.fnOf fn with errvec := BitVec.ofNat 32 x }
def execErrvec (fn : Nat) (val : W32) (s : State) : Out := .next (if s.isReady then s.writeErrvec fn val else s.notReady fn true)

/-- R3, R25, R61: REGISTER_WRITE: an aligned 32-bit write of BAR0. A register with behaviour of its own behaves so; the others
are read-only or unlisted, and the write is ignored. -/
def execRegisterWrite (fn off : Nat) (val : W32) (s : State) : Out :=
  .next (
    if off < 0x200 then
      if off % 4 ≠ 0 then s.notReady fn true
      else match off with
        | 0x20 => s.writeNrdycnt fn val
        | 0x40 => s.writeBootclr fn val
        | _ => s
    else if !s.isReady then s.notReady fn true
    else if off % 4 ≠ 0 ∨ 0x4000 ≤ off then s.discardHost fn true
    else match off with
      | 0x200 | 0x204 | 0x208 | 0x20C => s.writeRingBase fn off val
      | 0x210 => s.writeMbxtail fn val
      | 0x21C => s.writeMbxvec fn val
      | 0x220 => s.writeHosterr fn val
      | 0x228 => s.writeErrvec fn val
      | _ => s)

/-! ### Windows -/

/-- R69: BAR4_ACCESS. -/
def execBar4Access (fn win off : Nat) (acc : HostAcc) (s : State) : Out :=
  let isWrite := match acc with | .write _ => true | .read _ => false
  .next (if !s.isReady then s.notReady fn isWrite
    else match tget? (s.fnOf fn).wins win with
      | none => s.discardHost fn isWrite
      | some w =>
        match acc with
        | .write bs => s.hostWrite fn w.ctx (w.base + off % 2 ^ 28) bs
        | .read n => s.post fn (.read w.ctx (w.base + off % 2 ^ 28) n))

/-- R70, R72: QTAIL, behind the function's BAR4 writes. -/
def execQtail (fn win : Nat) (val : W32) (s : State) : Out :=
  .next (if !s.isReady then s.notReady fn true
    else match s.globalQ fn win with
      | none => s.discardHost fn true
      | some q =>
        match tget? s.queues q with
        | some x => if x.fn = fn then s.post fn (.tail q val) else s.discardHost fn true
        | none => s.discardHost fn true)

/-! ### Function-level reset -/

/-- R79: a function's contexts freed, its windows unmapped, its mailbox registers cleared; its limits stay. DESIGN CHOICE: HOSTERR and
ERRVEC are among the registers that are cleared (notes/assumptions/74.md). -/
def State.resetFn (s : State) (fn : Nat) : State :=
  let cs := (s.ctxs.filter fun kv => kv.2.fn == fn && kv.2.freeing.isNone).map Prod.fst
  let f := s.fnOf fn
  -- a freeing that a request waited for goes on without it
  let s := { s with ctxs := tmap (fun _ (x : Ctx) => if x.fn = fn ∧ x.freeing.isSome then { x with freeing := some (fn, resetIdx) } else x) s.ctxs }
  let s := s.setFn fn { Fn.reset with maxCtx := f.maxCtx, maxQ := f.maxQ, maxVec := f.maxVec, maxWin := f.maxWin, ceil := f.ceil, locals := f.locals, aerUncor := f.aerUncor, aerCor := f.aerCor }
  cs.foldl (fun (s : State) c => s.beginFree c fn resetIdx) s

/-- R79: FUNCTION_LEVEL_RESET; of the PF, for every function. -/
def execFunctionLevelReset (fn : Nat) (s : State) : Out :=
  .next (if fn = 0 then (0 :: vfs).foldl (fun (s : State) f => s.resetFn f) s else s.resetFn fn)

end Sys2Proof.Machine
end

