-- ==== Sys2Proof/Machine/BringUp.lean ====
section
/-! DEFINITION. Power, bring-up, the boot record, attestation, clocks and links in service (R9 to R31). -/

namespace Sys2Proof.Machine

open Sys2Proof

/-! ### The boot record -/

/-- R28: an entry of the boot record, with its CRC. -/
def bootEntry (seq : W32) (step unit outcome next attempt : Nat) (detail : W32) : BitVec 128 :=
  let hi := seq.toNat * 2 ^ 64 + (step * 2 ^ 24 + unit * 2 ^ 16 + outcome * 2 ^ 12 + next * 2 ^ 8 + attempt) * 2 ^ 32 + detail.toNat
  BitVec.ofNat 128 (hi * 2 ^ 32 + (crc32 (natLe 12 hi)).toNat)

/-- R28: the ring of 4,096 entries, oldest first. -/
def Pkg.enterRing (p : Pkg) (e : BitVec 128) : Pkg := { p with ring := (p.ring ++ [e]).drop ((p.ring.length + 1) - 4096) }

/-- The list without the first entry that a test finds. -/
def dropFirst {α : Type} (f : α → Bool) : List α → List α
  | [] => []
  | x :: t => if f x then t else x :: dropFirst f t

/-- R29: a standing decision kept in the sticky area of 256 entries. -/
def Pkg.enterSticky (p : Pkg) (e : BitVec 128) : Pkg :=
  if p.sticky.length < 256 then { p with sticky := p.sticky ++ [e] }
  else
    let same := fun (x : BitVec 128) => bootStep x == bootStep e && bootUnit x == bootUnit e && bootNext x != 6
    let other := fun (x : BitVec 128) => bootNext x != 6
    { p with sticky := (if p.sticky.any same then dropFirst same p.sticky else dropFirst other p.sticky) ++ [e] }

/-- R28: BOOT_RECORD_ENTRY_WRITE: an entry written whole; a decision stands. -/
def Pkg.record (p : Pkg) (step unit outcome next attempt : Nat) (detail : W32) : Pkg :=
  let e := bootEntry p.bootseq step unit outcome next attempt detail
  let p := p.enterRing e
  if next = 0 then p else p.enterSticky e

/-- R29: whether a decision stands for a step and unit. -/
def Pkg.decided (p : Pkg) (step unit next : Nat) : Bool :=
  p.decisions.any fun e => bootStep e == step && bootUnit e == unit && bootNext e == next

/-! ### Bring-up -/

/-- R26: BOOTSTAT's state and step set. -/
def Pkg.stage (p : Pkg) (state step : Nat) : Pkg :=
  { p with bootstat := BitVec.ofNat 32 (state * 2 ^ 28 + step * 2 ^ 24 + p.bootstat.toNat % 2 ^ 24) }

/-- R25, R26: a step that has failed: FAILS and BOOTERR. `again` says that the step has been counted already. -/
def Pkg.failed (p : Pkg) (again : Bool) (detail : W32) : Pkg :=
  let n := p.bootstat.toNat
  let fails := if again then n / 2 ^ 16 % 256 else min 255 (n / 2 ^ 16 % 256 + 1)
  { p with booterr := detail, bootstat := BitVec.ofNat 32 (n / 2 ^ 24 * 2 ^ 24 + fails * 2 ^ 16 + n % 2 ^ 16) }

/-- R26: HALT. -/
def Pkg.halt (p : Pkg) (step : Nat) : Pkg := p.stage 15 step

/-- The detail code of a step and unit in this start; never 0 where a step has failed (R25). -/
def Pkg.detail (p : Pkg) (step unit : Nat) : W32 :=
  let d := Config.detailCode step unit p.bootseq.toNat
  if d = 0 then 1 else d

/-- R28: units of a step, each found passed (`none`) or with outcome and NEXT; an entry for each; the step counts as failed once. -/
def Pkg.units (p : Pkg) (step : Nat) (xs : List (Nat × Option (Nat × Nat × Nat))) : Pkg :=
  (xs.foldl (fun (ap : Bool × Pkg) x =>
    match x.2 with
    | none => (ap.1, ap.2.record step x.1 0 0 1 0)
    | some (3, _, _) => (ap.1, ap.2.record step x.1 3 0 0 0)
    | some (outcome, next, attempts) =>
      let d := ap.2.detail step x.1
      (true, (ap.2.failed ap.1 d).record step x.1 outcome next attempts d)) (false, p)).2

/-- R30: whether an image passes: its signature, a key that is not revoked, and anti-rollback. -/
def Pkg.verifies (p : Pkg) (im : FwImage) : Bool :=
  im.sigOk && (match im.keySlot with | some k => !bit p.revoked k.val | none => false) && decide (p.rollback ≤ im.secVer)

/-- R27: step 2: the slot that last passed, then the other. -/
def Pkg.startFirmware (p : Pkg) : Option Pkg :=
  let im := fun (b : Bool) => if b then p.slotB else p.slotA
  let run := fun (b : Bool) (p : Pkg) =>
    { p with
      lastSlot := b
      fwver := BitVec.ofNat 32 (im b).secVer
      rootSlot := match (im b).keySlot with | some k => k.val | none => 0
      bootstat := BitVec.ofNat 32 (p.bootstat.toNat / 128 * 128 + (if b then 64 else 0) + p.bootstat.toNat % 64) }
  if p.verifies (im p.lastSlot) then some (run p.lastSlot (p.record 2 0xFF 0 0 1 0))
  else
    let d := p.detail 2 0xFF
    let q := p.failed false d
    if p.verifies (im (!p.lastSlot)) then some (run (!p.lastSlot) (q.record 2 0xFF 2 3 2 d)) else none

/-- R12, R27: step 4: the retired sublinks of an edge: those of a standing decision and those that fail now. DESIGN CHOICE: a
sublink that failed in service is trained again, unless a decision of NEXT 4 stands for its edge (notes/assumptions/75.md). -/
def Pkg.trainEdge (p : Pkg) (env : BootEnv) (i : Nat) : BitVec 16 :=
  let old := if p.decided 4 i 4 then tgetD p.retired i 0 else 0
  env.badSublinks.foldl (fun m x => if x.1 = i then m ||| BitVec.ofNat 16 (2 ^ x.2) else m) old

/-- R27: step 4. DESIGN CHOICE: an edge whose only retired sublinks are those of a standing decision passes: OUTCOME 0, NEXT 0
(notes/assumptions/75.md). -/
def Pkg.trainEdges (p : Pkg) (env : BootEnv) : Pkg :=
  let new := (List.range 12).map fun i => (i, p.trainEdge env i)
  let was := fun (i : Nat) => if p.decided 4 i 4 then tgetD p.retired i 0 else 0
  let p' := p.units 4 (new.map fun x => (x.1, if x.2 = was x.1 then none else some (2, 4, 1)))
  { p' with retired := new.filter fun x => x.2 != 0 }

/-- R12, R27: the dies that are live after steps 4 and 5: self-tested, not quarantined, with an edge that is up. DESIGN CHOICE: an edge
to a quarantined die is not up (notes/assumptions/90.md). -/
def Pkg.liveDies (p : Pkg) (env : BootEnv) : List Nat :=
  let ok := fun (d : Nat) => !(env.badDies.contains d) && !(p.decided 5 d 1)
  (List.range 8).filter fun d => ok d &&
    ((List.range 12).zip edges).any fun ie =>
      (ie.2.1 == d || ie.2.2 == d) && tgetD p.retired ie.1 0 != BitVec.allOnes 16 &&
        (let o := if ie.2.1 = d then ie.2.2 else ie.2.1; o == 8 || ok o)

/-- R27: step 5. -/
def Pkg.testDies (p : Pkg) (env : BootEnv) : Pkg :=
  let live := p.liveDies env
  let p' := p.units 5 ((List.range 8).map fun d =>
    (d, if p.decided 5 d 1 then some (3, 0, 0) else if env.badDies.contains d then some (1, 1, 1) else none))
  { p' with livemap := BitVec.ofNat 32 (live.foldl (fun n d => n + 2 ^ d) 0) }

/-- R14, R27: the rate that a stack is tried at first in this start, and the rate that it trains at; 0 for none. -/
def Pkg.firstRate (p : Pkg) (n : Nat) : Nat :=
  if p.decided 6 n 6 then 0 else if p.decided 6 n 2 then tgetD p.rates n 3 else 3
def bestRate (env : BootEnv) (n : Nat) : Nat :=
  match env.stackBest.find? fun x => x.1 == n with
  | some x => min 3 x.2
  | none => 3

/-- R14, R27: step 6, over the stacks of the live dies. -/
def Pkg.trainStacks (p : Pkg) (env : BootEnv) : Pkg :=
  let live := (List.range 16).filter fun n => bit p.livemap (n / 2)
  let rate := fun (n : Nat) => min (p.firstRate n) (bestRate env n)
  let p' := p.units 6 (live.map fun n =>
    (n, if p.decided 6 n 6 then some (3, 0, 0)
      else if rate n = p.firstRate n then none
      else if rate n = 0 then some (1, 6, p.firstRate n)
      else some (2, 2, p.firstRate n - rate n + 1)))
  { p' with
    stackrate := BitVec.ofNat 32 (live.foldl (fun x n => x + rate n * 2 ^ (2 * n)) 0)
    livemap := BitVec.ofNat 32 (p.livemap.toNat % 256 + live.foldl (fun x n => if rate n = 0 then x else x + 2 ^ (8 + n)) 0)
    rates := live.foldl (fun t n => if rate n = 0 then t else tset t n (rate n)) p.rates }

/-- R20: the lanes and the generation that the host port trains at. -/
def trainedWidth (env : BootEnv) : Nat := if 16 ≤ env.hostWidth then 16 else if 8 ≤ env.hostWidth then 8 else if 4 ≤ env.hostWidth then 4 else 1
def trainedGen (env : BootEnv) : Nat := max 1 (min 7 env.hostGen)

/-- R20, R27: step 3: a port that trains down in width or speed has failed. DESIGN CHOICE: its entry has ATTEMPT 2
(notes/assumptions/75.md). -/
def Pkg.trainHost (p : Pkg) (env : BootEnv) : Pkg :=
  let full := trainedWidth env == 16 && trainedGen env == 7
  { p.units 3 [(0xFF, if full then none else some (2, 0, 2))] with hostWidth := trainedWidth env, hostGen := trainedGen env }

/-- R11: a port's link cost, from 1 to 255. -/
def portCost (env : BootEnv) (k : Nat) : Nat :=
  match env.portCosts.find? fun x => x.1 == k with
  | some x => max 1 (min 255 x.2)
  | none => 16

/-- R11, R22, R27: step 9. -/
def Pkg.enablePorts (p : Pkg) (env : BootEnv) : Pkg :=
  let p' := p.units 9 ((List.range 18).map fun k => (k, if env.badPorts.contains k then some (1, 0, 1) else none))
  { p' with ports := (List.range 18).map fun k => (k, ⟨!(env.badPorts.contains k), false, portCost env k, 0⟩) }

/-- R15: the islands at the start. DESIGN CHOICE: the fastest clock and the highest voltage of each range (notes/assumptions/60.md). -/
def firstClocks : Tab Island :=
  ((List.range 8).map fun k => (k, (⟨1200, 850⟩ : Island))) ++ ((List.range 8).map fun k => (8 + k, (⟨2000, 800⟩ : Island))) ++
  [(16, ⟨1000, 750⟩), (17, ⟨2000, 800⟩)]

/-- R27: the package after bring-up. DESIGN CHOICE: once READY, STEP stays 9 (notes/assumptions/75.md). FALLBACK is read from the
standing decisions (`State.bootRegister`). -/
def Pkg.bringUp (p : Pkg) (env : BootEnv) : Pkg :=
  let p := { p with
    powered := true, bootseq := p.bootseq + 1, bootstat := 0, booterr := 0, livemap := 0, stackrate := 0, nrdycnt := 0, fwver := 0
    cycles := [], ports := [], islands := firstClocks, outDies := 0, limit := 3200 }
  let p := p.stage 1 1
  if !env.fuseOk then
    let d := p.detail 1 0xFF
    ((p.failed false d).record 1 0xFF 1 0 1 d).halt 1
  else
    let p := (p.record 1 0xFF 0 0 1 0).stage 2 2
    match p.startFirmware with
    | none =>
      let d := p.detail 2 0xFF
      ((p.failed false d).record 2 0xFF 1 0 2 d).halt 2
    | some p =>
      let p := p.stage 3 3
      let p := p.trainHost env
      let p := (p.stage 3 4).trainEdges env
      let p := (p.stage 4 5).testDies env
      let p := (p.stage 5 6).trainStacks env
      let p := p.stage 5 7
      if !p.verifies p.sched then
        let d := p.detail 7 0xFF
        ((p.failed false d).record 7 0xFF 1 0 1 d).halt 7
      else
        let p := (p.record 7 0xFF 0 0 1 0).stage 6 8
        if !env.routesOk then
          let d := p.detail 8 0xFF
          ((p.failed false d).record 8 0xFF 1 0 1 d).halt 8
        else
          let p := { (p.record 8 0xFF 0 0 1 0).stage 6 9 with device := env.device % 1024 }
          let p := (p.enablePorts env).stage 7 9
          { p with bootstat := p.bootstat ||| 1 }

/-- R109: the channels after step 6: each failing lane of a trained stack has taken a spare while its channel had one. -/
def firstChans (p : Pkg) (env : BootEnv) : Tab Chan :=
  env.badLanes.foldl (fun t x =>
    if bit p.livemap (8 + x.1) ∧ x.2.1 < 64 then
      let k := x.1 * 64 + x.2.1
      tset t k { paused := false, spares := min 2 ((tgetD t k ⟨false, 0, 0, 0, []⟩).spares + 1), lane := x.2.2, since := 0, seen := [] }
    else t) []

/-- R24, R27: POWER_ON. The route engines start empty; the cores that failed their test are quarantined (R106). -/
def execPowerOn (env : BootEnv) (s : State) : Out :=
  .next (if s.pkg.powered then s
    else
      let p := s.pkg.bringUp env
      if p.bootstat.toNat % 2 = 0 then { s with pkg := p }
      else
        let bad := env.badCores.filter fun x => bit p.livemap x.1
        { s with
          pkg := p
          chans := firstChans p env
          engines := ((List.range 9).filter fun k => k == 8 || bit p.livemap k).map fun k => (k, ⟨[], [], 0, 0, []⟩)
          cores := bad.foldl (fun t x => tset t (coreNo x.1 x.2) { Core.reset with quarantined := true }) [] })

/-! ### Power down -/

/-- R28: the entry that is being written when the supply fails is left torn. -/
def Pkg.tear (p : Pkg) : Pkg :=
  match p.ring.getLast? with
  | none => p
  | some e =>
    let bad := Config.tornBits p.bootseq.toNat
    let e' := if bootWhole (e ^^^ bad.setWidth 128) then e ^^^ 1 else e ^^^ bad.setWidth 128
    { p with
      ring := p.ring.dropLast ++ [e']
      sticky := if p.sticky.getLast? = some e then p.sticky.dropLast ++ [e'] else p.sticky }

/-- R28: what flash and fuses keep; all else is as at reset. What has been sent stays sent. -/
def State.powerDown (s : State) (p : Pkg) : State :=
  { State.reset with
    fresh := s.fresh, schedule := s.schedule, next := s.next, out := s.out, portOut := s.portOut
    pkg := { Pkg.reset with
      bootseq := p.bootseq, ring := p.ring, sticky := p.sticky, revoked := p.revoked, rollback := p.rollback
      slotA := p.slotA, slotB := p.slotB, sched := p.sched, lastSlot := p.lastSlot, retired := p.retired, rates := p.rates } }

/-- R28: POWER_LOSS. -/
def execPowerLoss (torn : Bool) (s : State) : Out := .next (s.powerDown (if torn then s.pkg.tear else s.pkg))

/-- R19, R28: THERMAL_POWER_DOWN: an entry with STEP 0xF0 and NEXT 5; no state is saved. DESIGN CHOICE: the entry's UNIT is the
overheated die, its OUTCOME 1 and its ATTEMPT 1 (notes/assumptions/75.md). -/
def execThermalPowerDown (die : Nat) (s : State) : Out :=
  .next (s.powerDown (s.pkg.record 0xF0 die 1 5 1 (s.pkg.detail 0xF0 die)))

/-! ### Clocks -/

/-- R15: an island's clock. -/
def Pkg.mhz (p : Pkg) (k : Nat) : Nat := (tgetD p.islands k ⟨0, 0⟩).mhz
def State.setMhz (s : State) (k mhz : Nat) : State :=
  { s with pkg := { s.pkg with islands := tmod s.pkg.islands k fun i => { i with mhz := mhz } } }

/-- R19: THERMAL_STEP_DOWN. -/
def execThermalStepDown (die : Nat) (s : State) : Out := .next (if die < 8 then s.setMhz die (max 300 (s.pkg.mhz die - 100)) else s)
/-- R19: JUNCTION_110. -/
def execJunction110 (die : Nat) (s : State) : Out := .next (if die < 8 then s.setMhz die 300 else s)

/-- R18: POWER_LIMIT_STEP: with the measured power above the limit, all core-array clocks go one step down; the uncore clocks
only where the core-array clocks are at their floor. -/
def execPowerLimitStep (watts : Nat) (s : State) : Out :=
  .next (if watts ≤ s.pkg.limitInForce then s
    else if (List.range 8).all fun k => decide (s.pkg.mhz k ≤ 300) then
      (List.range 8).foldl (fun (s : State) k => s.setMhz (8 + k) (max 1000 (s.pkg.mhz (8 + k) - 50))) s
    else (List.range 8).foldl (fun (s : State) k => s.setMhz k (max 300 (s.pkg.mhz k - 25))) s)

/-- R15: the frequencies and voltages of an island. -/
def clockOk (k mhz mv : Nat) : Bool :=
  if k < 8 then decide (300 ≤ mhz) && decide (mhz ≤ 1200) && mhz % 25 == 0 && decide (550 ≤ mv) && decide (mv ≤ 850)
  else if k < 16 then decide (1000 ≤ mhz) && decide (mhz ≤ 2000) && mhz % 50 == 0 && decide (650 ≤ mv) && decide (mv ≤ 800)
  else if k = 16 then mhz == 1000 && mv == 750
  else k == 17 && mhz == 2000 && mv == 800

/-- R17: FREQUENCY_CHANGE: between arithmetic cycles; no other state changes. -/
def execFrequencyChange (island mhz mv : Nat) (s : State) : Out :=
  .next (if clockOk island mhz mv then { s with pkg := { s.pkg with islands := tmod s.pkg.islands island fun _ => ⟨mhz, mv⟩ } } else s)

/-! ### Links -/

/-- R54: the holders, by prefix, that engines list and a test names, withdrawn by failure as an engine detects it. -/
def State.failAll (s : State) (eng : Nat) (p : Entry → Bool) : State :=
  ((s.engine eng).entries.filter fun e => e.st != .regen && p e).foldl (fun (s : State) e => s.failHolder eng e.pfx e.len e.holder) s

/-- R58: engines that can no longer be reached leave the fences that wait for them: those of a device that no port reaches and, which is
a DESIGN CHOICE (notes/assumptions/79.md), those of this device's dies that are quarantined or cut off. -/
def State.leaveScope (s : State) : State :=
  s.rops.foldl (fun s kv =>
    let r := { kv.2 with acks := kv.2.acks.filter fun k =>
      if k / 16 = s.pkg.device then s.dieLive (k % 16) && s.joined kv.2.asker (k % 16) else s.peerUp (k / 16) }
    if r.acks.length = kv.2.acks.length then s else (s.setRop kv.1 r).fenced kv.1) s

/-- R12, R14, R27: a die that no live edge reaches is quarantined: out of routing and placement; its holders fail. LIVEMAP
keeps its value until the next start. -/
def State.quarantineDie (s : State) (d : Nat) : State :=
  let s := { s with pkg := { s.pkg with outDies := s.pkg.outDies ||| BitVec.ofNat 8 (2 ^ d) } }
  (List.range 9).foldl (fun (s : State) k =>
    if k = d then s else s.failAll k fun e => holderDev e.holder == s.pkg.device && holderStore e.holder != 4 && holderDie e.holder == d) s

/-- R54: the engines on the side of the host port: those that a path joins to the IOD or, where none does, to the least die in service. -/
def State.mainSide (s : State) : List Nat :=
  let io := s.side 8
  if 1 < io.length then io else s.side (((List.range 8).find? s.dieLive).getD 8)

/-- R54: holders that no path leads to any more from the side of the host port, withdrawn by failure there. -/
def State.failCutOff (s : State) : State :=
  if (List.range 12).all s.edgeUp then s
  else
    let main := s.mainSide
    main.foldl (fun (s : State) k =>
      s.failAll k fun e => !s.remains k e.holder && !(holderDev e.holder != s.pkg.device && main.contains 8)) s

/-- R44: EDGE_DOWN, as both ends see it; R54: what it cuts off. -/
def State.edgeDown (s : State) (a b : Nat) : State :=
  let s := (s.cut a (hopOf b)).cut b (hopOf a)
  let alone := fun (s : State) (d : Nat) => d != 8 && s.dieLive d && (s.neighbours d).isEmpty
  let s := if alone s a then s.quarantineDie a else s
  let s := if alone s b then s.quarantineDie b else s
  s.failCutOff.leaveScope

/-- R12: SUBLINK_FAILURE in service. -/
def execSublinkFailure (edge sub : Nat) (s : State) : Out :=
  .next (match edges[edge]? with
    | none => s
    | some (a, b) =>
      if 16 ≤ sub then s
      else
        let was := s.edgeUp edge
        let s := { s with pkg := { s.pkg with retired := tset s.pkg.retired edge (tgetD s.pkg.retired edge 0 ||| BitVec.ofNat 16 (2 ^ sub)) } }
        if was && !s.edgeUp edge then s.edgeDown a b else s)

def State.modPort (s : State) (p : Nat) (f : Port → Port) : State := { s with pkg := { s.pkg with ports := tmod s.pkg.ports p f } }

/-- R21, R44, R54: a port down: the costs through it go to 2,047; holders that no path leads to any more, through this port or one that
went down before, are withdrawn by failure, and those that another port may still reach keep their entries for a refresh. -/
def State.portDown (s : State) (p : Nat) : State :=
  let s := (s.modPort p fun x => { x with down := true }).cut 8 (.port p)
  (s.failAll 8 fun e => Hop.isPort e.nhop && e.cost == 2047 && !s.peerUp (holderDev e.holder)).leaveScope

/-- R21: FLIT_REPLAY: replays are counted; one that has not succeeded within 16 attempts takes the port down. -/
def execFlitReplay (port attempts : Nat) (s : State) : Out :=
  .next (if !s.portUp port then s
    else
      let s := s.modPort port fun x => { x with replays := x.replays + min attempts 16 }
      if 16 < attempts then s.portDown port else s)

/-- R22: DEVICE_NUMBER_CONFLICT: the link is refused and the boot record says so. -/
def execDeviceNumberConflict (port : Nat) (s : State) : Out :=
  .next (match tget? s.pkg.ports port with
    | none => s
    | some _ =>
      let s := if s.portUp port then s.portDown port else s
      let s := s.modPort port fun x => { x with enabled := false }
      { s with pkg := s.pkg.record 9 port 1 0 1 (s.pkg.detail 9 port) })

/-! ### Attestation -/

/-- R31: an answer over DOE, from step 3 onward. -/
def State.spdm (s : State) (code : Nat) (body : List Nat) : State :=
  if s.pkg.powered ∧ 3 ≤ s.pkg.bootstat.toNat / 2 ^ 24 % 16 then { s with out := s.out ++ [.spdm code body] } else s

/-- The running firmware's image. -/
def Pkg.running (p : Pkg) : FwImage := if p.lastSlot then p.slotB else p.slotA

/-- R31: the certificate chain. -/
def certChain : List Byte := (List.range Config.certLength).map Config.certByte

/-- R31: the digest of bytes as a number. -/
def digest384 (bs : List Byte) : Nat := beNat (sha384 bs)

/-- R31: measurements 1 to 4; an image's `digest` is its SHA-384. DESIGN CHOICE: the sticky area is digested as its entries in use,
oldest first, 16 bytes each, least significant first (notes/assumptions/13.md). -/
def Pkg.measurement (p : Pkg) (k : Nat) : List Nat :=
  match k with
  | 1 => [p.revoked.toNat, p.rootSlot, p.rollback]
  | 2 => [p.running.digest]
  | 3 => [p.sched.digest]
  | 4 => [digest384 (p.sticky.flatMap fun e => natLe 16 e.toNat)]
  | _ => []

/-- R31: GET_VERSION: SPDM 1.3. -/
def execGetVersion (s : State) : Out := .next (s.spdm 0x04 [0x13])
/-- R31: GET_CAPABILITIES: certificates, challenges and measurements; no secure sessions. -/
def execGetCapabilities (s : State) : Out := .next (s.spdm 0x61 [0x16])
/-- R31: NEGOTIATE_ALGORITHMS: ECDSA P-384 with SHA-384. -/
def execNegotiateAlgorithms (s : State) : Out := .next (s.spdm 0x63 [384, 384])
/-- R31: GET_DIGESTS. -/
def execGetDigests (s : State) : Out := .next (s.spdm 0x01 [digest384 certChain])
/-- R31: GET_CERTIFICATE: a portion of the chain. -/
def execGetCertificate (offset length : Nat) (s : State) : Out := .next (s.spdm 0x02 (((certChain.drop offset).take length).map BitVec.toNat))
/-- R31: CHALLENGE: the nonce, the chain's digest and the measurements, signed by the identity key. -/
def execChallenge (nonce : Nat) (s : State) : Out :=
  let m := [nonce, digest384 certChain] ++ (List.range 4).flatMap fun k => s.pkg.measurement (k + 1)
  .next (s.spdm 0x03 (m ++ [Config.identitySign m]))
/-- R31: GET_MEASUREMENTS: one measurement, or all with index 0xFF; signed, over the nonce and the measurements, where the
request asks for a signature by giving a nonce. -/
def execGetMeasurements (req : MeasureReq) (s : State) : Out :=
  let m := if req.index = 0xFF then (List.range 4).flatMap fun k => s.pkg.measurement (k + 1) else s.pkg.measurement req.index
  .next (s.spdm 0x60 (match req.nonce with | some n => m ++ [Config.identitySign (n :: m)] | none => m))

end Sys2Proof.Machine
end

