-- ==== Sys2Proof/Machine/FloatOps.lean ====
section
/-! DEFINITION. The floating-point and special-function instructions (16_floating_point_instructions.md). -/

namespace Sys2Proof.Machine

open Sys2Proof Scalar

/-- A result with its flags in `n` registers. -/
def putRes (d : VReg) (n : Nat) (r : Res) : LaneFx := ⟨regsOf d.val n r.1, [], r.2⟩

def float2 (g : Guard) (d a b : VReg) (f : Nat → Nat → Res) (s : State) : Out :=
  short g [opd1 d, opd1 a, opd1 b] [] (fun w l => putRes d 1 (f (w.src1 a l) (w.src1 b l))) (tdstReg d) s
def float3 (g : Guard) (d a b c : VReg) (f : Nat → Nat → Nat → Res) (s : State) : Out :=
  short g [opd1 d, opd1 a, opd1 b, opd1 c] []
    (fun w l => putRes d 1 (f (w.src1 a l) (w.src1 b l) (w.src1 c l))) (tdstReg d) s

/-- R283: FADD. -/
def execFadd (g : Guard) (rm : Rm) (d a b : VReg) (s : State) : Out := float2 g d a b (fpAdd .f32 rm false) s
/-- R283: FSUB. -/
def execFsub (g : Guard) (rm : Rm) (d a b : VReg) (s : State) : Out := float2 g d a b (fpSub .f32 rm false) s
/-- R283: FMUL. -/
def execFmul (g : Guard) (rm : Rm) (d a b : VReg) (s : State) : Out := float2 g d a b (fpMul .f32 rm false) s
/-- R283: FFMA. -/
def execFfma (g : Guard) (rm : Rm) (d a b c : VReg) (s : State) : Out := float3 g d a b c (fpFma .f32 rm false) s
/-- R284: FMIN. -/
def execFmin (g : Guard) (prop : Bool) (d a b : VReg) (s : State) : Out := float2 g d a b (fmin prop) s
/-- R284: FMAX. -/
def execFmax (g : Guard) (prop : Bool) (d a b : VReg) (s : State) : Out := float2 g d a b (fmax prop) s
/-- R285, R295: FCMP; %tdst of its trap is 0x100 plus the predicate. -/
def execFcmp (g : Guard) (c : FCond) (p : PReg) (a b : VReg) (s : State) : Out :=
  short g [opd1 a, opd1 b] [p.val]
    (fun w l => let r := fcmp c (w.src1 a l) (w.src1 b l); ⟨[], [(p.val, r.1)], r.2⟩) (BitVec.ofNat 32 (0x100 + p.val)) s
/-- R286: FCLASS. -/
def execFclass (g : Guard) (t : Ty) (d a : VReg) (s : State) : Out :=
  short g [opd1 d, opd1 a] []
    (fun w l => put1 d (fclass (t.fmt.getD .f32) (w.src1 a l % 2 ^ t.width))) (tdstReg d) s
/-- R287: FRND. -/
def execFrnd (g : Guard) (rm : Rm) (d a : VReg) (s : State) : Out :=
  short g [opd1 d, opd1 a] [] (fun w l => putRes d 1 (frnd rm (w.src1 a l))) (tdstReg d) s
/-- R288: FSCALE. -/
def execFscale (g : Guard) (rm : Rm) (d a b : VReg) (s : State) : Out := float2 g d a b (fscale rm) s
/-- R289: HADD2. -/
def execHadd2 (g : Guard) (t : Ty) (rm : Rm) (sat : Bool) (d a b : VReg) (s : State) : Out :=
  float2 g d a b (hadd2 (t.fmt.getD .f16) rm sat) s
/-- R289: HMUL2. -/
def execHmul2 (g : Guard) (t : Ty) (rm : Rm) (sat : Bool) (d a b : VReg) (s : State) : Out :=
  float2 g d a b (hmul2 (t.fmt.getD .f16) rm sat) s
/-- R289: HFMA2. -/
def execHfma2 (g : Guard) (t : Ty) (rm : Rm) (sat : Bool) (d a b c : VReg) (s : State) : Out :=
  float3 g d a b c (hfma2 (t.fmt.getD .f16) rm sat) s
/-- R290: CMUL. -/
def execCmul (g : Guard) (rm : Rm) (d a b : VReg) (s : State) : Out :=
  short g [opd2 d, opd2 a, opd2 b] []
    (fun w l => putRes d 2 (complex rm (w.wide a.val l 2) (w.wide b.val l 2) none)) (tdstReg d) s
/-- R290: CFMA. -/
def execCfma (g : Guard) (rm : Rm) (d a b c : VReg) (s : State) : Out :=
  short g [opd2 d, opd2 a, opd2 b, opd2 c] []
    (fun w l => putRes d 2 (complex rm (w.wide a.val l 2) (w.wide b.val l 2) (some (w.wide c.val l 2)))) (tdstReg d) s

/-- R291, R293: a special function of one operand through the special-function queue. -/
def special (g : Guard) (l : Lat) (n : Nat) (d a : VReg) (f : Nat → Res) (s : State) : Out :=
  long g l 1 true [(d.val, n), opd1 a] [] (fun h ls => ls.map fun k => (k, putRes d n (f (h.wp.src1 a k)))) (tdstReg d) s

/-- R291: RCP. -/
def execRcp (g : Guard) (l : Lat) (rm : Rm) (d a : VReg) (s : State) : Out := special g l 1 d a (fRcp rm) s
/-- R291: RSQ. -/
def execRsq (g : Guard) (l : Lat) (rm : Rm) (d a : VReg) (s : State) : Out := special g l 1 d a (fRsq rm) s
/-- R291: SQRT. -/
def execSqrt (g : Guard) (l : Lat) (rm : Rm) (d a : VReg) (s : State) : Out := special g l 1 d a (fSqrt rm) s
/-- R291: EXP2. -/
def execExp2 (g : Guard) (l : Lat) (rm : Rm) (d a : VReg) (s : State) : Out := special g l 1 d a (fExp2 rm) s
/-- R291: LOG2. -/
def execLog2 (g : Guard) (l : Lat) (rm : Rm) (d a : VReg) (s : State) : Out := special g l 1 d a (fLog2 rm) s
/-- R291: SINPI. -/
def execSinpi (g : Guard) (l : Lat) (rm : Rm) (d a : VReg) (s : State) : Out := special g l 1 d a (fSinpi rm) s
/-- R291: COSPI. -/
def execCospi (g : Guard) (l : Lat) (rm : Rm) (d a : VReg) (s : State) : Out := special g l 1 d a (fCospi rm) s
/-- R292: SINCOSPI. -/
def execSincospi (g : Guard) (l : Lat) (rm : Rm) (d a : VReg) (s : State) : Out := special g l 2 d a (sincospi rm) s
/-- R291: TANH. -/
def execTanh (g : Guard) (l : Lat) (rm : Rm) (d a : VReg) (s : State) : Out := special g l 1 d a (fTanh rm) s

end Sys2Proof.Machine
end

