-- ==== Sys2Proof/Machine/Messages.lean ====
section
/-! DEFINITION. The Ifemer messages that an engine receives (R41, R43, R44, R397), and what those of a peer's authority set going at
holders here (R52 to R54). -/

namespace Sys2Proof.Machine

open Sys2Proof

/-- R42: a version sent to a peer stands in an engine of this device once a message of it, or of a later one, has come back. -/
def State.heard (s : State) (eng : Nat) (m : Msg) : State :=
  if eng = 8 ∧ tgetD s.versions (pfxKey m.pfx m.len) 0 ≤ m.ver then { s with versions := tdel s.versions (pfxKey m.pfx m.len) } else s

/-- R52, R53: what a peer's authority has under way at a holder here: a fill's copy, or a home that waits for the old home's marker. -/
def State.peerFill (s : State) (m : Msg) (old phase : Nat) : State :=
  let (id, s) := s.takeId
  let r : ROp :=
    { kind := .peerFill, uid := none, op := 0, ctx := m.ctx, die := holderDie m.holder, pfx := m.pfx, len := m.len, holder := m.holder, old := old
      lock := m.lock, phase := phase, ver := m.ver, acks := [], dst := none, status := 0 }
  { s with rops := tset s.rops id r, filled := if phase = 0 then tset s.filled id [] else s.filled }

/-- The end of what a peer's authority has under way at a holder. -/
def State.dropFills (s : State) (m : Msg) : State :=
  s.rops.foldl (fun (s : State) kv =>
    if kv.2.kind == .peerFill && kv.2.pfx == m.pfx && kv.2.len == m.len && kv.2.holder == m.holder then s.endRop kv.1 12 else s) s

/-- R36, R43: a message that a peer's authority has this device's holder originate: the space is taken or released with it
(notes/assumptions/78.md), and R52, R53, R54: what the message sets going here follows. -/
def State.sayFor (s : State) (m : Msg) : State :=
  if holderDev m.holder ≠ s.pkg.device then s
  else
    let known := (s.places.any fun kv => kv.1 == placeKey m.holder m.pfx m.len)
    let home := s.homeNow m.pfx m.len
    let was := s.entryNow m.pfx m.len m.holder
    let s := if (m.op = mAnnounce ∨ m.op = mFill) ∧ !known then s.place m.holder m.pfx m.len else s
    let s := s.say 8 m
    if m.op = mFinal then ((s.unplace m.holder m.pfx m.len).dropFills m).release
    else if m.op = mFail then
      match was with
      | some e => if e.st == .failed then s else s.afterFail 8 m.pfx m.len m.holder e.home
      | none => s
    else match home with
      | none => s
      | some h =>
        if holderDev h.holder = s.pkg.device then s
        else if m.op = mFill then s.peerFill m h.holder 0
        else if m.op = mHomemove then s.peerFill m h.holder 2
        else s

/-- R43: an engine receives a message that changes an entry. A message with an empty path is one that the holder's own engine is to
originate (notes/assumptions/78.md). R50, R54: a FAIL of a peer's authority, as it enters the device, has its consequences here. -/
def State.receive (s : State) (eng : Nat) (hop : Hop) (m : Msg) : State :=
  if !s.dieLive eng then s
  else if m.rsv ≠ 0 then s.discard eng
  else
    let en := s.engine eng
    if m.path.isEmpty then s.sayFor m
    else if m.path.contains (s.pkg.device, eng) then s.setEngine eng { en with loops := en.loops + 1 }
    else
      let s := s.heard eng m
      let nc := if m.cost = 2047 then 2047 else min (m.cost + s.hopCost hop) 2046
      let (ver, cost) := en.standing m
      if ver < m.ver ∨ (m.ver = ver ∧ nc < cost) then
        let s' := ((s.setEngine eng (en.apply m nc hop)).forward eng hop m nc).changed eng
        match en.named m with
        | some e => if m.op = mFail ∧ Hop.isPort hop ∧ e.st ≠ .failed then s'.afterFail eng m.pfx m.len m.holder e.home else s'
        | none => s'
      else s

/-- R41: ANNOUNCE_MESSAGE. -/
def execAnnounceMessage (eng : Nat) (hop : Hop) (m : Msg) (s : State) : Out := .next (s.receive eng hop { m with op := mAnnounce })
/-- R41: FILL. -/
def execFill (eng : Nat) (hop : Hop) (m : Msg) (s : State) : Out := .next (s.receive eng hop { m with op := mFill })
/-- R41: DRAIN. -/
def execDrain (eng : Nat) (hop : Hop) (m : Msg) (s : State) : Out := .next (s.receive eng hop { m with op := mDrain })
/-- R41: FINAL. -/
def execFinal (eng : Nat) (hop : Hop) (m : Msg) (s : State) : Out := .next (s.receive eng hop { m with op := mFinal })
/-- R41: FAIL. -/
def execFail (eng : Nat) (hop : Hop) (m : Msg) (s : State) : Out := .next (s.receive eng hop { m with op := mFail })
/-- R41: HOMEMOVE. -/
def execHomemove (eng : Nat) (hop : Hop) (m : Msg) (s : State) : Out := .next (s.receive eng hop { m with op := mHomemove })
/-- R41: REGEN. -/
def execRegen (eng : Nat) (hop : Hop) (m : Msg) (s : State) : Out := .next (s.receive eng hop { m with op := mRegen })

/-- R41: IFEMER_MESSAGE_DISCARD. -/
def execIfemerMessageDiscard (eng : Nat) (_m : Msg) (s : State) : Out := .next (s.discard eng)

/-- R41, R58: FQRY: answered at once, or when the engine holds the version. -/
def execFqry (eng : Nat) (_hop : Hop) (m : Msg) (s : State) : Out :=
  .next (if !s.dieLive eng then s
    else if m.rsv ≠ 0 then s.discard eng
    else
      let en := s.engine eng
      (s.setEngine eng { en with queries := en.queries ++ [m] }).answer eng)

/-- R43, R44: RECOST. -/
def execRecost (eng : Nat) (hop : Hop) (m : Msg) (s : State) : Out :=
  .next (if !s.dieLive eng then s
    else if m.rsv ≠ 0 then s.discard eng
    else
      let en := s.engine eng
      if m.path.contains (s.pkg.device, eng) then s.setEngine eng { en with loops := en.loops + 1 }
      else match en.named m with
        | none => s
        | some e =>
          let nc := if m.cost = 2047 then 2047 else min (m.cost + s.hopCost hop) 2046
          if m.ver = e.ver ∧ (nc < e.cost ∨ (hop = e.nhop ∧ nc ≠ e.cost)) then
            let e' := { e with cost := nc, nhop := if nc < 2047 then hop else e.nhop }
            let s := s.setEngine eng { en with entries := en.entries.map fun x => if x = e then e' else x }
            (s.forward eng hop m nc).changed eng
          else s)

/-- R44: RECOST_REFRESH: an engine originates the costs of its own holders again. -/
def execRecostRefresh (eng : Nat) (s : State) : Out :=
  let mine := (s.engine eng).entries.filter fun e =>
    e.nhop == .here && e.receives && holderDev e.holder == s.pkg.device && holderDie e.holder == eng
  .next (mine.foldl (fun s e =>
    let m : Msg :=
      { op := mRecost, pfx := e.pfx, len := e.len, home := e.home, lock := e.lock, holder := e.holder, ver := e.ver, ctx := e.ctx
        cost := if holderStore e.holder = 4 then 2 else 0, path := [(s.pkg.device, eng)], rsv := 0 }
    (s.neighbours eng).foldl (fun s h => s.send eng m h) s) s)

/-- R397: RETIRED_RECORD_EXPIRY. -/
def execRetiredRecordExpiry (eng pfx len holder : Nat) (s : State) : Out :=
  let en := s.engine eng
  .next (s.setEngine eng { en with retired := en.retired.filter fun r => !(r.pfx == pfx && r.len == len && r.holder == holder) })

end Sys2Proof.Machine
end

