-- ==== Sys2Proof/Machine/Dispatch.lean ====
section
/-! DEFINITION. The meaning of each step of the opcode table: one call for each constructor of `Instr`. -/

namespace Sys2Proof.Machine

open Sys2Proof

def exec (i : Instr) (s : State) : Host.Outcome State Fault Refusal :=
  match i with
  -- Mailbox
  | .ctxnew fn idx rq => Sys2Proof.Machine.execCtxnew fn idx rq s
  | .ctxfree fn idx rq => Sys2Proof.Machine.execCtxfree fn idx rq s
  | .grant fn idx rq => Sys2Proof.Machine.execGrant fn idx rq s
  | .revoke fn idx rq => Sys2Proof.Machine.execRevoke fn idx rq s
  | .xlate fn idx rq => Sys2Proof.Machine.execXlate fn idx rq s
  | .winmap fn idx rq => Sys2Proof.Machine.execWinmap fn idx rq s
  | .winunmap fn idx rq => Sys2Proof.Machine.execWinunmap fn idx rq s
  | .qnew fn idx rq => Sys2Proof.Machine.execQnew fn idx rq s
  | .qdestroy fn idx rq => Sys2Proof.Machine.execQdestroy fn idx rq s
  | .qabort fn idx rq => Sys2Proof.Machine.execQabort fn idx rq s
  | .vfcfg fn idx rq => Sys2Proof.Machine.execVfcfg fn idx rq s
  | .pwrlim fn idx rq => Sys2Proof.Machine.execPwrlim fn idx rq s
  | .badop fn idx rq => Sys2Proof.Machine.execBadop fn idx rq s
  -- Packets
  | .packetRead q => Sys2Proof.Machine.execPacketRead q s
  | .launchPacket q idx => Sys2Proof.Machine.execLaunchPacket q idx s
  | .graphPacket q idx => Sys2Proof.Machine.execGraphPacket q idx s
  | .waitValuePacket q idx => Sys2Proof.Machine.execWaitValuePacket q idx s
  | .signalPacket q idx => Sys2Proof.Machine.execSignalPacket q idx s
  | .barrierAndPacket q idx => Sys2Proof.Machine.execBarrierAndPacket q idx s
  | .packetCompletion q idx => Sys2Proof.Machine.execPacketCompletion q idx s
  -- Requests and routes
  | .requestHoldRelease req => Sys2Proof.Machine.execRequestHoldRelease req s
  | .requestBounce req => Sys2Proof.Machine.execRequestBounce req s
  | .unrouted req => Sys2Proof.Machine.execUnrouted req s
  | .announceMessage eng hop m => Sys2Proof.Machine.execAnnounceMessage eng hop m s
  | .fill eng hop m => Sys2Proof.Machine.execFill eng hop m s
  | .drain eng hop m => Sys2Proof.Machine.execDrain eng hop m s
  | .final eng hop m => Sys2Proof.Machine.execFinal eng hop m s
  | .fail eng hop m => Sys2Proof.Machine.execFail eng hop m s
  | .homemove eng hop m => Sys2Proof.Machine.execHomemove eng hop m s
  | .fqry eng hop m => Sys2Proof.Machine.execFqry eng hop m s
  | .fack eng hop m => Sys2Proof.Machine.execFack eng hop m s
  | .regen eng hop m => Sys2Proof.Machine.execRegen eng hop m s
  | .recost eng hop m => Sys2Proof.Machine.execRecost eng hop m s
  | .ifemerMessageDiscard eng m => Sys2Proof.Machine.execIfemerMessageDiscard eng m s
  | .lockedWrite line => Sys2Proof.Machine.execLockedWrite line s
  | .lockAcknowledgement line holder => Sys2Proof.Machine.execLockAcknowledgement line holder s
  | .propagatedStore store holder => Sys2Proof.Machine.execPropagatedStore store holder s
  | .holderFailure eng pfx len holder => Sys2Proof.Machine.execHolderFailure eng pfx len holder s
  | .authorityTakeover eng pfx len => Sys2Proof.Machine.execAuthorityTakeover eng pfx len s
  | .tombstone eng pfx len holder => Sys2Proof.Machine.execTombstone eng pfx len holder s
  | .replicateCopyComplete rop => Sys2Proof.Machine.execReplicateCopyComplete rop s
  | .drainAcknowledged rop => Sys2Proof.Machine.execDrainAcknowledged rop s
  | .handoverMarker rop => Sys2Proof.Machine.execHandoverMarker rop s
  | .regenf req => Sys2Proof.Machine.execRegenf req s
  | .regenerationComplete pfx len => Sys2Proof.Machine.execRegenerationComplete pfx len s
  | .cowf req => Sys2Proof.Machine.execCowf req s
  | .promote req => Sys2Proof.Machine.execPromote req s
  | .tableWalk die ctx va => Sys2Proof.Machine.execTableWalk die ctx va s
  | .shootDown die sd => Sys2Proof.Machine.execShootDown die sd s
  | .requestReplay req => Sys2Proof.Machine.execRequestReplay req s
  | .blockRestore cluster => Sys2Proof.Machine.execBlockRestore cluster s
  -- Errors
  | .contextLoss ctx cause => Sys2Proof.Machine.execContextLoss ctx cause s
  | .errorRecordWrite ctx => Sys2Proof.Machine.execErrorRecordWrite ctx s
  -- Scheduling
  | .dispatchDecision => Sys2Proof.Machine.execDispatchDecision s
  | .preemptionTrap uid st => Sys2Proof.Machine.execPreemptionTrap uid st s
  | .streamSuspend uid st => Sys2Proof.Machine.execStreamSuspend uid st s
  | .blockCompletion uid => Sys2Proof.Machine.execBlockCompletion uid s
  | .recordCountedFilled node slot => Sys2Proof.Machine.execRecordCountedFilled node slot s
  -- Inside a core
  | .clauseFetch uid st lane => Sys2Proof.Machine.execClauseFetch uid st lane s
  | .clauseStart uid st lane => Sys2Proof.Machine.execClauseStart uid st lane s
  | .longLatencyCompletion op => Sys2Proof.Machine.execLongLatencyCompletion op s
  | .fullEmptyRelease uid st => Sys2Proof.Machine.execFullEmptyRelease uid st s
  | .queueWaitRelease uid st => Sys2Proof.Machine.execQueueWaitRelease uid st s
  | .ldqEntryFilled op => Sys2Proof.Machine.execLdqEntryFilled op s
  | .releaseQueryReply die core round => Sys2Proof.Machine.execReleaseQueryReply die core round s
  | .sawaitRelease uid => Sys2Proof.Machine.execSawaitRelease uid s
  | .redcContribution rc => Sys2Proof.Machine.execRedcContribution rc s
  | .collectiveCompletion key => Sys2Proof.Machine.execCollectiveCompletion key s
  | .copy uid slot => Sys2Proof.Machine.execCopy uid slot s
  | .quant uid slot => Sys2Proof.Machine.execQuant uid slot s
  | .loop uid slot => Sys2Proof.Machine.execLoop uid slot s
  | .cond uid slot => Sys2Proof.Machine.execCond uid slot s
  | .signal uid slot => Sys2Proof.Machine.execSignal uid slot s
  | .chainEnd uid slot => Sys2Proof.Machine.execChainEnd uid slot s
  | .sequencerTrapDelivery uid => Sys2Proof.Machine.execSequencerTrapDelivery uid s
  -- Integer, bit and conversion instructions
  | .iadd g t sat d a b => Sys2Proof.Machine.execIadd g t sat d a b s
  | .isub g t sat d a b => Sys2Proof.Machine.execIsub g t sat d a b s
  | .iaddc g sub pi po d a b => Sys2Proof.Machine.execIaddc g sub pi po d a b s
  | .imul g t d a b => Sys2Proof.Machine.execImul g t d a b s
  | .imulh g t d a b => Sys2Proof.Machine.execImulh g t d a b s
  | .imad g t d a b c => Sys2Proof.Machine.execImad g t d a b c s
  | .imadw g t d a b c => Sys2Proof.Machine.execImadw g t d a b c s
  | .imin g t d a b => Sys2Proof.Machine.execImin g t d a b s
  | .imax g t d a b => Sys2Proof.Machine.execImax g t d a b s
  | .iabs g t sat d a => Sys2Proof.Machine.execIabs g t sat d a s
  | .ineg g t sat d a => Sys2Proof.Machine.execIneg g t sat d a s
  | .and g t d a b => Sys2Proof.Machine.execAnd g t d a b s
  | .or g t d a b => Sys2Proof.Machine.execOr g t d a b s
  | .xor g t d a b => Sys2Proof.Machine.execXor g t d a b s
  | .not g t d a => Sys2Proof.Machine.execNot g t d a s
  | .lop3 g lut d a b => Sys2Proof.Machine.execLop3 g lut d a b s
  | .shl g t d a b => Sys2Proof.Machine.execShl g t d a b s
  | .shr g t d a b => Sys2Proof.Machine.execShr g t d a b s
  | .sar g t d a b => Sys2Proof.Machine.execSar g t d a b s
  | .fshl g clamp d a b c => Sys2Proof.Machine.execFshl g clamp d a b c s
  | .fshr g clamp d a b c => Sys2Proof.Machine.execFshr g clamp d a b c s
  | .bfe g t d a f => Sys2Proof.Machine.execBfe g t d a f s
  | .bfi g t d a b f => Sys2Proof.Machine.execBfi g t d a b f s
  | .popc g t d a => Sys2Proof.Machine.execPopc g t d a s
  | .clz g t d a => Sys2Proof.Machine.execClz g t d a s
  | .brev g t d a => Sys2Proof.Machine.execBrev g t d a s
  | .icmp g c t p a b => Sys2Proof.Machine.execIcmp g c t p a b s
  | .sel g t d a b p => Sys2Proof.Machine.execSel g t d a b p s
  | .mov g t d a => Sys2Proof.Machine.execMov g t d a s
  | .movi g t d imm => Sys2Proof.Machine.execMovi g t d imm s
  | .lea g t d a b sh => Sys2Proof.Machine.execLea g t d a b sh s
  | .vrd g d a => Sys2Proof.Machine.execVrd g d a s
  | .vwr g a b => Sys2Proof.Machine.execVwr g a b s
  -- Floating-point and special-function instructions
  | .fadd g rm d a b => Sys2Proof.Machine.execFadd g rm d a b s
  | .fsub g rm d a b => Sys2Proof.Machine.execFsub g rm d a b s
  | .fmul g rm d a b => Sys2Proof.Machine.execFmul g rm d a b s
  | .ffma g rm d a b c => Sys2Proof.Machine.execFfma g rm d a b c s
  | .fmin g prop d a b => Sys2Proof.Machine.execFmin g prop d a b s
  | .fmax g prop d a b => Sys2Proof.Machine.execFmax g prop d a b s
  | .fcmp g c p a b => Sys2Proof.Machine.execFcmp g c p a b s
  | .fclass g t d a => Sys2Proof.Machine.execFclass g t d a s
  | .frnd g rm d a => Sys2Proof.Machine.execFrnd g rm d a s
  | .fscale g rm d a b => Sys2Proof.Machine.execFscale g rm d a b s
  | .hadd2 g t rm sat d a b => Sys2Proof.Machine.execHadd2 g t rm sat d a b s
  | .hmul2 g t rm sat d a b => Sys2Proof.Machine.execHmul2 g t rm sat d a b s
  | .hfma2 g t rm sat d a b c => Sys2Proof.Machine.execHfma2 g t rm sat d a b c s
  | .cmul g rm d a b => Sys2Proof.Machine.execCmul g rm d a b s
  | .cfma g rm d a b c => Sys2Proof.Machine.execCfma g rm d a b c s
  | .rcp g l rm d a => Sys2Proof.Machine.execRcp g l rm d a s
  | .rsq g l rm d a => Sys2Proof.Machine.execRsq g l rm d a s
  | .sqrt g l rm d a => Sys2Proof.Machine.execSqrt g l rm d a s
  | .exp2 g l rm d a => Sys2Proof.Machine.execExp2 g l rm d a s
  | .log2 g l rm d a => Sys2Proof.Machine.execLog2 g l rm d a s
  | .sinpi g l rm d a => Sys2Proof.Machine.execSinpi g l rm d a s
  | .cospi g l rm d a => Sys2Proof.Machine.execCospi g l rm d a s
  | .sincospi g l rm d a => Sys2Proof.Machine.execSincospi g l rm d a s
  | .tanh g l rm d a => Sys2Proof.Machine.execTanh g l rm d a s
  | .cvt g l t src rm sat d a => Sys2Proof.Machine.execCvt g l t src rm sat d a s
  | .pack g l t src rm sat h d a b => Sys2Proof.Machine.execPack g l t src rm sat h d a b s
  | .unpack g l t src e d a => Sys2Proof.Machine.execUnpack g l t src e d a s
  -- Control, masks, cross-lane, traps and system
  | .bra g off => Sys2Proof.Machine.execBra g off s
  | .brx g a => Sys2Proof.Machine.execBrx g a s
  | .call g d off => Sys2Proof.Machine.execCall g d off s
  | .ret g a => Sys2Proof.Machine.execRet g a s
  | .exit g => Sys2Proof.Machine.execExit g s
  | .join g m => Sys2Proof.Machine.execJoin g m s
  | .leave g m => Sys2Proof.Machine.execLeave g m s
  | .waitm g m lv => Sys2Proof.Machine.execWaitm g m lv s
  | .mset g m a => Sys2Proof.Machine.execMset g m a s
  | .mop g op d a b => Sys2Proof.Machine.execMop g op d a b s
  | .mget g d m => Sys2Proof.Machine.execMget g d m s
  | .ballot g l inv d p => Sys2Proof.Machine.execBallot g l inv d p s
  | .vote g l op pd ps => Sys2Proof.Machine.execVote g l op pd ps s
  | .matchLanes g l t d a => Sys2Proof.Machine.execMatch g l t d a s
  | .shfl g l op logw d a b => Sys2Proof.Machine.execShfl g l op logw d a b s
  | .redux g l op t rm d a => Sys2Proof.Machine.execRedux g l op t rm d a s
  | .scan g l op t excl rm d a => Sys2Proof.Machine.execScan g l op t excl rm d a s
  | .trap g code => Sys2Proof.Machine.execTrap g code s
  | .tret g => Sys2Proof.Machine.execTret g s
  | .bkpt g => Sys2Proof.Machine.execBkpt g s
  | .srd g r d => Sys2Proof.Machine.execSrd g r d s
  | .swr g r b => Sys2Proof.Machine.execSwr g r b s
  | .nop g => Sys2Proof.Machine.execNop g s
  | .yield g => Sys2Proof.Machine.execYield g s
  | .pdone g => Sys2Proof.Machine.execPdone g s
  | .fetchb g wide => Sys2Proof.Machine.execFetchb g wide s
  | .icinv g all a => Sys2Proof.Machine.execIcinv g all a s
  -- Memory, atomic and fence instructions
  | .ld g l sz rt sc fe d a off => Sys2Proof.Machine.execLd g l sz rt sc fe d a off s
  | .st g l sz rt sc fe d a off => Sys2Proof.Machine.execSt g l sz rt sc fe d a off s
  | .lds g l sz fe d a off => Sys2Proof.Machine.execLds g l sz fe d a off s
  | .sts g l sz fe d a off => Sys2Proof.Machine.execSts g l sz fe d a off s
  | .ldc g l sz fe d a off => Sys2Proof.Machine.execLdc g l sz fe d a off s
  | .stc g l sz fe d a off => Sys2Proof.Machine.execStc g l sz fe d a off s
  | .ldp g l sz fe d a off => Sys2Proof.Machine.execLdp g l sz fe d a off s
  | .stp g l sz fe d a off => Sys2Proof.Machine.execStp g l sz fe d a off s
  | .atom g l op sz sc d a b => Sys2Proof.Machine.execAtom g l op sz sc d a b s
  | .atoms g l op sz d a b => Sys2Proof.Machine.execAtoms g l op sz d a b s
  | .red g l op sz sc a b => Sys2Proof.Machine.execRed g l op sz sc a b s
  | .fence g op sc => Sys2Proof.Machine.execFence g op sc s
  | .cctl g l op sc a off => Sys2Proof.Machine.execCctl g l op sc a off s
  | .pref g l l2 rt sc a off => Sys2Proof.Machine.execPref g l l2 rt sc a off s
  | .ldPriv g l d a off => Sys2Proof.Machine.execLdPriv g l d a off s
  | .stPriv g l d a off => Sys2Proof.Machine.execStPriv g l d a off s
  | .popq g l d q => Sys2Proof.Machine.execPopq g l d q s
  | .pushq g l q a => Sys2Proof.Machine.execPushq g l q a s
  -- Matrix and stream accumulator instructions
  | .tfetch l rt sc pin a b => Sys2Proof.Machine.execTfetch l rt sc pin a b s
  | .trel l all pin => Sys2Proof.Machine.execTrel l all pin s
  | .mmaBf16 l z zd a b => Sys2Proof.Machine.execMmaBf16 l z zd a b s
  | .mmaF16 l z zd a b => Sys2Proof.Machine.execMmaF16 l z zd a b s
  | .mmaF32 l z zd a b => Sys2Proof.Machine.execMmaF32 l z zd a b s
  | .mmacCf32 l z zd a b => Sys2Proof.Machine.execMmacCf32 l z zd a b s
  | .mmasE4m3E4m3 l z zd a b sel vw => Sys2Proof.Machine.execMmasE4m3E4m3 l z zd a b sel vw s
  | .mmasE4m3E5m2 l z zd a b sel vw => Sys2Proof.Machine.execMmasE4m3E5m2 l z zd a b sel vw s
  | .mmasE5m2E4m3 l z zd a b sel vw => Sys2Proof.Machine.execMmasE5m2E4m3 l z zd a b sel vw s
  | .mmasE5m2E5m2 l z zd a b sel vw => Sys2Proof.Machine.execMmasE5m2E5m2 l z zd a b sel vw s
  | .zclr l zd => Sys2Proof.Machine.execZclr l zd s
  | .zld l space rt sc zd a b => Sys2Proof.Machine.execZld l space rt sc zd a b s
  | .zst l space rt sc zd a b => Sys2Proof.Machine.execZst l space rt sc zd a b s
  | .zdrain l m zd a b c => Sys2Proof.Machine.execZdrain l m zd a b c s
  | .saalloc l tiles st res par => Sys2Proof.Machine.execSaalloc l tiles st res par s
  | .safree l tiles st h => Sys2Proof.Machine.execSafree l tiles st h s
  | .saadd l fmt spc rel sc st h r src => Sys2Proof.Machine.execSaadd l fmt spc rel sc st h r src s
  | .saread l layer fmt spc acq sc e h r dst => Sys2Proof.Machine.execSaread l layer fmt spc acq sc e h r dst s
  | .sawait l st h r => Sys2Proof.Machine.execSawait l st h r s
  | .saseal l st h r => Sys2Proof.Machine.execSaseal l st h r s
  | .saevict l narrow st h r img => Sys2Proof.Machine.execSaevict l narrow st h r img s
  | .saload l st h r img => Sys2Proof.Machine.execSaload l st h r img s
  -- Sequencer, queue, engine and route instructions
  | .smov op d a => Sys2Proof.Machine.execSmov op d a s
  | .smovi op d imm => Sys2Proof.Machine.execSmovi op d imm s
  | .sadd d a b => Sys2Proof.Machine.execSadd d a b s
  | .ssub d a b => Sys2Proof.Machine.execSsub d a b s
  | .smul d a b => Sys2Proof.Machine.execSmul d a b s
  | .sand d a b => Sys2Proof.Machine.execSand d a b s
  | .sor d a b => Sys2Proof.Machine.execSor d a b s
  | .sxor d a b => Sys2Proof.Machine.execSxor d a b s
  | .sshl d a b => Sys2Proof.Machine.execSshl d a b s
  | .sshr arith d a b => Sys2Proof.Machine.execSshr arith d a b s
  | .scmp c d a b => Sys2Proof.Machine.execScmp c d a b s
  | .sbra op a off => Sys2Proof.Machine.execSbra op a off s
  | .sld l sz rt sc d a off => Sys2Proof.Machine.execSld l sz rt sc d a off s
  | .sst l sz rt sc a b off => Sys2Proof.Machine.execSst l sz rt sc a b off s
  | .sexit => Sys2Proof.Machine.execSexit s
  | .adef part k a b => Sys2Proof.Machine.execAdef part k a b s
  | .astep op k d n => Sys2Proof.Machine.execAstep op k d n s
  | .ldq l form tk rt sc q gen tag => Sys2Proof.Machine.execLdq l form tk rt sc q gen tag s
  | .stq l form fl rt sc q gen sel => Sys2Proof.Machine.execStq l form fl rt sc q gen sel s
  | .qpush l iota q a b tag => Sys2Proof.Machine.execQpush l iota q a b tag s
  | .qpop l d q sel j => Sys2Proof.Machine.execQpop l d q sel j s
  | .bara exp k a => Sys2Proof.Machine.execBara exp k a s
  | .barw k => Sys2Proof.Machine.execBarw k s
  | .chain l a slot => Sys2Proof.Machine.execChain l a slot s
  | .cwait l all d slot => Sys2Proof.Machine.execCwait l all d slot s
  | .coll l a slot => Sys2Proof.Machine.execColl l a slot s
  | .ctwait l d slot => Sys2Proof.Machine.execCtwait l d slot s
  | .redc l spad n a b c => Sys2Proof.Machine.execRedc l spad n a b c s
  | .launch l d a => Sys2Proof.Machine.execLaunch l d a s
  | .rqpush l d a b c q sel => Sys2Proof.Machine.execRqpush l d a b c q sel s
  | .rqpop l free d a => Sys2Proof.Machine.execRqpop l free d a s
  | .announce l replica locked d a b len => Sys2Proof.Machine.execAnnounce l replica locked d a b len s
  | .withdraw l d a b len => Sys2Proof.Machine.execWithdraw l d a b len s
  | .replicate l d a b len => Sys2Proof.Machine.execReplicate l d a b len s
  | .migrate l d a b len => Sys2Proof.Machine.execMigrate l d a b len s
  | .rfence l sc d a => Sys2Proof.Machine.execRfence l sc d a s
  | .fenceSequencer l op sc => Sys2Proof.Machine.execFenceSequencer l op sc s
  | .trapSequencer code => Sys2Proof.Machine.execTrapSequencer code s
  | .tretSequencer => Sys2Proof.Machine.execTretSequencer s
  | .pdoneSequencer => Sys2Proof.Machine.execPdoneSequencer s
  -- One more event of the machine itself
  | .illegal => Sys2Proof.Machine.execIllegal s
  -- Events that only the world outside the machine, or its clocks, start: no step of the model makes one
  | .powerOn env => Sys2Proof.Machine.execPowerOn env s
  | .sublinkFailure edge sub => Sys2Proof.Machine.execSublinkFailure edge sub s
  | .flitReplay port attempts => Sys2Proof.Machine.execFlitReplay port attempts s
  | .deviceNumberConflict port => Sys2Proof.Machine.execDeviceNumberConflict port s
  | .thermalStepDown die => Sys2Proof.Machine.execThermalStepDown die s
  | .junction110 die => Sys2Proof.Machine.execJunction110 die s
  | .thermalPowerDown die => Sys2Proof.Machine.execThermalPowerDown die s
  | .powerLimitStep watts => Sys2Proof.Machine.execPowerLimitStep watts s
  | .frequencyChange island mhz mv => Sys2Proof.Machine.execFrequencyChange island mhz mv s
  | .getVersion => Sys2Proof.Machine.execGetVersion s
  | .getCapabilities => Sys2Proof.Machine.execGetCapabilities s
  | .negotiateAlgorithms => Sys2Proof.Machine.execNegotiateAlgorithms s
  | .getDigests => Sys2Proof.Machine.execGetDigests s
  | .getCertificate offset length => Sys2Proof.Machine.execGetCertificate offset length s
  | .challenge nonce => Sys2Proof.Machine.execChallenge nonce s
  | .getMeasurements req => Sys2Proof.Machine.execGetMeasurements req s
  | .notReadyResponse access => Sys2Proof.Machine.execNotReadyResponse access s
  | .registerWrite fn off val => Sys2Proof.Machine.execRegisterWrite fn off val s
  | .bootclrWrite fn val => Sys2Proof.Machine.execBootclrWrite fn val s
  | .nrdycntWrite fn val => Sys2Proof.Machine.execNrdycntWrite fn val s
  | .hosterrWrite fn val => Sys2Proof.Machine.execHosterrWrite fn val s
  | .mbxRingBaseWrite fn off val => Sys2Proof.Machine.execMbxRingBaseWrite fn off val s
  | .mbxtail fn val => Sys2Proof.Machine.execMbxtail fn val s
  | .mbxvec fn val => Sys2Proof.Machine.execMbxvec fn val s
  | .errvec fn val => Sys2Proof.Machine.execErrvec fn val s
  | .hostAccessDiscarded fn isWrite => Sys2Proof.Machine.execHostAccessDiscarded fn isWrite s
  | .bar4Access fn win off acc => Sys2Proof.Machine.execBar4Access fn win off acc s
  | .qtail fn win val => Sys2Proof.Machine.execQtail fn win val s
  | .functionLevelReset fn => Sys2Proof.Machine.execFunctionLevelReset fn s
  | .waitValueReevaluate q => Sys2Proof.Machine.execWaitValueReevaluate q s
  | .waitto q => Sys2Proof.Machine.execWaitto q s
  | .holdTimeout req => Sys2Proof.Machine.execHoldTimeout req s
  | .recostRefresh eng => Sys2Proof.Machine.execRecostRefresh eng s
  | .retiredRecordExpiry eng pfx len holder => Sys2Proof.Machine.execRetiredRecordExpiry eng pfx len holder s
  | .lockAckTimeout line holder => Sys2Proof.Machine.execLockAckTimeout line holder s
  | .eccCorrection loc => Sys2Proof.Machine.execEccCorrection loc s
  | .correctionMergeFlush loc => Sys2Proof.Machine.execCorrectionMergeFlush loc s
  | .uncorrectableError loc dirty => Sys2Proof.Machine.execUncorrectableError loc dirty s
  | .deadlineExpiry cluster => Sys2Proof.Machine.execDeadlineExpiry cluster s
  | .blockStall uid => Sys2Proof.Machine.execBlockStall uid s
  | .flushTimerExpiry node => Sys2Proof.Machine.execFlushTimerExpiry node s
  | .issueGroupRegroup die core quadrant => Sys2Proof.Machine.execIssueGroupRegroup die core quadrant s
  | .l1Eviction die core line => Sys2Proof.Machine.execL1Eviction die core line s
  | .collectiveTimeout key rank => Sys2Proof.Machine.execCollectiveTimeout key rank s
  | .condReevaluate uid slot expired => Sys2Proof.Machine.execCondReevaluate uid slot expired s
  | .powerLoss torn => Sys2Proof.Machine.execPowerLoss torn s
  | .channelResume stack channel => Sys2Proof.Machine.execChannelResume stack channel s

end Sys2Proof.Machine
end

