-- ==== Sys2Proof/Machine/Next.lean ====
section
/-! DEFINITION. The choice of what happens next (R137, R139, R244): events that are due, streams that can issue, and engines
that can move on. -/

namespace Sys2Proof.Machine

open Sys2Proof

/-! ### Units

What can be tried again at any time are units of their own behind the cores' units: chains and completions of a block at
2^20 + block * 32, and above 2^40 the memory processor, the dispatcher and the engines, by what they work on. -/

/-- Engine work of a block that can be tried at any time: running chains, and the block's completion. -/
def State.polls (s : State) (uid : Nat) (b : Block) : List Ready :=
  ((b.chains.filter fun kv => !kv.2.waits).filterMap fun kv => (s.chainEvent uid kv.1).map fun i => ⟨2 ^ 20 + uid * 32 + kv.1, 0, false, .event i⟩) ++
  if s.blockDone uid b then [⟨2 ^ 20 + uid * 32 + 16, 0, false, .event (.blockCompletion uid)⟩] else []

/-- A unit of the package. -/
def pkgUnit (kind k : Nat) (i : Instr) : Ready := ⟨2 ^ 40 * (kind + 1) + k, 0, false, .event i⟩

/-- R90: requests whose service has still to begin, and can: what it announces needs an entry (R37). -/
def State.serviceDue (s : State) (r : Req) : Bool :=
  (s.entriesLeft 1 || r.why == .cow || s.hopeless r) &&
  match r.why with
  | .unrouted => (List.range 9).all fun k => ((s.engine k).longest r.ra).isEmpty
  | .regen => match s.regenHandle r.die r.ra with
    | some h => (match tget? s.regens h with | some x => x.grid.isNone | none => false)
    | none => false
  | .promote => !s.rops.any fun kv => kv.2.kind == .migrate && kv.2.pfx == r.ra / 2 ^ 14 && kv.2.len == 42
  | .cow => r.sd.isNone
  | _ => false

/-- R100: whether the oldest record of a context can be written or dropped now. -/
def State.recordDue (s : State) (x : Ctx) : Bool :=
  match x.eqHeld with
  | [] => false
  | r :: _ => !r.keep || s.hostRd x.eqSlot 1 == [0]

/-- R63: the event that serves a mailbox request. -/
def requestEvent (fn idx : Nat) (rq : BitVec 512) : Instr :=
  if rqField rq 1 3 ≠ 0 then .badop fn idx rq
  else match rqField rq 0 1 with
    | 1 => .ctxnew fn idx rq
    | 2 => .ctxfree fn idx rq
    | 3 => .grant fn idx rq
    | 4 => .revoke fn idx rq
    | 5 => .xlate fn idx rq
    | 6 => .winmap fn idx rq
    | 7 => .winunmap fn idx rq
    | 8 => .qnew fn idx rq
    | 9 => .qdestroy fn idx rq
    | 10 => .qabort fn idx rq
    | 11 => .vfcfg fn idx rq
    | 12 => .pwrlim fn idx rq
    | _ => .badop fn idx rq

/-- What the package's own agents can do: one unit each, so that none holds another up. -/
def State.pkgPolls (s : State) : List Ready :=
  (s.ops.filterMap fun kv =>
    if kv.2.retry && (match s.block? kv.2.uid with | some b => b.goesOn kv.2.fin | none => true)
    then some (pkgUnit 0 kv.1 (.longLatencyCompletion kv.1)) else none) ++
  (s.contribs.map fun kv => pkgUnit 1 kv.1 (.redcContribution kv.1)) ++
  (s.colls.filterMap fun kv =>
    if kv.2.npart ≤ kv.2.parts.length then some (pkgUnit 2 kv.1 (.collectiveCompletion kv.1)) else none) ++
  (s.graphs.flatMap fun kv => kv.2.nodes.filterMap fun nk =>
    if nk.2.pfWant || nk.2.ctlWant || (s.findPush [] s.pushes).any (fun x => x.2.1.graph == kv.1 && x.2.1.node == nk.1) then some (pkgUnit 3 (nodeKey kv.1 nk.1) (.recordCountedFilled (nodeKey kv.1 nk.1) (nk.2.head + nk.2.filled)))
    else none) ++
  (s.reqs.filterMap fun kv => if s.serviceDue kv.2 then (heldEvent kv.1 kv.2.why).head?.map (pkgUnit 4 kv.1) else none) ++
  (s.shoots.flatMap fun kv => kv.2.dies.map fun d => pkgUnit 5 (kv.1 * 16 + d) (.shootDown d kv.1)) ++
  (s.ctxs.filterMap fun kv => if s.recordDue kv.2 then some (pkgUnit 6 kv.1 (.errorRecordWrite kv.1)) else none) ++
  (s.ctxs.filterMap fun kv => match kv.2.freeing with
    | some (fn, i) => if i = resetIdx then some (pkgUnit 7 kv.1 (.ctxfree fn i 0)) else none
    | none => none) ++
  (s.fns.filterMap fun kv => (s.pendingRequest kv.1).map fun r => pkgUnit 8 kv.1 (requestEvent kv.1 r.1 r.2)) ++
  (s.queues.flatMap fun kv => (s.queueEvents kv.1 kv.2).zipIdx.map fun e => pkgUnit 9 (kv.1 * 2 ^ 18 + e.2) e.1) ++
  (if (s.queues.any fun kv => !kv.2.work.isEmpty) || s.saveDue.isSome then
    (if s.decision.isSome then [pkgUnit 10 0 .dispatchDecision] else []) else [])

/-- Everything that can be taken now. -/
def State.ready (s : State) : List Ready :=
  s.chosen (unyielded (s.unbroken (s.blocks.flatMap fun kv => s.readyOf kv.1 kv.2))) ++ (s.blocks.flatMap fun kv => s.polls kv.1 kv.2) ++ s.pkgPolls

/-- A timer, as a unit behind all others. -/
def timerUnit (kind k : Nat) (t : Timer) : Ready := ⟨2 ^ 60 * (kind + 1) + k, 0, false, .timer t⟩

/-- R75: a wait that is evaluated, and does not hold, in a queue. -/
def Queue.waiting (x : Queue) : Option Pkt :=
  match x.hold.bind (tget? x.pkts) with
  | some p => if p.started && !p.finished && !p.due then some p else none
  | none => none

/-- R40, R47, R75, R102, R109, R119, R124, R127, R350, R352: the timers that are running. A deadline is not up before a warp has taken the
pre-emption trap that it can take at once (R126, R392). -/
def State.timers (s : State) : List Ready :=
  (s.queues.filterMap fun kv => kv.2.waiting.map fun _ => timerUnit 0 kv.1 (.reevaluate kv.1)) ++
  (s.graphs.flatMap fun kv => kv.2.nodes.filterMap fun nk =>
    if nk.2.kind == 2 && !nk.2.done && nk.2.armed then some (timerUnit 1 (nodeKey kv.1 nk.1) (.flush (nodeKey kv.1 nk.1))) else none) ++
  (s.blocks.filterMap fun kv => if s.stalled kv.1 kv.2 then some (timerUnit 2 kv.1 (.stall kv.1)) else none) ++
  (s.blocks.flatMap fun kv => (kv.2.chains.filter fun ch => ch.2.running && ch.2.waits).map fun ch =>
    timerUnit 3 (kv.1 * 32 + ch.1) (.cond kv.1 ch.1 false)) ++
  (s.merges.map fun m => timerUnit 4 (m.loc.addr + m.loc.channel) (.merge m.loc)) ++
  (s.chans.filterMap fun kv => if kv.2.paused then some (timerUnit 5 kv.1 (.resume (kv.1 / 64) (kv.1 % 64))) else none) ++
  (s.blocks.filterMap fun kv =>
    if kv.2.preempt && kv.2.home.isSome && kv.2.saving.isNone && !(kv.2.warps.any fun w => s.warpPreempts kv.1 w.1 w.2) then some (timerUnit 6 kv.2.cluster (.deadline kv.2.cluster)) else none) ++
  (s.locks.flatMap fun kv => (kv.2.acks.filter fun h => !s.paused h (kv.1 * 128)).map fun h => timerUnit 7 (kv.1 * 2 ^ 17 + h) (.ack kv.1 h)) ++
  (s.reqs.filterMap fun kv => if s.holdRuns kv.2 then some (timerUnit 8 kv.1 (.hold kv.1)) else none) ++
  (s.queues.filterMap fun kv => kv.2.waiting.bind fun p =>
    if p.kind == 3 && (p.word 4).toNat / 2 ^ 32 != 0 then some (timerUnit 9 kv.1 (.waitto kv.1)) else none) ++
  (s.blocks.flatMap fun kv => (kv.2.chains.filter fun ch => ch.2.running && ch.2.waits).map fun ch =>
    timerUnit 10 (kv.1 * 32 + ch.1) (.cond kv.1 ch.1 true)) ++
  (s.colls.flatMap fun kv => (kv.2.parts.filter fun p => kv.2.outcome.isNone && decide (kv.2.parts.length < kv.2.npart) && p.timeout != 0).map
    fun p => timerUnit 11 (kv.1 * 2 ^ 17 + p.rank) (.collective kv.1 p.rank))

/-- R44, R149, R156, R397: what may happen at any time: refreshed costs, expired records, evicted lines, stores that their banks take. -/
def State.whims (s : State) : List Pick :=
  ((List.range 9).map fun k => Pick.timer (.refresh k)) ++
  ((List.range 9).flatMap fun k => (s.engine k).retired.map fun r => Pick.timer (.forget k r.pfx r.len r.holder)) ++
  (s.cores.flatMap fun kv => kv.2.l1.map fun ln => Pick.timer (.evict (kv.1 / 128) (kv.1 % 128) ln.1)) ++
  s.padOut.map fun x => Pick.timer (.land x.gr)

/-- A timer that has run out. -/
def State.fire (s : State) : Timer → Out
  | .reevaluate q => execWaitValueReevaluate q s
  | .waitto q => execWaitto q s
  | .flush node => execFlushTimerExpiry node s
  | .stall uid => execBlockStall uid s
  | .deadline cl => execDeadlineExpiry cl s
  | .collective key rank => execCollectiveTimeout key rank s
  | .cond uid slot expired => execCondReevaluate uid slot expired s
  | .hold req => execHoldTimeout req s
  | .ack line holder => execLockAckTimeout line holder s
  | .merge loc => execCorrectionMergeFlush loc s
  | .resume st ch => execChannelResume st ch s
  | .refresh eng => execRecostRefresh eng s
  | .forget eng pfx len holder => execRetiredRecordExpiry eng pfx len holder s
  | .evict die core line => execL1Eviction die core line s
  | .land gr => .next (s.landPads fun x => some x == s.padOut.find? fun y => y.gr == gr)

/-- Whether a stream goes on. -/
def Pick.streams : Pick → Bool
  | .word .. | .fetch .. | .arrive .. | .start .. => true
  | .event _ | .timer _ => false

/-- R137, R139: the next unit after the last one served, and in it the slot after the last one. -/
def State.turnOf (s : State) (rs : List Ready) : Option Ready :=
  match following Ready.unit s.lastUnit rs with
  | none => none
  | some r => following Ready.slot (tgetD s.lastSlots r.unit 64) (rs.filter fun x => x.unit == r.unit)

/-- The next turn. Timers run out in it while no stream can go on, and one of them when streams have had as many turns as
`Config.patience` says since the last. -/
def State.turn (s : State) : Option Ready :=
  let now := s.ready
  if now.any fun r => r.pick.streams then
    match if Config.patience ≤ s.turns then following Ready.unit s.lastTimer s.timers else none with
    | some t => some t
    | none => s.turnOf now
  else s.turnOf (now ++ s.timers)

/-- R240, R242, R259: the instruction that a clause's next word is; ILLEGAL where it is none of the clause's class. -/
def instrOf (sq : Bool) (r : Run) : Instr :=
  if opClass sq (fld r.word.toNat 54 10) = some r.cls then
    match decode sq r.word with
    | .ok i => i
    | .error _ => .illegal
  else .illegal

/-- The instruction that a stream stands at. -/
def State.instrAt (s : State) (uid : Nat) (st : Stream) : Option Instr :=
  match s.block? uid with
  | none => none
  | some b =>
    if !b.active || s.coreOut b then none
    else match st with
      | .warp w =>
        match tget? b.warps w with
        | some wp => if wp.suspended || wp.pdone.isSome then none else (s.warpRun wp).map (instrOf false)
        | none => none
      | .seq =>
        if b.seq.suspended || b.seq.pdone || b.seq.trap.isSome || b.seq.sexit || s.pushHeld uid b then none
        else match b.seq.run with
          | some r => if r.open then some (instrOf true r) else none
          | none => none

/-- What a step does: a row of the opcode table run by `exec`, or a timer. -/
inductive Todo where
  | instr (i : Instr)
  | timer (t : Timer)
  deriving DecidableEq, Repr

/-- R137: the stream that has been issuing stays under way in its quadrant, whatever is taken next. -/
def State.setAside (s : State) : State :=
  match s.cur with
  | some (uid, st) => (match s.block? uid with
    | some b => { s with underway := tset s.underway (b.unit st) (uid, st), cur := none }
    | none => { s with cur := none })
  | none => s
/-- R137: a stream's quadrant taken for its own clause. -/
def State.takeUnit (s : State) (uid : Nat) (st : Stream) : State :=
  match s.block? uid with
  | some b => { s.setAside with underway := tdel s.setAside.underway (b.unit st) }
  | none => s.setAside

/-- What a pick runs. -/
def State.run (s : State) : Pick → Option Todo × State
  | .event i => (some (.instr i), s)
  | .timer t => (some (.timer t), s)
  | .word uid st => ((s.instrAt uid st).map .instr, { s.takeUnit uid st with cur := some (uid, st) })
  | .fetch uid st l => (some (.instr (.clauseFetch uid st l)), s.setAside)
  | .arrive uid st l => (some (.instr (.clauseStart uid st l)), s.setAside)
  | .start uid st l => (some (.instr (.clauseStart uid st l)), s.takeUnit uid st)

/-- A stream taken in turn. -/
def State.runReady (s : State) (r : Ready) : Option Todo × State :=
  match r.pick with
  | .timer t => ({ s with lastUnit := r.unit, lastTimer := r.unit, turns := 0 }).run (.timer t)
  | p => ({ s with lastUnit := r.unit, lastSlots := tset s.lastSlots r.unit r.slot, turns := s.turns + 1 }).run p

/-- All events due: the agenda, and those that the blocks', the routes' and the faults' states make due. -/
def State.derived (s : State) : List Instr := (s.blocks.flatMap fun kv => s.blockEvents kv.1 kv.2) ++ s.routeEvents ++ s.faultEvents

/-- What is taken in turn, where there is something. -/
def State.nextTurn (s : State) : Option Todo × State := match s.turn with | some r => s.runReady r | none => (none, s)

/-- What happens next. With an empty schedule: stores that banks have still to take; the events due, oldest first; then the clause under
way; then the streams in turn (R137), and timers while no stream can go on. A schedule picks freely among all of them and what may happen
at any time, one entry for each step. -/
def State.nextTodo (s : State) : Option Todo × State :=
  match s.schedule with
  | [] =>
    match s.padOut with
    | x :: _ => (some (.timer (.land x.gr)), s)
    | [] =>
      match s.agenda with
      | i :: rest => (some (.instr i), { s with agenda := rest })
      | [] =>
        match s.derived with
        | i :: _ => (some (.instr i), s)
        | [] =>
          match s.cur with
          | some (uid, st) =>
            match s.instrAt uid st with
            | some i => (some (.instr i), s)
            | none => s.nextTurn
          | none => s.nextTurn
  | n :: rest =>
    let s := { s with schedule := rest }
    let na := s.agenda.length
    let all := s.derived.map Pick.event ++ s.ready.map Ready.pick ++ s.timers.map Ready.pick ++ s.whims
    let k := n % (na + all.length)
    if na + all.length = 0 then (none, s)
    else if k < na then (s.agenda[k]?.map .instr, { s with agenda := s.agenda.eraseIdx k })
    else match all[k - na]? with
      | some p => s.run p
      | none => (none, s)

end Sys2Proof.Machine
end

