-- ==== Sys2Proof/Machine/Step.lean ====
section
/-! DEFINITION. One step of the machine: the next thing that happens (`State.nextTodo`), run by `exec` or, a timer, by the meaning of
its row; with nothing to do the machine stays as it is. -/

namespace Sys2Proof.Machine

open Sys2Proof

/-- One step. -/
def step (s : State) : Host.Outcome State Fault Refusal :=
  match s.nextTodo with
  | (some (.instr i), s') => exec i s'
  | (some (.timer t), s') => s'.fire t
  | (none, s') => .next s'

/-- The state whose next step runs the instruction whose bits are `w` (R232: a code word is 64 bits). -/
def State.withFetchWord (s : State) (nbits w : Nat) : State := s.withWord (BitVec.ofNat 64 (w % 2 ^ nbits))

end Sys2Proof.Machine
end

