-- ==== Sys2Proof/Machine/Frames.lean ====
section
/-! DEFINITION. The layout of a save frame (R128, R129, R142, R143): the bytes that the memory processor keeps, in memory that no program
can address, of a block that has been saved. The model keeps the contents as the block's own state and its `Frame`; these are views. -/

namespace Sys2Proof.Machine

open Sys2Proof

/-! ### Pieces of a layout -/

/-- A section: its bytes and zeros up to a multiple of 256. -/
def section256 (bs : List Byte) : List Byte := bs ++ List.replicate ((256 - bs.length % 256) % 256) 0

/-- Bytes at an offset of a structure of `n` bytes that starts with `bs`: zeros stand between. -/
def fillTo (n : Nat) (bs : List Byte) : List Byte := bs ++ List.replicate (n - bs.length) 0

/-- Bits as bytes, the lowest first. -/
def bitBytes (n : Nat) (f : Nat → Bool) : List Byte :=
  (List.range (n / 8)).map fun i => BitVec.ofNat 8 (sumOf (fun j => if f (8 * i + j) then 2 ^ j else 0) (List.range 8))

/-- The flags of a byte, the lowest first. -/
def flagByte (fs : List Bool) : Byte := BitVec.ofNat 8 (sumOf (fun x => if x.1 then 2 ^ x.2 else 0) fs.zipIdx)

/-! ### Header -/

/-- R90, R129: the held requests of a saved block. -/
def State.heldOf (s : State) (uid : Nat) : List (Nat × Req) :=
  s.reqs.filter fun kv => kv.2.noted && kv.2.why != .cow && match kv.2.agent with
    | .stream u _ | .engine u | .chain u => u == uid
    | .host _ | .mp _ => false

/-- R129: the frame header. -/
def frameHeader (b : Block) (f : Frame) (held : Nat) : List Byte :=
  fillTo 256 <|
    natLe 4 0x53460001 ++ natLe 2 b.ctx ++ natLe 1 f.reason ++ natLe 1 b.rcd.warps ++ natLe 1 b.rcd.vregs ++ natLe 1 b.rcd.ztiles ++
    natLe 1 b.rcd.cblocks ++ natLe 1 0 ++ natLe 4 b.rcd.scratch ++ natLe 4 held ++ natLe 4 0 ++ natLe 8 b.rcd.lrec.toNat ++
    natLe 4 f.dleft ++ natLe 4 0 ++ natLe 8 b.blockid

/-! ### Streams -/

/-- R129: the pc of a thread in a frame: where it resumes. -/
def Warp.framePc (w : Warp) (l : Nat) : W64 :=
  match w.runs.find? fun r => bit r.mask l && !r.done with
  | some r => r.va
  | none => w.pcOf l

/-- R129, R309: the threads that a handler holds at a boundary until its TRET. -/
def Warp.heldThreads (w : Warp) : W32 :=
  match w.handler with
  | some h => ~~~w.exited &&& ~~~h.entered
  | none => 0

/-- R129: a warp state. -/
def warpState (w : Warp) : List Byte :=
  fillTo 1024 <|
    ((List.range 32).flatMap fun l => natLe 8 (w.framePc l).toNat) ++
    ((List.range 32).flatMap fun l => natLe 8 (w.tpcOf l).toNat) ++
    natLe 4 w.tmask.toNat ++ natLe 4 w.tcause.toNat ++ natLe 4 w.tdst.toNat ++
    [flagByte [w.handler.any fun h => !h.pre, w.handler.any fun h => h.pre, w.suspended, w.exited == BitVec.allOnes 32], 0, 0, 0] ++
    natLe 4 w.exited.toNat ++ natLe 4 w.heldThreads.toNat ++
    ((List.range 12).flatMap fun k => natLe 4 (w.mask k).toNat) ++
    ((List.range 32).map fun l => flagByte ((List.range 8).map fun p => w.pred p l)) ++
    ((List.range 32).map fun l => w.flagsOf l) ++
    natLe 4 w.stklim.toNat ++ (List.range 8).map fun k => BitVec.ofNat 8 (w.ctrOf k)

/-- R140: a generator's forty bytes: bits [63:0], the extents, the strides and the base, each from dimension 0 upwards. -/
def Gen.image (g : Gen) : List Byte :=
  natLe 8 g.word.toNat ++ ((List.range 4).flatMap fun j => natLe 2 (g.ext.getD j 0).toNat) ++
  ((List.range 4).flatMap fun j => natLe 4 (g.stride.getD j 0).toNat) ++ natLe 8 g.base.toNat

/-- R129: the sequencer section. Its pending statuses have a form that only the memory processor and the die schedulers read. -/
def seqState (uid : Nat) (q : Seq) : List Byte :=
  let pc := match q.run with | some r => if r.done then q.pc else r.va | none => q.pc
  natLe 8 pc.toNat ++ natLe 8 q.tpc.toNat ++ [flagByte [q.inPre, q.suspended, q.sexit, q.trap.isSome], q.flags] ++ List.replicate 6 0 ++
  ((List.range 8).map fun k => BitVec.ofNat 8 (q.ctrOf k)) ++
  ((List.range 64).flatMap fun k => natLe 8 (tgetD q.s k 0).toNat) ++
  ((List.range 16).flatMap fun k => (q.gen k).image) ++
  (List.range 864).map fun i => Config.frameStatus uid i

/-! ### Queues and barriers -/

/-- R143: a numbered barrier's word: PHASE in bit 31, EXPECT in [21:11], ARRIVED in [10:0]. -/
def Bar.word (x : Bar) : W32 := BitVec.ofNat 32 ((if x.phase then 2 ^ 31 else 0) + x.expect % 2 ^ 11 * 2 ^ 11 + x.arrived % 2 ^ 11)

/-- R141: the entries of a queue, oldest first; an LDQ's becomes one when its data is there. -/
def Block.stored (b : Block) (k : Nat) : List QEntry := (tgetD b.queues k []).filter fun e => e.ready

/-- R142: the pop record of an entry. -/
def QEntry.popWord (e : QEntry) : W32 := if e.tag = 63 then e.popped else 0

/-- R142: the queue section: the entries, then the trailer with tags, counts, heads, barriers and pop records. -/
def queueSection (b : Block) : List Byte :=
  let es := fun (k : Nat) => b.stored k
  ((List.range 8).flatMap fun k => fillTo 2048 ((es k).flatMap fun e => (List.range 32).flatMap fun l => natLe 4 (e.data.getD l 0).toNat)) ++
  ((List.range 8).flatMap fun k => ((es k).map fun e => BitVec.ofNat 8 e.tag) ++ List.replicate (16 - (es k).length) 0xFF) ++
  ((List.range 8).map fun k => BitVec.ofNat 8 (es k).length) ++ List.replicate 8 0 ++
  ((List.range 16).flatMap fun k => natLe 4 (tgetD b.bars k ⟨false, 0, 0⟩).word.toNat) ++ List.replicate 48 0 ++
  (List.range 8).flatMap fun k => fillTo 64 ((es k).flatMap fun e => natLe 4 e.popWord.toNat)

/-! ### The frame -/

/-- R128: the sections of a frame, in order: header, warp states, sequencer, queues, lane registers, tiles (those that the block holds),
scratchpad and its bits; of rank 0 the cluster's chip scratchpad and its bits; held requests. -/
def State.frameSections (s : State) (uid : Nat) (b : Block) (f : Frame) (chip : Nat) : List (List Byte) :=
  let held := s.heldOf uid
  let warps := (List.range b.rcd.warps).filterMap fun w => tget? b.warps w
  let n := if b.rank = 0 then chip else 0
  [frameHeader b f held.length,
   warps.flatMap warpState,
   seqState uid b.seq,
   queueSection b,
   warps.flatMap fun w => (List.range (8 * b.rcd.vregs)).flatMap fun r => (List.range 32).flatMap fun l => natLe 4 (w.reg r l).toNat,
   ((List.range 8).filter fun z => bit b.zheld z).flatMap fun z =>
     (List.range 16384).flatMap fun e => natLe 4 (tgetD b.tiles (tileKey z 0 0 + e) 0).toNat,
   (List.range b.rcd.scratch).map fun i => tgetD f.scratch i 0,
   bitBytes (b.rcd.scratch / 16) fun i => tgetD f.full i false,
   (List.range n).map fun i => tgetD f.chip i 0,
   bitBytes (n / 16) fun i => tgetD f.chipFull i false,
   held.flatMap fun kv => (List.range 64).map fun i => Config.heldImage kv.1 i]

/-- R128: the frame of a saved block. -/
def State.frameImage (s : State) (uid : Nat) : Option (List Byte) :=
  match s.block? uid with
  | none => none
  | some b => b.frame.map fun f =>
    (s.frameSections uid b f (match tget? s.clusters b.cluster with | some c => c.chipSize | none => 0)).flatMap section256

/-- R128: the bytes of each section of a block of a record, with so many tiles and held requests. -/
def frameSizes (r : Rec) (rank tiles held : Nat) : List Nat :=
  let n := if rank = 0 then r.cscratch else 0
  [256, r.warps * 1024, 2048, 17152, r.warps * r.vregs * 1024, tiles * 65536, r.scratch, r.scratch / 128, n, n / 128, held * 64]

/-- R128: the bytes of a frame, each section padded to a multiple of 256. -/
def frameBytes (r : Rec) (rank tiles held : Nat) : Nat := sumOf (fun n => (n + 255) / 256 * 256) (frameSizes r rank tiles held)

end Sys2Proof.Machine
end

