-- ==== Sys2Proof/Safety.lean ====
section
/-! DEFINITION. What a safe run keeps: the canonical form of memory and of the other keyed stores, and what the spec says of
the package's own registers at all times. -/

namespace Sys2Proof.Machine

open Sys2Proof

/-- The canonical form of memory: addresses strictly rising, and no entry equal to what an unlisted address reads as (zero in an
on-chip store; an encrypted store lists exactly the bytes that its owner has written, so every entry says something there). -/
abbrev Memory.wf (m : List Host.Cell) : Prop :=
  twf m = true ∧ (m.all fun kv => encrypted kv.1 || kv.2 != 0) = true

/-- Registers of a warp that hold zero are not listed, so that equal registers are equal data. -/
def Warp.wf (w : Warp) : Bool :=
  twf w.regs && (w.regs.all fun kv => kv.2 != 0) && twf w.preds && twf w.masks && twf w.pc && twf w.ctr && twf w.pend

/-- A run is safe up to `n` steps when no step of it stops. -/
def safeFor : Nat → State → Bool
  | 0, _ => true
  | n + 1, s =>
    match step s with
    | .next s' => safeFor n s'
    | .fault _ => false
    | .refused _ => false

/-! ### Floating-point values -/

/-- R183: the value of a finite code of a format, in units of its smallest subnormal. -/
def unitsOf (t : Fmt) (c : Nat) : Int :=
  match t.decode c with
  | .fin s m e => signed s m * 2 ^ (e - t.qmin).toNat
  | _ => 0

/-- A code of a format whose value is finite. -/
def finiteCode (t : Fmt) (c : Nat) : Bool := decide (c < 2 * t.signBit) && !(t.decode c).isNan && !(t.decode c).isInf

/-- R183: how many units of a format's smallest subnormal are 1. -/
def unitsOfOne (t : Fmt) : Nat := 2 ^ (t.bias + t.f - 1)

/-- R187, R190: the finite code `r` is what `x / d` units of a format round to in a mode: the nearest, with ties to even, or the next
towards zero, up or down. -/
def roundsTo (t : Fmt) (m : Rm) (d : Nat) (x : Int) (r : Nat) : Prop :=
  let u := fun (c : Nat) => (d : Int) * unitsOf t c
  finiteCode t r = true ∧ ∀ c, finiteCode t c = true → match m with
    | .rdn => u r ≤ x ∧ (u c ≤ x → u c ≤ u r)
    | .rup => x ≤ u r ∧ (x ≤ u c → u r ≤ u c)
    | .rtz => (u r).natAbs ≤ x.natAbs ∧ 0 ≤ u r * x ∧ ((u c).natAbs ≤ x.natAbs → (u c).natAbs ≤ (u r).natAbs)
    | .rne => (u r - x).natAbs ≤ (u c - x).natAbs ∧ ((u r - x).natAbs = (u c - x).natAbs → u r ≠ u c → r % 2 = 0)

/-- R190: `x / d` units lie within the finite values of a format. -/
def inRange (t : Fmt) (d : Nat) (x : Int) : Prop := x.natAbs ≤ d * (unitsOf t t.maxCode).natAbs

/-- R188, R282: a result that is correctly rounded where it lies in range, NX raised exactly where that changed it, and neither NV, DZ nor OF. -/
def correctly (t : Fmt) (m : Rm) (d : Nat) (x : Int) (q : Res) : Prop :=
  inRange t d x → roundsTo t m d x q.1 ∧ bit q.2 4 = decide ((d : Int) * unitsOf t q.1 ≠ x) ∧ q.2 &&& 7 = 0

/-- R284: the order of f32 codes that are no NaN, with -0 below +0. -/
def ordKey (x : Nat) : Int := if x < 2 ^ 31 then x else -((x : Int) - 2 ^ 31) - 1
/-- R285: the same with the zeros equal. -/
def numKey (x : Nat) : Int := if x < 2 ^ 31 then x else -((x : Int) - 2 ^ 31)

def isNan32 (x : Nat) : Bool := (Fmt.decode .f32 x).isNan
def isSnan32 (x : Nat) : Bool := (Fmt.decode .f32 x).isSnan

/-! ### When an instruction of a warp goes on -/

/-- The stream that issues is that of `h`, the operands lie among the block's registers (R258), nothing that the instruction names
is pending (R144), and no lane of the core is defective (R105). `regs` names registers with their counts, `ps` predicates. -/
def Here.free (h : Here) (s : State) (g : Guard) (regs : List (Nat × Nat)) (ps : List Nat) : Bool :=
  s.here? == some h && h.inRange regs && !h.wp.waitsFor (h.part g) regs ps && !h.wp.waitsFor (lanes h.run.mask) [] [g.pred.val] &&
    (defectsOf s h.b).isEmpty

/-- R144, R145, R296: the dependence counter and the queue of a long-latency instruction have room. -/
def Here.room (h : Here) (s : State) (l : Lat) (sfu : Nat) : Bool :=
  !h.wp.ctrBusy l.ctr && (sfu == 0 || (decide (s.queued h.uid h.w sfu < 4) && !h.drains))

/-- R295: no enabled trap of the floating-point flags can be taken. -/
def Here.quiet (h : Here) : Bool := h.wp.handler.isSome || h.b.rcd.flags % 8 == 0

/-- The state after an instruction whose participating threads wrote what `fx` says; the clause has passed its word. -/
def State.wrote (s : State) (h : Here) (g : Guard) (fx : Nat → LaneFx) : State :=
  s.modWarp h.uid h.w fun w => (w.applyAll ((h.part g).map fun l => (l, fx l))).advance

/-- The flags that the participating threads raise. -/
def Here.raised (h : Here) (g : Guard) (fx : Nat → LaneFx) : List (Nat × Flg) := (h.part g).map fun l => (l, (fx l).fl)

/-- An instruction that, free to go on, completes in one step: each participating thread writes what `fx` gives from the registers
as they were (R8). -/
def RunsShort (i : Instr) (g : Guard) (regs : List (Nat × Nat)) (ps : List Nat) (fx : Here → Nat → LaneFx) : Prop :=
  ∀ (s : State) (h : Here), h.free s g regs ps = true → exec i s = .next (s.wrote h g (fx h))

/-- The same for an instruction that raises floating-point flags, while no trap of theirs can be taken. -/
def RunsFloat (i : Instr) (g : Guard) (regs : List (Nat × Nat)) (ps : List Nat) (fx : Here → Nat → LaneFx) : Prop :=
  ∀ (s : State) (h : Here), h.free s g regs ps = true → h.quiet = true → exec i s = .next (s.wrote h g (fx h))

/-- R295: its trap: the group enters the handler of the lowest enabled cause that a thread raised, with %tdst as given. -/
def TrapsFloat (i : Instr) (g : Guard) (regs : List (Nat × Nat)) (ps : List Nat) (fx : Here → Nat → LaneFx) (tdst : W32) : Prop :=
  ∀ (s : State) (h : Here) (k : Nat) (m : W32), h.free s g regs ps = true → h.wp.handler = none →
    fpCause h.b.rcd.flags (h.raised g (fx h)) = some (k, m) →
    exec i s = .next ((s.wrote h g (fx h)).takeTrap h.uid h.w
      { cause := k, enter := h.run.mask, tmask := m, tdst := tdst, resumeAt := false, seq := false } fun _ => h.run.va)

/-- R144: a long-latency computation issued: its values, formed now, are outstanding under a new number; the registers that it will
write are pending, its counter is raised, and its completion is due. -/
def State.issued (s : State) (h : Here) (l : Lat) (sfu : Nat) (fxs : List (Nat × LaneFx)) : State :=
  let o : Op :=
    { uid := h.uid, st := .warp h.w, ctr := l.ctr, word := h.run.word, pc := h.run.va, dests := destsOf fxs
      flags := fxs.map fun x => (x.1, x.2.fl), got := [], fin := .plain, left := 0, sfu := sfu, bad := 0 }
  (({ s with next := s.next + 1, ops := tset s.ops s.next o }).modWarp h.uid h.w fun w =>
    (w.issue s.next l.ctr (o.dests.map Prod.fst)).advance).due (.longLatencyCompletion s.next)

/-- A long-latency instruction that computes in the lanes, issued. -/
def RunsLong (i : Instr) (g : Guard) (l : Lat) (sfu : Nat) (regs : List (Nat × Nat)) (ps : List Nat)
    (fx : Here → List Nat → List (Nat × LaneFx)) : Prop :=
  ∀ (s : State) (h : Here), h.free s g regs ps = true → h.room s l sfu = true →
    exec i s = .next (s.issued h l sfu (fx h (h.part g)))

/-- R145: the same for one that raises flags, while the block enables no trap of theirs. -/
def RunsLongFloat (i : Instr) (g : Guard) (l : Lat) (sfu : Nat) (regs : List (Nat × Nat)) (ps : List Nat)
    (fx : Here → List Nat → List (Nat × LaneFx)) : Prop :=
  ∀ (s : State) (h : Here), h.free s g regs ps = true → h.room s l sfu = true → h.b.rcd.flags % 8 = 0 →
    exec i s = .next (s.issued h l sfu (fx h (h.part g)))

/-- The state after an instruction that completed at once, its threads having written what `fxs` says. -/
def State.wroteAll (s : State) (h : Here) (fxs : List (Nat × LaneFx)) : State :=
  s.modWarp h.uid h.w fun w => (w.applyAll fxs).advance

/-- R145, R295: with a trap enabled a flag-setting long-latency instruction completes before anything else of its warp issues, and
its trap follows at once. -/
def RunsHeld (i : Instr) (g : Guard) (l : Lat) (sfu : Nat) (regs : List (Nat × Nat)) (fx : Here → List Nat → List (Nat × LaneFx))
    (tdst : W32) : Prop :=
  ∀ (s : State) (h : Here), h.free s g regs [] = true → h.room s l sfu = true → h.b.rcd.flags % 8 ≠ 0 →
    exec i s = .next ((s.wroteAll h (fx h (h.part g))).fpTrap h tdst ((fx h (h.part g)).map fun x => (x.1, x.2.fl)))

/-- What each participating thread writes, by thread. -/
def perLane (f : Here → Nat → LaneFx) (h : Here) (ls : List Nat) : List (Nat × LaneFx) := ls.map fun k => (k, f h k)

/-- The integer that a thread's operand reads as in a type (R182). -/
def Here.int (h : Here) (t : Ty) (r : VReg) (l : Nat) : Int := t.toInt (h.wp.src t r l)
/-- The number in a register, and in a pair (R4). -/
def Here.nat (h : Here) (r : VReg) (l : Nat) : Nat := h.wp.src1 r l
def Here.pair (h : Here) (r : VReg) (l : Nat) : Nat := h.wp.wide r.val l 2

/-- An instruction that updates masks or other state of its warp in one step: `f` says how, where a thread participates. -/
def RunsMask (i : Instr) (g : Guard) (regs : List (Nat × Nat)) (f : Here → List Nat → Warp → Warp) : Prop :=
  ∀ (s : State) (h : Here), h.free s g regs [] = true →
    exec i s = .next (s.modWarp h.uid h.w fun w => (if (h.part g).isEmpty then w else f h (h.part g) w).advance)

/-- R246, R300: a control transfer that is its clause's last instruction: with every target sound, participating threads go to their
targets, the others to the next header, and links are written; with a bad target the group takes the trap of cause 7 and
nothing else happens. The check may fill the instruction cache. -/
def RunsBranch (i : Instr) (g : Guard) (regs : List (Nat × Nat)) (target : Here → Nat → W64) (link : Here → Nat → LaneFx) : Prop :=
  ∀ (s t : State) (h : Here) (c : Checked), h.free s g regs [] = true → h.run.last = true →
    s.checkTargets h ((h.part g).map fun l => (l, target h l)) = (c, t) → c.walk = false →
    (c.bad = 0 → exec i s = .next (t.modWarp h.uid h.w fun w =>
      (w.applyAll ((h.part g).map fun l => (l, link h l))).depart h.run ((h.part g).map fun l => (l, target h l)))) ∧
    (c.bad ≠ 0 → exec i s = .next (t.trapAt h 7 c.bad false))

/-- A warp of a block. -/
def State.warp? (s : State) (uid w : Nat) : Option Warp :=
  match s.block? uid with
  | some b => tget? b.warps w
  | none => none

/-- The stores of the machine (memory, full-empty bits, poison, pages, placements, rows and line states) are the same. -/
def State.sameStores (s t : State) : Prop :=
  t.mem = s.mem ∧ t.tags = s.tags ∧ t.full = s.full ∧ t.poison = s.poison ∧ t.ptes = s.ptes ∧ t.pageTags = s.pageTags ∧
    t.frames = s.frames ∧ t.badFrames = s.badFrames ∧ t.places = s.places ∧ t.rows = s.rows ∧ t.rowSets = s.rowSets ∧
    t.redcs = s.redcs

/-- R258: the lane registers that an instruction names, with their counts (SRD and the forms that name none apart). -/
def laneOpds : Instr → Option (List (Nat × Nat))
  | .iadd _ t _ d a b | .isub _ t _ d a b => some [opd t d, opd t a, opd t b]
  | .imul _ t d a b | .imulh _ t d a b | .imin _ t d a b | .imax _ t d a b => some [opd t d, opd t a, opd t b]
  | .and _ t d a b | .or _ t d a b | .xor _ t d a b => some [opd t d, opd t a, opd t b]
  | .sel _ t d a b _ => some [opd t d, opd t a, opd t b]
  | .imad _ t d a b c => some [opd t d, opd t a, opd t b, opd t c]
  | .iabs _ t _ d a | .ineg _ t _ d a => some [opd t d, opd t a]
  | .not _ t d a | .brev _ t d a | .mov _ t d a => some [opd t d, opd t a]
  | .iaddc _ _ _ _ d a b | .lop3 _ _ d a b => some [opd1 d, opd1 a, opd1 b]
  | .imadw _ _ d a b c => some [opd2 d, opd1 a, opd1 b, opd2 c]
  | .shl _ t d a b | .shr _ t d a b | .sar _ t d a b | .bfe _ t d a b => some [opd t d, opd t a, opd1 b]
  | .bfi _ t d a b f => some [opd t d, opd t a, opd t b, opd1 f]
  | .fshl _ _ d a b c | .fshr _ _ d a b c => some [opd1 d, opd1 a, opd1 b, opd1 c]
  | .popc _ t d a | .clz _ t d a => some [opd1 d, opd t a]
  | .icmp _ _ t _ a b => some [opd t a, opd t b]
  | .movi _ t d _ => some [opd t d]
  | .lea _ _ d a b _ => some [opd2 d, opd2 a, opd1 b]
  | .vrd _ d a => some [opd1 d, opd1 a]
  | .vwr _ a b => some [opd1 a, opd1 b]
  | .fadd _ _ d a b | .fsub _ _ d a b | .fmul _ _ d a b | .fmin _ _ d a b | .fmax _ _ d a b => some [opd1 d, opd1 a, opd1 b]
  | .fscale _ _ d a b | .hadd2 _ _ _ _ d a b | .hmul2 _ _ _ _ d a b => some [opd1 d, opd1 a, opd1 b]
  | .ffma _ _ d a b c | .hfma2 _ _ _ _ d a b c => some [opd1 d, opd1 a, opd1 b, opd1 c]
  | .fcmp _ _ _ a b => some [opd1 a, opd1 b]
  | .fclass _ _ d a | .frnd _ _ d a => some [opd1 d, opd1 a]
  | .cmul _ _ d a b => some [opd2 d, opd2 a, opd2 b]
  | .cfma _ _ d a b c => some [opd2 d, opd2 a, opd2 b, opd2 c]
  | .rcp _ _ _ d a | .rsq _ _ _ d a | .sqrt _ _ _ d a | .exp2 _ _ _ d a | .log2 _ _ _ d a => some [opd1 d, opd1 a]
  | .sinpi _ _ _ d a | .cospi _ _ _ d a | .tanh _ _ _ d a => some [opd1 d, opd1 a]
  | .sincospi _ _ _ d a => some [opd2 d, opd1 a]
  | .cvt _ _ t src _ _ d a => some [opd t d, opd src a]
  | .pack _ _ _ _ _ _ _ d a b => some [opd1 d, opd1 a, opd1 b]
  | .unpack _ _ _ _ _ d a => some [opd1 d, opd1 a]
  | .brx _ a | .ret _ a => some [opd2 a]
  | .call _ d _ => some [opd2 d]
  | .mset _ _ a => some [opd1 a]
  | .mget _ d _ | .ballot _ _ _ d _ => some [opd1 d]
  | .matchLanes _ _ t d a => some [opd1 d, opd t a]
  | .shfl _ _ _ _ d a b => some [opd1 d, opd1 a, opd1 b]
  | .redux _ _ _ _ _ d a | .scan _ _ _ _ _ _ d a => some [opd1 d, opd1 a]
  | .swr _ r b => some [(b.val, if r = .tpc then 2 else 1)]
  | .icinv _ all a => some (if all then [] else [opd2 a])
  | .ld _ _ sz _ _ _ d a _ | .st _ _ sz _ _ _ d a _ => some [(d.val, sz.regs), opd2 a]
  | .lds _ _ sz _ d a _ | .sts _ _ sz _ d a _ | .ldc _ _ sz _ d a _ | .stc _ _ sz _ d a _ => some [(d.val, sz.regs), opd1 a]
  | .ldp _ _ sz _ d a _ | .stp _ _ sz _ d a _ => some [(d.val, sz.regs), opd1 a]
  | .ldPriv _ _ d a _ | .stPriv _ _ d a _ => some [opd1 d, opd1 a]
  | .atom _ _ op sz _ d a b => some [(d.val, sz.regs), opd2 a, (b.val, aopRegs op sz)]
  | .atoms _ _ op sz d a b => some [(d.val, sz.regs), opd1 a, (b.val, aopRegs op sz)]
  | .red _ _ op sz _ a b => some [opd2 a, (b.val, aopRegs op sz)]
  | .cctl _ _ op _ a _ => some (if op == .wball || op == .wbdropall then [] else [opd2 a])
  | .pref _ _ _ _ _ a _ => some [opd2 a]
  | .popq _ _ d _ => some [opd1 d]
  | .pushq _ _ _ a => some [opd1 a]
  | _ => none

/-- The registers and predicates that a short-latency computing instruction writes (VWR, which names its register in a register,
apart). -/
def laneDests : Instr → Option (List Nat × List Nat)
  | .iadd _ t _ d _ _ | .isub _ t _ d _ _ => some (List.range' d.val t.regs, [])
  | .imul _ t d _ _ | .imulh _ t d _ _ | .imin _ t d _ _ | .imax _ t d _ _ | .imad _ t d _ _ _ => some (List.range' d.val t.regs, [])
  | .and _ t d _ _ | .or _ t d _ _ | .xor _ t d _ _ | .sel _ t d _ _ _ => some (List.range' d.val t.regs, [])
  | .iabs _ t _ d _ | .ineg _ t _ d _ => some (List.range' d.val t.regs, [])
  | .not _ t d _ | .brev _ t d _ | .mov _ t d _ | .movi _ t d _ => some (List.range' d.val t.regs, [])
  | .shl _ t d _ _ | .shr _ t d _ _ | .sar _ t d _ _ | .bfe _ t d _ _ | .bfi _ t d _ _ _ => some (List.range' d.val t.regs, [])
  | .iaddc _ _ _ po d _ _ => some ([d.val], [po.val])
  | .imadw _ _ d _ _ _ | .lea _ _ d _ _ _ | .cmul _ _ d _ _ | .cfma _ _ d _ _ _ => some ([d.val, d.val + 1], [])
  | .lop3 _ _ d _ _ | .fshl _ _ d _ _ _ | .fshr _ _ d _ _ _ | .popc _ _ d _ | .clz _ _ d _ | .vrd _ d _ => some ([d.val], [])
  | .icmp _ _ _ p _ _ | .fcmp _ _ p _ _ => some ([], [p.val])
  | .fadd _ _ d _ _ | .fsub _ _ d _ _ | .fmul _ _ d _ _ | .ffma _ _ d _ _ _ | .fmin _ _ d _ _ | .fmax _ _ d _ _ => some ([d.val], [])
  | .fclass _ _ d _ | .frnd _ _ d _ | .fscale _ _ d _ _ => some ([d.val], [])
  | .hadd2 _ _ _ _ d _ _ | .hmul2 _ _ _ _ d _ _ | .hfma2 _ _ _ _ d _ _ _ => some ([d.val], [])
  | .mget _ d _ => some ([d.val], [])
  | _ => none

/-- Whether an instruction of those can raise floating-point flags (R281, R286). -/
def raisesFlags : Instr → Bool
  | .fadd .. | .fsub .. | .fmul .. | .ffma .. | .fmin .. | .fmax .. | .fcmp .. | .frnd .. | .fscale .. => true
  | .hadd2 .. | .hmul2 .. | .hfma2 .. | .cmul .. | .cfma .. => true
  | _ => false

/-- A thread of the clause that issues. -/
def State.issuing (s : State) (uid w l : Nat) : Prop := ∃ h, s.here? = some h ∧ h.uid = uid ∧ h.w = w ∧ bit h.run.mask l = true

/-- What an instruction that writes the registers `ds` and the predicates `ps` of the issuing clause's threads leaves as it was,
whether it completes, waits or traps: all of memory as every context reads it, every other register, predicate and mask, the
counters and pending registers, and every block's queues, barriers, tiles and sequencer. -/
def KeepsAllBut (i : Instr) (ds ps : List Nat) (flags : Bool) : Prop :=
  ∀ s t : State, exec i s = .next t →
    s.sameStores t ∧ (∀ c k, t.rd c k = s.rd c k) ∧
    ∀ uid b, s.block? uid = some b → ∃ b', t.block? uid = some b' ∧
      b'.seq = b.seq ∧ b'.queues = b.queues ∧ b'.bars = b.bars ∧ b'.tiles = b.tiles ∧ b'.pins = b.pins ∧ b'.home = b.home ∧
      ∀ w x, tget? b.warps w = some x → ∃ y, tget? b'.warps w = some y ∧
        (∀ r l, ¬ (s.issuing uid w l ∧ r ∈ ds) → y.reg r l = x.reg r l) ∧
        (∀ p l, ¬ (s.issuing uid w l ∧ p ∈ ps) → y.pred p l = x.pred p l) ∧
        (∀ l, ¬ (s.issuing uid w l ∧ flags = true) → y.flagsOf l = x.flagsOf l) ∧
        (∀ m, y.mask m = x.mask m) ∧ y.exited = x.exited ∧ y.ctr = x.ctr ∧ y.pend = x.pend ∧ y.stklim = x.stklim ∧
        (∀ l, ¬ s.issuing uid w l → y.pcOf l = x.pcOf l ∧ y.tpcOf l = x.tpcOf l)

/-! ### Memory instructions of a warp -/

/-- A lane memory instruction that can act: free to go on, its counter has room, and a thread participates. -/
def Here.acts (h : Here) (s : State) (g : Guard) (l : Lat) (regs : List (Nat × Nat)) : Bool :=
  h.free s g regs [] && !h.wp.ctrBusy l.ctr && !(h.part g).isEmpty

/-- R146 to R148: every participating thread's address is in bounds. -/
def Here.inPad (h : Here) (s : State) (p : Pad) (g : Guard) (a : VReg) (off : BitVec 16) (n : Nat) : Bool :=
  (h.part g).all fun l => (s.padKey h.b p (h.addr a off l) n).isSome

/-- The memory keys of the participating threads. -/
def Here.keys (h : Here) (s : State) (p : Pad) (g : Guard) (a : VReg) (off : BitVec 16) (n : Nat) : List (Nat × Nat) :=
  (h.part g).filterMap fun l => (s.padKey h.b p (h.addr a off l) n).map fun k => (l, k)

/-- R150: the granules of those keys. -/
def grsOf (ks : List (Nat × Nat)) (n : Nat) : List Nat := (ks.flatMap fun lk => granules lk.2 n).eraseDups

/-- R322: the bytes that a scratchpad store writes, by memory key; of threads that write one byte the highest remains. -/
def Here.stored (h : Here) (ks : List (Nat × Nat)) (sz : Size) (d : VReg) : Tab Byte :=
  ks.foldl (fun (t : Tab Byte) lk =>
    (bytesAt lk.2 (natLe sz.bytes (h.wp.wide d.val lk.1 sz.regs))).foldl (fun t kv => tset t kv.1 kv.2) t) []

/-- R146, R150, R154: a scratchpad load that completes: no granule poisoned, and with .keep or .take all of them full, no access that
arrived earlier at one of them able to act, and the warp's earlier loads back; .take empties them, and in a scratchpad that cores share
both acquire at .cluster. -/
def LoadsPad (i : Instr) (p : Pad) (g : Guard) (l : Lat) (sz : Size) (fe : Fe) (d a : VReg) (off : BitVec 16) : Prop :=
  ∀ (s : State) (h : Here), h.acts s g l [(d.val, sz.regs), opd1 a] = true → h.inPad s p g a off sz.bytes = true →
    let ks := h.keys s p g a off sz.bytes
    let grs := grsOf ks sz.bytes
    let observes := fe = .keep ∨ fe = .take
    let u := s.ownPads h.uid (.warp h.w) grs
    (observes → s.feReady h.run.fe grs true = true ∧ s.loading h.uid (.warp h.w) = false) → (∀ k ∈ grs, tgetD u.poison k 0 = 0) →
    let t := if fe = .take then (u.setFull false grs).wakeFull else u
    exec i s = .next ((if observes ∧ p ≠ .core then t.dropShared h.b.coreNo else t).openOp h l .plain
      (ks.flatMap fun lk => destVals d.val lk.1 sz.regs (loadValue sz (u.rdN h.b.ctx lk.2 sz.bytes))) 0).2

/-- R159: a byte that a store has put in a scratchpad: it reads so in `t`, or its bank has still to take it, and what was there stands. -/
def State.stored (t u : State) (h : Here) (k : Nat) (v : Byte) : Prop :=
  t.rd h.b.ctx k = v ∨
    (t.rd h.b.ctx k = u.rd h.b.ctx k ∧ ∃ x ∈ t.padOut, x.uid = h.uid ∧ x.st = .warp h.w ∧ x.ctx = h.b.ctx ∧ x.gr = k / 16 ∧ tget? x.bytes k = some v)

/-- R146, R150, R154, R156, R159: a scratchpad store that completes: with .fill all granules empty, no access that arrived earlier able to
act, and its release done; the granules then hold its bytes and are full. Without, each granule's bytes are taken by the bank at once
or later, the stream's earlier stores there before them (`u`). -/
def StoresPad (i : Instr) (p : Pad) (g : Guard) (l : Lat) (sz : Size) (fe : Fe) (d a : VReg) (off : BitVec 16) : Prop :=
  ∀ (s : State) (h : Here), h.acts s g l [(d.val, sz.regs), opd1 a] = true → h.inPad s p g a off sz.bytes = true →
    let ks := h.keys s p g a off sz.bytes
    let grs := grsOf ks sz.bytes
    let bs := h.stored ks sz d
    (fe = .fill → s.feReady h.run.fe grs false = true) →
    ∀ s1, (if fe = .fill then s.releaseFirst h (decide (p ≠ .core)) else .ok s) = .ok s1 →
    let u := s1.ownPads h.uid (.warp h.w) grs
    ∃ t, exec i s = .next t ∧
      t = ((if fe = .fill then ((s1.storePads h grs bs true).setFull true grs).wakeFull else s1.storePads h grs bs false).openOp h l .plain [] 0).2 ∧
      (∀ k v, tget? bs k = some v → t.stored u h k v ∧ (fe = .fill → t.rd h.b.ctx k = v)) ∧
      (∀ k, tget? bs k = none → t.rd h.b.ctx k = u.rd h.b.ctx k) ∧
      (∀ c k, (∀ kv ∈ bs, kv.1 / 128 ≠ k / 128) → t.rd c k = u.rd c k)

/-- R154, R160: the release that a filling store makes first. At .block it waits for the stream's earlier writes; beyond, a round of the
core is opened and the group waits for it at its word, which then issues again. -/
def ReleasesFirst (i : Instr) (p : Pad) (g : Guard) (l : Lat) (sz : Size) (d a : VReg) (off : BitVec 16) : Prop :=
  ∀ (s : State) (h : Here), h.acts s g l [(d.val, sz.regs), opd1 a] = true → h.inPad s p g a off sz.bytes = true →
    s.feReady h.run.fe (grsOf (h.keys s p g a off sz.bytes) sz.bytes) false = true → h.run.relDone = false →
    (p = .core → s.streamOut h.b.coreNo h.uid (.warp h.w) = true → exec i s = .next s.waits) ∧
    (p ≠ .core → s.beginFence h.b.coreNo h.uid (.warp h.w) .rel .cluster = none → exec i s = .next s.waits) ∧
    (p ≠ .core → ∀ k s1, s.beginFence h.b.coreNo h.uid (.warp h.w) .rel .cluster = some (some k, s1) →
      let o := s1.openRound h.b.coreNo h.uid (.warp h.w) .relFirst h.run.word h.run.va none k
      exec i s = .next (o.2.block h (.fence o.1)))

/-- R320, R150: where a scratchpad access stops: out of bounds the group takes the illegal-operand trap; at full-empty bits that do not
allow it, or behind an access that arrived earlier, it waits from its arrival; either way with no effect. -/
def StopsPad (i : Instr) (p : Pad) (g : Guard) (l : Lat) (sz : Size) (d a : VReg) (off : BitVec 16) (needs : Option Bool) : Prop :=
  ∀ (s : State) (h : Here), h.acts s g l [(d.val, sz.regs), opd1 a] = true →
    (h.inPad s p g a off sz.bytes = false → exec i s = .next (s.trapAt h 7
      (maskOf ((h.part g).filter fun l => (s.padKey h.b p (h.addr a off l) sz.bytes).isNone)) false)) ∧
    (h.inPad s p g a off sz.bytes = true → ∀ v, needs = some v →
      s.feReady h.run.fe (grsOf (h.keys s p g a off sz.bytes) sz.bytes) v = false →
      exec i s = .next (s.feBlock h (grsOf (h.keys s p g a off sz.bytes) sz.bytes) v))

/-- R320, R323: a routed load of the participating threads that goes out: translated, and not held behind the core's own writes: an op is
opened, its destinations pending, and each aligned piece is loaded (R151), a fully coalesced line as one event (R157). -/
def LoadsRouted (i : Instr) (g : Guard) (l : Lat) (sz : Size) (rt : ReqTy) (wide : Bool) (d : VReg) (regs : List (Nat × Nat))
    (ok : Here → Bool) (ea : Here → Nat → Nat) : Prop :=
  ∀ (s s1 : State) (h : Here) (ras : List Nat), h.acts s g l regs = true → ok h = true →
    let ls := h.part g
    let core := h.b.coreNo
    let ts := touchesOf ls (ea h) sz.bytes
    let each := (ts.zip ras).map fun x => { h.req .load rt wide x.1 x.2 with at' := x.1.lane * 16 + (x.1.va - ea h x.1.lane) }
    let rs := if coalesced ls (ea h) sz.bytes then asLine each else each
    s.translate core (h.who 0) permRd ts = .ok ras → s.prepare core (rt == .nc) rs = (s1, false) →
    let o := s1.openOp h l (.lanes sz d.val ls) (destKeys ls d.val sz.regs) rs.length
    exec i s = .next (rs.foldl (fun s r => s.loadPiece core { r with op := some o.1 }) o.2)

/-- R322: the requests of a routed store: each thread's pieces less the bytes that higher threads write; one request for a fully
coalesced line (R157). -/
def storeReqs (h : Here) (ls : List Nat) (sz : Size) (rt : ReqTy) (wide : Bool) (d : VReg) (ea : Nat → Nat) (ras : List Nat) : List Req :=
  let rs := ((touchesOf ls ea sz.bytes).zip ras).map fun x =>
    { h.req .store rt wide x.1 x.2 with
      bytes := (bytesAt x.2 (natLe x.1.len (h.wp.wide d.val x.1.lane sz.regs / 2 ^ (8 * (x.1.va - ea x.1.lane))))).filter fun kv =>
        ownBytes ls ea sz.bytes x.1 (kv.1 - x.2) }
  let rs := rs.filter fun r => !r.bytes.isEmpty
  if coalesced ls ea sz.bytes then asLine rs else rs

/-- R320, R323: a routed store that goes out. -/
def StoresRouted (i : Instr) (g : Guard) (l : Lat) (sz : Size) (rt : ReqTy) (wide : Bool) (d : VReg) (regs : List (Nat × Nat))
    (ok : Here → Bool) (ea : Here → Nat → Nat) : Prop :=
  ∀ (s s1 : State) (h : Here) (ras : List Nat), h.acts s g l regs = true → ok h = true →
    let ls := h.part g
    let core := h.b.coreNo
    let rs := storeReqs h ls sz rt wide d (ea h) ras
    s.translate core (h.who 1) permWr (touchesOf ls (ea h) sz.bytes) = .ok ras →
    s.prepare core (rt == .nc || rt == .wt) rs = (s1, false) → (∀ r ∈ rs, s1.unlanded core r.ra r.len = false) →
    let o := s1.openOp h l .plain [] rs.length
    exec i s = .next (rs.foldl (fun s r => s.storePiece core { r with op := some o.1 }) o.2)

/-- R328, R329: a routed atomic that goes out: aligned, no two threads at the same bytes, translated; the lines are dropped first. -/
def AtomicRouted (i : Instr) (g : Guard) (l : Lat) (op : Aop) (sz : Size) (dst : Option VReg) (a b : VReg) (regs : List (Nat × Nat)) : Prop :=
  ∀ (s : State) (h : Here) (ras : List Nat), h.acts s g l regs = true →
    let ls := h.part g
    let ea := h.eaMod a 0
    let core := h.b.coreNo
    (highLanes ls ea ≠ 0 → exec i s = .next (s.trapAt h 7 (highLanes ls ea) false)) ∧
    (highLanes ls ea = 0 → (∃ j ∈ ls, ea j % sz.bytes ≠ 0) →
      exec i s = .next (s.trapAt h 4 (maskOf (ls.filter fun j => ea j % sz.bytes != 0)) false)) ∧
    (highLanes ls ea = 0 → (∀ j ∈ ls, ea j % sz.bytes = 0) → sameAddr ls ea sz.bytes ≠ 0 →
      exec i s = .next (s.trapAt h 6 (sameAddr ls ea sz.bytes) false)) ∧
    (highLanes ls ea = 0 → (∀ j ∈ ls, ea j % sz.bytes = 0) → sameAddr ls ea sz.bytes = 0 →
      let ts := ls.map fun j => (⟨j, ea j, sz.bytes⟩ : Touch)
      let rs := (ts.zip ras).map fun x =>
        { h.req .atomic .nc true x.1 x.2 with at' := x.1.lane * 16, aop := some (h.aopReq op sz b x.1.lane) }
      let s1 := rs.foldl (fun s r => s.dropLine core (r.ra / 128) none) s
      s.translate core (h.who 2) (permRd ||| permWr ||| permAt) ts = .ok ras → (∀ r ∈ rs, s1.unlanded core r.ra r.len = false) →
      let o := match dst with
        | some d => s1.openOp h l (.lanes sz d.val ls) (destKeys ls d.val sz.regs) rs.length
        | none => s1.openOp h l .plain [] rs.length
      exec i s = .next (rs.foldl (fun s r => s.atomPiece core { r with op := some o.1 }) o.2))

/-! ### Sequencer instructions -/

/-- The sequencer that issues is that of `h`, none of the s registers named is pending (R337), and no ALU of the core is defective
(R105). -/
def SHere.free (h : SHere) (s : State) (rs : List SReg) : Bool :=
  s.seqHere? == some h && !h.b.seq.pending rs && (defectsOf s h.b).isEmpty

/-- A long-latency instruction of the sequencer that can act: its counter has room (R144). -/
def SHere.acts (h : SHere) (s : State) (l : Lat) (rs : List SReg) : Bool := h.free s rs && !h.b.seq.ctrBusy l.ctr

/-- R362: one of the matrix engine: no earlier one of the block has still to read or write tiles. -/
def SHere.onTiles (h : SHere) (s : State) (l : Lat) (rs : List SReg) : Bool := h.acts s l rs && !s.under h.uid Fin'.onTiles

/-- R212: one on rows: no earlier one of the block is under way. -/
def SHere.onRows (h : SHere) (s : State) (l : Lat) (rs : List SReg) : Bool := h.onTiles s l rs && !s.under h.uid Fin'.onRows

/-- A short sequencer instruction completes in one step: `f` says what it writes from the registers as they were. -/
def RunsScalar (i : Instr) (rs : List SReg) (f : SHere → Seq → Seq) : Prop :=
  ∀ (s : State) (h : SHere), h.free s rs = true → exec i s = .next (s.modSeq h.uid fun q => (f h q).advance)

/-- R144: a long-latency instruction of the sequencer whose results are there at once: they are outstanding under a new number, its
counter is raised, and its completion is due. -/
def State.seqIssued (s : State) (h : SHere) (l : Lat) (dests : List (Nat × W64)) : State :=
  let o : Op :=
    { uid := h.uid, st := .seq, ctr := l.ctr, word := h.run.word, pc := h.run.va, dests := dests, flags := [], got := [], fin := .plain
      left := 0, sfu := 0, bad := 0 }
  (({ s with next := s.next + 1, ops := tset s.ops s.next o }).modSeq h.uid fun q =>
    (q.issue s.next l.ctr (dests.map Prod.fst)).advance).due (.longLatencyCompletion s.next)

/-- R340, R342: the load requests of pieces of an access of the sequencer, by VA piece and place among the bytes loaded. -/
def SHere.loads (h : SHere) (acc : Acc) (rt : ReqTy) (sc : Scope) (ts : List (Touch × Nat)) (ras : List Nat)
    (agent : Agent := .stream h.uid .seq) : List Req :=
  (ts.zip ras).map fun x => { h.req acc rt (isWide sc) x.1.1 x.2 with agent := agent, at' := x.1.2 }

/-- A routed load of the sequencer that goes out: its pieces are translated to `ras` and not held behind the core's own writes; `act` is
what it does before its pieces are loaded: opening its op. `agent` is whose accesses they are, the sequencer's unless it says otherwise. -/
def LoadsSeq (i : Instr) (s : State) (h : SHere) (rt : ReqTy) (sc : Scope) (acc : Acc) (ts : List (Touch × Nat))
    (act : State → Nat → Nat × State) (agent : Agent := .stream h.uid .seq) : Prop :=
  ∀ (s1 : State) (ras : List Nat),
    let rs := h.loads acc rt sc ts ras agent
    s.translate h.b.coreNo (h.who 0) permRd (ts.map Prod.fst) = .ok ras → s.prepare h.b.coreNo (rt == .nc) rs = (s1, false) →
    exec i s = .next (rs.foldl (fun s r => s.loadPiece h.b.coreNo { r with op := some (act s1 rs.length).1 }) (act s1 rs.length).2)

/-- A routed store of the sequencer that goes out. -/
def StoresSeq (i : Instr) (s : State) (h : SHere) (l : Lat) (rt : ReqTy) (sc : Scope) (ps : List (Touch × List Byte))
    (before : State → State) : Prop :=
  ∀ (s1 : State) (ras : List Nat),
    let rs := (ps.zip ras).map fun x => { h.req .store rt (isWide sc) x.1.1 x.2 with bytes := bytesAt x.2 x.1.2 }
    s.translate h.b.coreNo (h.who 1) permWr (ps.map Prod.fst) = .ok ras →
    s.prepare h.b.coreNo (rt == .nc || rt == .wt) rs = (s1, false) → (∀ r ∈ rs, s1.unlanded h.b.coreNo r.ra r.len = false) →
    let o := (before s1).openSeqOp h l .plain [] rs.length
    exec i s = .next (rs.foldl (fun s r => s.storePiece h.b.coreNo { r with op := some o.1 }) o.2)

/-- R91, R101, R320: whose reads an instruction makes: those of an engine's command, or the sequencer's own. -/
def SHere.reader (h : SHere) (cmd : Bool) : Who := h.b.readWho h.uid h.run.va cmd

/-- R101, R320: the requests of such reads, by VA piece and place among the bytes loaded. -/
def SHere.reads (h : SHere) (cmd : Bool) (rt : ReqTy) (ts : List (Touch × Nat)) (ras : List Nat) : List Req :=
  (ts.zip ras).map fun x => h.b.readReq (h.reader cmd) .load rt x.1.1 x.2 x.1.2 none

/-- R165, R340: bytes read as load events into an op with an end of its own: translated, not held, its release (where it has one) begun. -/
def ReadsSeq (i : Instr) (s : State) (h : SHere) (l : Lat) (fin : Fin') (dests : List (Nat × W64)) (va n : Nat) (rel : Bool) (sc : Scope)
    (cmd : Bool) : Prop :=
  ∀ (s1 s2 : State) (ras : List Nat) (k : Option Nat),
    let ts := (seqTouches va n).map fun t => (t, t.va - va)
    let rs := h.reads cmd .own ts ras
    s.translate h.b.coreNo (h.reader cmd) permRd (ts.map Prod.fst) = .ok ras → s.prepare h.b.coreNo false rs = (s1, false) →
    s1.relStart h.uid h.b.coreNo rel sc = some (k, s2) →
    let o := s2.openSeqOp h l fin dests (rs.length + if k.isSome then 1 else 0)
    exec i s = .next (rs.foldl (fun s r => s.loadPiece h.b.coreNo { r with op := some o.1 }) (o.2.relFor h.b.coreNo o.1 k))

/-- The same for bytes that are at hand in a state `s0` that the instruction comes to: the op waits at most for its release, and `after`
is done as it begins. Where the release cannot begin, the instruction waits in `s0`. -/
def HasSeq (i : Instr) (s s0 : State) (h : SHere) (l : Lat) (fin : Fin') (dests : List (Nat × W64)) (bs : List Byte) (rel : Bool)
    (sc : Scope) (after : State → State := id) : Prop :=
  (s0.relStart h.uid h.b.coreNo rel sc = none → exec i s = .next s0.waits) ∧
  ∀ (s1 : State) (k : Option Nat), s0.relStart h.uid h.b.coreNo rel sc = some (k, s1) →
    let o := (after s1).openSeqOp h l fin dests (if k.isSome then 1 else 0)
    exec i s = .next (({ o.2 with ops := tmod o.2.ops o.1 fun x => { x with got := bytesAt 0 bs } } : State).relFor h.b.coreNo o.1 k)

/-- R90, R358: a route instruction that reaches its checks: its address has been translated, and the block has fewer than eight under way. -/
def SHere.routes (h : SHere) (s : State) (l : Lat) (rs : List SReg) (a : SReg) (ra : Nat) : Prop :=
  h.acts s l rs = true ∧ (h.get a).toNat < 2 ^ 57 ∧ (s.rops.filter fun kv => kv.2.uid == some h.uid).length < 8 ∧
    s.translate h.b.coreNo (h.who 6) permRt [⟨0xFF, (h.get a).toNat, 1⟩] = .ok [ra]

/-- R43: an engine accepts a message about a holder: it is alive, the reserved bits are 0, it is not on the path, which names an engine,
and the version is newer or the cost lower; `nc` is the new cost. -/
def State.accepts (s : State) (eng : Nat) (hop : Hop) (m : Msg) (nc : Nat) : Prop :=
  s.dieLive eng = true ∧ m.rsv = 0 ∧ m.path ≠ [] ∧ (s.pkg.device, eng) ∉ m.path ∧
    nc = (if m.cost = 2047 then 2047 else min (m.cost + s.hopCost hop) 2046) ∧
    (((s.engine eng).standing m).1 < m.ver ∨ m.ver = ((s.engine eng).standing m).1 ∧ nc < ((s.engine eng).standing m).2)

/-- R50, R54: what the failure of a holder entails on this device, where its FAIL comes from a peer through a port and the entry it
names, of the engine as it was (`s`), had not failed. -/
def State.entails (t s : State) (eng : Nat) (hop : Hop) (m : Msg) : State :=
  match (s.engine eng).named m with
  | some e => if m.op = mFail ∧ Hop.isPort hop ∧ e.st ≠ .failed then t.afterFail eng m.pfx m.len m.holder e.home else t
  | none => t

/-- R43: a message accepted: applied to the engine's table, forwarded, and followed up. -/
def AppliesMessage (i : Instr) (eng : Nat) (hop : Hop) (m : Msg) : Prop :=
  ∀ (s : State) (nc : Nat), s.accepts eng hop m nc →
    exec i s = .next (((((s.heard eng m).setEngine eng ((s.engine eng).apply m nc hop)).forward eng hop m nc).changed eng).entails s eng hop m)

/-- R41, R43: a message that an engine does not accept: discarded and counted where a reserved bit is set, counted as a loop where the
engine is on its path; an older version or no lower cost changes no table and is not forwarded; a dead engine receives nothing. A message
that names no engine is one for the holder's own engine to originate (the model's choice: notes/assumptions/78.md). -/
def DropsMessage (i : Instr) (eng : Nat) (hop : Hop) (m : Msg) : Prop :=
  ∀ s : State,
    (s.dieLive eng = false → exec i s = .next s) ∧
    (s.dieLive eng = true → m.rsv ≠ 0 → exec i s =
      .next (s.setEngine eng { s.engine eng with discards := (s.engine eng).discards + 1 })) ∧
    (s.dieLive eng = true → m.rsv = 0 → (s.pkg.device, eng) ∈ m.path → exec i s =
      .next (s.setEngine eng { s.engine eng with loops := (s.engine eng).loops + 1 })) ∧
    (s.dieLive eng = true → m.rsv = 0 → m.path = [] → exec i s = .next (s.sayFor m)) ∧
    (s.dieLive eng = true → m.rsv = 0 → m.path ≠ [] → (s.pkg.device, eng) ∉ m.path →
      (∀ nc, nc = (if m.cost = 2047 then 2047 else min (m.cost + s.hopCost hop) 2046) →
        m.ver < ((s.engine eng).standing m).1 ∨ m.ver = ((s.engine eng).standing m).1 ∧ ((s.engine eng).standing m).2 ≤ nc) →
      exec i s = .next (s.heard eng m))

/-- R363, R366 to R369: a multiply of a form that reads both its operands: every element of its tile (of both tiles of a complex one) is the
chunk sums of its row and column promoted, in order; its flags are raised and its result is there at once. Where the form refuses
its tiles or window, or an operand breaks its rules, it is cause 7 with no effect. R103: poison in an operand, or in a tile that it adds
to, is consumed by the engine's command. -/
def Multiplies (i : Instr) (l : Lat) (sh : MmaShape) (z : Bool) (zd : ZReg) (a b : SReg) (ok : Block → Bool) (scales : Block → Nat → List Nat) :
    Prop :=
  ∀ (s : State) (h : SHere), h.onTiles s l [a, b] = true →
    let held := ok h.b && h.b.holdsTile zd.val && (!sh.cplx || h.b.holdsTile (zd.val + 1))
    (held = false → exec i s = .next (s.seqIllegal h)) ∧
    (held = true → z = false → bit h.b.tileBad zd.val = true → exec i s = .next (s.badTile h zd.val)) ∧
    (held = true → z = true ∨ (bit h.b.tileBad zd.val = false ∧ (sh.cplx = false ∨ bit h.b.tileBad (zd.val + 1) = false)) →
      (s.operand h.b (h.get a) = .bad ∨ s.operand h.b (h.get b) = .bad → exec i s = .next (s.seqIllegal h)) ∧
      (s.operand h.b (h.get a) = .wait → s.operand h.b (h.get b) ≠ .bad → exec i s = .next s.waits) ∧
      (∀ x st rb, s.operand h.b (h.get a) = .poison x st → s.operand h.b (h.get b) = .rows rb →
        exec i s = .next (s.poisoned (h.b.engineWho h.uid 4 h.run.va) x st)) ∧
      (∀ x st ra, s.operand h.b (h.get a) = .rows ra → s.operand h.b (h.get b) = .poison x st →
        exec i s = .next (s.poisoned (h.b.engineWho h.uid 4 h.run.va) x st)) ∧
      ∀ ra rb, s.operand h.b (h.get a) = .rows ra → s.operand h.b (h.get b) = .rows rb → defectsOf s h.b = [] →
        let elem := fun (im : Bool) (t : Nat) (i n : Nat) => mmaElem sh im (scales h.b i)
          (if z then 0 else (tgetD h.b.tiles (tileKey t i n) 0).toNat) (rowFps sh.fa (ra.getD i [])) (rowFps sh.fb (rb.getD n []))
        let write := fun (s : State) (im : Bool) (t : Nat) => s.modBlock h.uid fun b =>
          let b := b.setTile t fun e => BitVec.ofNat 32 (elem im t (e / 128) (e % 128)).1
          { b with seq := b.seq.orFlags (((List.range 16384).map fun e => (elem im t (e / 128) (e % 128)).2).foldl (fun f g => f ||| g) 0) }
        let s1 := write s false zd.val
        exec i s = .next ((if sh.cplx then write s1 true (zd.val + 1) else s1).seqIssued h l []))

/-- R203, R372: an instruction that reaches the row it names: the row's page, and the row as the block's owner finds it (R33). -/
def SHere.atRow (h : SHere) (s : State) (l : Lat) (rs : List SReg) (hd : W64) (row page : Nat) (rw : Row) : Prop :=
  h.onRows s l rs = true ∧ s.rowRef h.b.die hd row = .row page ∧ ∃ r, tget? s.rows page = some r ∧ rw = r.as (s.rowTag h.b.ctx)

/-- R207: the moments of a row are those of its elements. -/
def Row.exact (r : Row) : Prop :=
  r.sum = BitVec.ofInt 160 (((List.range r.len).map fun i => r.at' i).sum) ∧
    r.ssq = BitVec.ofInt 272 (((List.range r.len).map fun i => r.at' i * r.at' i).sum)

/-- R349: a running chain stands at an entry of a kind, its block not being saved, or the chain inside a piece (R359). -/
def State.atEntry (s : State) (uid slot : Nat) (b : Block) (ch : Chain) (bs : List Byte) (kind : Nat) : Prop :=
  s.chain? uid slot = some (b, ch) ∧ s.entryBytes b ch = some bs ∧ s.entryPoison b ch = none ∧ efld bs 0 1 = kind ∧
    (b.saving = none ∨ ch.reading = true)

/-- R349: an entry of one row between scratchpads that starts: sound and unpoisoned at its source; `ks` and
`kd` are the keys of its sides, `n` and `m` how many bytes it reads and writes. -/
def State.rowEntry (s : State) (uid slot : Nat) (b : Block) (ch : Chain) (bs : List Byte) (quant : Bool) (o : Op) (ks kd n m : Nat) : Prop :=
  s.atEntry uid slot b ch bs (if quant then 2 else 1) ∧ b.copyOk ch bs quant = true ∧ tget? s.ops ch.op = some o ∧ o.got = [] ∧ o.bad = 0 ∧
    ch.row = 0 ∧ ch.piece = 0 ∧ ch.reading = false ∧ efld bs 4 4 = 1 ∧ efld bs 1 1 ≠ 0 ∧ efld bs 2 1 ≠ 0 ∧ n = efld bs 24 4 ∧ m = rowOut quant n ∧
    s.padKey b (padOf (efld bs 1 1)) ((efld bs 8 8 : Int) + ch.os) n = some ks ∧
    s.padKey b (padOf (efld bs 2 1)) ((efld bs 16 8 : Int) + ch.od) m = some kd ∧
    (∀ j, j < n / 16 → tgetD s.poison ((ks + 16 * j) / 16) 0 = 0) ∧ (quant = false → ks + n ≤ kd ∨ kd + m ≤ ks)

/-- R63, R66: a function's mailbox takes a request of a code, at its turn and not before; no byte is set that the operation does not list. -/
def State.asks (s : State) (fn idx : Nat) (rq : BitVec 512) (code : Nat) (fields : List (Nat × Nat)) : Prop :=
  rqField rq 0 1 = code ∧ rqField rq 1 3 = 0 ∧ s.pendingRequest fn = some (idx, rq) ∧ (s.fnOf fn).cur = none ∧ rqClean rq fields = true

/-- R63: the state in which it has taken it. -/
def State.took (s : State) (fn : Nat) (rq : BitVec 512) : State :=
  { s.setFn fn { s.fnOf fn with head := (s.fnOf fn).head + 1, cur := some rq } with lastFn := fn }

/-- R65, R108: a request may name a context of its function that is neither being freed nor, but for CTXFREE and REVOKE, lost. -/
def State.owns (s : State) (fn c : Nat) (x : Ctx) (lostToo : Bool) : Prop :=
  c < 1024 ∧ tget? s.ctxs c = some x ∧ x.fn = fn ∧ x.freeing = none ∧ (x.lost = none ∨ lostToo = true)

end Sys2Proof.Machine
end

