-- ==== Sys2Proof/Certificates/Slice0/Obligations.lean ====
section
/-! DEFINITION. Statements about the model, for the provers. -/

section

open Sys2Proof Sys2Proof.Machine

/-- R24 to R26, R61, R70, R112: the machine at power-on, a function's registers, and a block's streams as they are placed.
That every table is empty then is the model's form (log entry 4). -/
def Obligations.ResetState : Prop :=
  (∀ s : State, s = State.reset → s.pkg.powered = false ∧ s.isReady = false ∧ s.mem = [] ∧ s.ctxs = [] ∧ s.queues = [] ∧ s.blocks = [] ∧ s.cores = [] ∧ s.engines = [] ∧
    s.bootRegister 0x10 = 0 ∧ s.bootRegister 0x14 = 0 ∧ s.bootRegister 0x18 = 0 ∧ s.bootRegister 0x1C = 0 ∧ s.bootRegister 0x20 = 0 ∧
    (∀ fn off, off ∈ [0x200, 0x204, 0x208, 0x20C, 0x210, 0x214, 0x218, 0x21C, 0x220, 0x228] → s.fnRegister fn off = 0) ∧
    ∀ c k, encrypted k = false → s.rd c k = 0) ∧
  (∀ (pc : W64) (lim : W32), let w := Warp.fresh pc lim
    (∀ l, l < 32 → w.pcOf l = pc) ∧ (∀ r l, w.reg r l = 0) ∧ (∀ p l, p < 7 → w.pred p l = false) ∧ w.exited = 0 ∧ w.tcause = 0 ∧ w.tmask = 0 ∧
      w.tdst = 0 ∧ w.stklim = lim ∧ tgetD w.masks 0 0 = BitVec.allOnes 32 ∧ (∀ m, 0 < m → tgetD w.masks m 0 = 0) ∧ ∀ k, w.ctrOf k = 0) ∧
  (∀ pc prm n a b rows, let q := Seq.fresh pc prm n a b rows
    q.pc = pc ∧ q.get 1 = prm ∧ q.get 2 = BitVec.ofNat 64 n ∧ q.get 3 = BitVec.ofNat 64 a ∧ q.get 4 = BitVec.ofNat 64 b ∧ q.get 5 = rows ∧
      (∀ r, 5 < r → r < 64 → q.get r = 0) ∧ q.flags = 0 ∧ q.sexit = false)

/-- Memory at reset is in its canonical form, which is the model's own (log entry 3). -/
def Obligations.ResetMemoryIsCanonical : Prop :=
  Memory.wf State.reset.mem

/-- Every step, of every row of the opcode table, keeps the canonical form of memory: addresses rising, and in an on-chip store nothing
listed that is zero. The form is the model's own (log entry 3). -/
def Obligations.MemoryStaysCanonical : Prop :=
  ∀ s t : State, Memory.wf s.mem → step s = .next t → Memory.wf t.mem

/-- Words written out from the encodings of the spec, one or more for each kind of format, decode to their instructions. -/
def Obligations.WordsDecode : Prop :=
  decode false 0x075C0140000000A0 = .ok (.movi ⟨false, 7⟩ .x32 5 2) ∧
  decode false 0x041C008041401800 = .ok (.shl ⟨false, 7⟩ .n32 2 1 5) ∧
  decode false 0x801CC20100102711 = .ok (.ld ⟨false, 7⟩ ⟨3, some 2⟩ .b32 .nc .pkg .none 8 4 64) ∧
  decode false 0x289C830280002440 = .ok (.sqrt ⟨false, 7⟩ ⟨2, some 0⟩ .rne 12 10) ∧
  decode false 0x601C000000000040 = .ok (.bra ⟨false, 7⟩ 1) ∧
  decode false 0x821C028103122700 = .ok (.atom ⟨false, 7⟩ ⟨0, none⟩ .cas .b32 .pkg 10 4 12) ∧
  decode true 0xC09C051400000401 = .ok (.sadd 5 5 (.imm 8)) ∧
  decode true 0xC49C000C000BF1C8 = .ok (.ldq ⟨0, some 1⟩ .line false .own .die 2 3 63) ∧
  decode true 0xCC1C091060000C59 = .ok (.announce ⟨0, some 3⟩ true false 9 4 6 24) ∧
  decode true 0xB19C0028B0200448 = .ok (.mmasE4m3E4m3 ⟨0, some 1⟩ false 0 10 11 128 2) ∧
  decode true 0xB4DC0A1512670000 = .ok (.saread ⟨0, none⟩ false .bf16 false true .cluster 28 5 17 9) ∧
  decode false 0 ≠ decode true 0

/-- R247 to R259: the decoder of its stream reads the word of every well-formed instruction as that instruction (an event has no word). -/
def Obligations.DecodeEncode : Prop :=
  ∀ (i : Instr) (n : Nat), i.wf = true → encodeNat i = some n → n < 2 ^ 64 ∧ decode i.isSeq (BitVec.ofNat 64 n) = .ok i

/-- R242, R247 to R260: a word that the decoder of a stream reads is the word of a well-formed instruction, bit for bit: no two words of a
stream decode to one instruction, and a bit that a format reserves is never ignored. -/
def Obligations.DecodedIsCanonical : Prop :=
  ∀ (sq : Bool) (x : W64) (i : Instr), decode sq x = .ok i → i.wf = true ∧ encodeNat i = some x.toNat

/-- R136, R240, R242, R259: a step runs the event that is due, or the instruction that the next word of the clause under way decodes to; a
word that is none of its clause's is ILLEGAL; a timer runs the row of its event; a store that a scratchpad bank has still to take is
taken first. The order in which events are taken is the model's choice (log entries 5 and 92). -/
def Obligations.StepRunsDecoded : Prop :=
  (∀ (s : State) x rest, s.schedule = [] → s.padOut = x :: rest → step s = .next (s.landPads fun y => y = x)) ∧
  (∀ (s : State) i rest, s.schedule = [] → s.padOut = [] → s.agenda = i :: rest → step s = exec i { s with agenda := rest }) ∧
  (∀ (s : State) i rest, s.schedule = [] → s.padOut = [] → s.agenda = [] → s.derived = i :: rest → step s = exec i s) ∧
  (∀ (s : State) uid w (b : Block) (x : Warp) (r : Run), s.schedule = [] → s.padOut = [] → s.agenda = [] → s.derived = [] → s.cur = some (uid, .warp w) →
    s.block? uid = some b → b.active = true → s.coreOut b = false → tget? b.warps w = some x → x.suspended = false → x.pdone = none →
    s.warpRun x = some r →
    (∀ i, opClass false (fld r.word.toNat 54 10) = some r.cls → decode false r.word = .ok i → step s = exec i s) ∧
    (∀ e, decode false r.word = .error e → step s = exec .illegal s) ∧
    (opClass false (fld r.word.toNat 54 10) ≠ some r.cls → step s = exec .illegal s)) ∧
  (∀ (s : State) uid (b : Block) (r : Run), s.schedule = [] → s.padOut = [] → s.agenda = [] → s.derived = [] → s.cur = some (uid, .seq) →
    s.block? uid = some b → b.active = true → s.coreOut b = false → b.seq.suspended = false → b.seq.pdone = false → b.seq.trap = none →
    b.seq.sexit = false → s.pushHeld uid b = false → b.seq.run = some r → r.open = true →
    (∀ i, opClass true (fld r.word.toNat 54 10) = some r.cls → decode true r.word = .ok i → step s = exec i s) ∧
    (∀ e, decode true r.word = .error e → step s = exec .illegal s) ∧
    (opClass true (fld r.word.toNat 54 10) ≠ some r.cls → step s = exec .illegal s)) ∧
  (∀ s : State, (∀ q, s.fire (.reevaluate q) = exec (.waitValueReevaluate q) s ∧ s.fire (.waitto q) = exec (.waitto q) s) ∧
    (∀ n, s.fire (.flush n) = exec (.flushTimerExpiry n) s ∧ s.fire (.stall n) = exec (.blockStall n) s ∧
      s.fire (.deadline n) = exec (.deadlineExpiry n) s ∧ s.fire (.hold n) = exec (.holdTimeout n) s ∧ s.fire (.refresh n) = exec (.recostRefresh n) s) ∧
    (∀ a b, s.fire (.collective a b) = exec (.collectiveTimeout a b) s ∧ s.fire (.ack a b) = exec (.lockAckTimeout a b) s ∧
      s.fire (.resume a b) = exec (.channelResume a b) s) ∧
    (∀ a b c, s.fire (.cond a b c) = exec (.condReevaluate a b c) s) ∧ (∀ l, s.fire (.merge l) = exec (.correctionMergeFlush l) s) ∧
    (∀ a b c, s.fire (.evict a b c) = exec (.l1Eviction a b c) s) ∧ ∀ a b c d, s.fire (.forget a b c d) = exec (.retiredRecordExpiry a b c d) s)

/-- R263, R264: the adds, subtracts, minima, maxima, absolute values and negations complete with the exact result clamped or wrapped, and
IADDC with the sum's low 32 bits and its carry. -/
def Obligations.AddSubtractResults : Prop :=
  (∀ g t sat d a b, RunsShort (.iadd g t sat d a b) g [opd t d, opd t a, opd t b] []
    fun h l => putTy t d (t.fit sat (h.int t a l + h.int t b l))) ∧
  (∀ g t sat d a b, RunsShort (.isub g t sat d a b) g [opd t d, opd t a, opd t b] []
    fun h l => putTy t d (t.fit sat (h.int t a l - h.int t b l))) ∧
  (∀ g t d a b, RunsShort (.imin g t d a b) g [opd t d, opd t a, opd t b] []
    fun h l => putTy t d (t.fit false (min (h.int t a l) (h.int t b l)))) ∧
  (∀ g t d a b, RunsShort (.imax g t d a b) g [opd t d, opd t a, opd t b] []
    fun h l => putTy t d (t.fit false (max (h.int t a l) (h.int t b l)))) ∧
  (∀ g t sat d a, RunsShort (.iabs g t sat d a) g [opd t d, opd t a] []
    fun h l => putTy t d (t.fit sat (h.int t a l).natAbs)) ∧
  (∀ g t sat d a, RunsShort (.ineg g t sat d a) g [opd t d, opd t a] []
    fun h l => putTy t d (t.fit sat (-h.int t a l))) ∧
  (∀ g sub pi po d a b, RunsShort (.iaddc g sub pi po d a b) g [opd1 d, opd1 a, opd1 b] (po.val :: (pi.map Fin.val).toList)
    fun h l =>
      let x := h.nat a l + (if sub then 2 ^ 32 - 1 - h.nat b l else h.nat b l) +
        (if pi.elim false fun p => h.wp.pred p.val l then 1 else 0)
      ⟨[(d.val, BitVec.ofNat 32 x)], [(po.val, decide (2 ^ 32 ≤ x))], 0⟩)

/-- R265: the multiply instructions complete with the exact product (plus addend) reduced as each form says. -/
def Obligations.MultiplyResults : Prop :=
  (∀ g t d a b, RunsShort (.imul g t d a b) g [opd t d, opd t a, opd t b] []
    fun h l => putTy t d (t.ofInt (h.int t a l * h.int t b l))) ∧
  (∀ g t d a b, RunsShort (.imulh g t d a b) g [opd t d, opd t a, opd t b] []
    fun h l => putTy t d (t.ofInt (h.int t a l * h.int t b l / 2 ^ t.width))) ∧
  (∀ g t d a b c, RunsShort (.imad g t d a b c) g [opd t d, opd t a, opd t b, opd t c] []
    fun h l => putTy t d (t.ofInt (h.int t a l * h.int t b l + h.int t c l))) ∧
  (∀ g t d a b c, RunsShort (.imadw g t d a b c) g [opd2 d, opd1 a, opd1 b, opd2 c] []
    fun h l => ⟨regsOf d.val 2 ((t.toInt (h.nat a l) * t.toInt (h.nat b l) + (h.pair c l : Int)) % 2 ^ 64).toNat, [], 0⟩)

/-- R266, R267: the logic instructions complete bit by bit; LOP3 takes each bit from its table. -/
def Obligations.LogicResults : Prop :=
  (∀ g t d a b, RunsShort (.and g t d a b) g [opd t d, opd t a, opd t b] []
    fun h l => putTy t d (h.wp.src t a l &&& h.wp.src t b l)) ∧
  (∀ g t d a b, RunsShort (.or g t d a b) g [opd t d, opd t a, opd t b] []
    fun h l => putTy t d (h.wp.src t a l ||| h.wp.src t b l)) ∧
  (∀ g t d a b, RunsShort (.xor g t d a b) g [opd t d, opd t a, opd t b] []
    fun h l => putTy t d (h.wp.src t a l ^^^ h.wp.src t b l)) ∧
  (∀ g t d a, RunsShort (.not g t d a) g [opd t d, opd t a] []
    fun h l => putTy t d (2 ^ t.width - 1 - h.wp.src t a l)) ∧
  (∀ g lut d a b, RunsShort (.lop3 g lut d a b) g [opd1 d, opd1 a, opd1 b] []
    fun h l => put1 d (Scalar.lop3 lut.toNat (h.nat a l) (h.nat b l) (h.nat d l))) ∧
  (∀ lut a b d k : Nat, k < 32 → (Scalar.lop3 lut a b d).testBit k =
    lut.testBit ((a.testBit k).toNat + 2 * (b.testBit k).toNat + 4 * (d.testBit k).toNat))

/-- R268: the shifts complete; a count of the width or more shifts everything out (SAR: leaves the sign). -/
def Obligations.ShiftResults : Prop :=
  (∀ g t d a b, RunsShort (.shl g t d a b) g [opd t d, opd t a, opd1 b] []
    fun h l => putTy t d (if t.width ≤ h.nat b l then 0 else h.wp.src t a l * 2 ^ h.nat b l % 2 ^ t.width)) ∧
  (∀ g t d a b, RunsShort (.shr g t d a b) g [opd t d, opd t a, opd1 b] []
    fun h l => putTy t d (if t.width ≤ h.nat b l then 0 else h.wp.src t a l / 2 ^ h.nat b l)) ∧
  (∀ g t d a b, RunsShort (.sar g t d a b) g [opd t d, opd t a, opd1 b] []
    fun h l => putTy t d (t.ofInt (h.int t a l / 2 ^ min (h.nat b l) (t.width - 1)))) ∧
  (∀ g cl d a b c, RunsShort (.fshl g cl d a b c) g [opd1 d, opd1 a, opd1 b, opd1 c] []
    fun h l => put1 d ((h.nat a l * 2 ^ 32 + h.nat b l) * 2 ^ (if cl then min (h.nat c l) 32 else h.nat c l % 32) % 2 ^ 64 / 2 ^ 32)) ∧
  (∀ g cl d a b c, RunsShort (.fshr g cl d a b c) g [opd1 d, opd1 a, opd1 b, opd1 c] []
    fun h l => put1 d ((h.nat a l * 2 ^ 32 + h.nat b l) / 2 ^ (if cl then min (h.nat c l) 32 else h.nat c l % 32) % 2 ^ 32))

/-- R269, R270: the bit-field and counting instructions complete with these functions of their sources, and each function is what the rule
says, bit by bit (`pos` and `len` are bytes 0 and 1 of the field control). -/
def Obligations.BitFieldResults : Prop :=
  (∀ g t d a f, RunsShort (.bfe g t d a f) g [opd t d, opd t a, opd1 f] []
    fun h l => putTy t d (Scalar.bfe t (h.wp.src t a l) (h.nat f l))) ∧
  (∀ g t d a b f, RunsShort (.bfi g t d a b f) g [opd t d, opd t a, opd t b, opd1 f] []
    fun h l => putTy t d (Scalar.bfi t (h.wp.src t a l) (h.wp.src t b l) (h.nat f l))) ∧
  (∀ g t d a, RunsShort (.popc g t d a) g [opd1 d, opd t a] [] fun h l => put1 d (Scalar.popc t (h.wp.src t a l))) ∧
  (∀ g t d a, RunsShort (.clz g t d a) g [opd1 d, opd t a] [] fun h l => put1 d (Scalar.clz t (h.wp.src t a l))) ∧
  (∀ g t d a, RunsShort (.brev g t d a) g [opd t d, opd t a] [] fun h l => putTy t d (Scalar.brev t (h.wp.src t a l))) ∧
  (∀ (t : Ty) (a f k : Nat), t.w32Set = true → a < 2 ^ t.width → k < t.width →
    (Scalar.bfe t a f).testBit k =
      let pos := f % 256
      let len := f / 256 % 256
      let at' := fun (i : Nat) => if i < t.width then a.testBit i else t.signed && a.testBit (t.width - 1)
      if len = 0 then false else if k < len then at' (pos + k) else t.signed && at' (pos + len - 1)) ∧
  (∀ (t : Ty) (a b f k : Nat), a < 2 ^ t.width → b < 2 ^ t.width → k < t.width →
    (Scalar.bfi t a b f).testBit k =
      let pos := f % 256
      let len := f / 256 % 256
      if pos ≤ k ∧ k < pos + len then a.testBit (k - pos) else b.testBit k) ∧
  (∀ (t : Ty) (a : Nat), Scalar.popc t a = ((List.range t.width).filter fun k => a.testBit k).length) ∧
  (∀ (t : Ty) (a : Nat), a < 2 ^ t.width → Scalar.clz t a ≤ t.width ∧ (a = 0 → Scalar.clz t a = t.width) ∧
    (a ≠ 0 → a.testBit (t.width - 1 - Scalar.clz t a) = true) ∧
    ∀ k, t.width - Scalar.clz t a ≤ k → a.testBit k = false) ∧
  (∀ (t : Ty) (a k : Nat), k < t.width → (Scalar.brev t a).testBit k = a.testBit (t.width - 1 - k))

/-- R271 to R273: compare, select, moves and LEA complete. -/
def Obligations.CompareMoveResults : Prop :=
  (∀ g c t p a b, RunsShort (.icmp g c t p a b) g [opd t a, opd t b] [p.val]
    fun h l => ⟨[], [(p.val, match c with
      | .eq => decide (h.int t a l = h.int t b l)
      | .ne => decide (h.int t a l ≠ h.int t b l)
      | .lt => decide (h.int t a l < h.int t b l)
      | .le => decide (h.int t a l ≤ h.int t b l)
      | .gt => decide (h.int t b l < h.int t a l)
      | .ge => decide (h.int t b l ≤ h.int t a l))], 0⟩) ∧
  (∀ g t d a b p, RunsShort (.sel g t d a b p) g [opd t d, opd t a, opd t b] [p.val]
    fun h l => putTy t d (if h.wp.pred p.val l then h.wp.src t a l else h.wp.src t b l)) ∧
  (∀ g t d a, RunsShort (.mov g t d a) g [opd t d, opd t a] [] fun h l => putTy t d (h.wp.src t a l)) ∧
  (∀ g t d imm, RunsShort (.movi g t d imm) g [opd t d] []
    fun _ _ => putTy t d (if t = .i64 then (imm.signExtend 64).toNat else imm.toNat)) ∧
  (∀ g t d a b sh, RunsShort (.lea g t d a b sh) g [opd2 d, opd2 a, opd1 b] []
    fun h l => ⟨regsOf d.val 2 (((h.pair a l : Int) + t.toInt (h.nat b l) * 2 ^ sh.val) % 2 ^ 64).toNat, [], 0⟩)

/-- R274, R275: VRD and VWR complete when every index names a register of the block that is not pending, each thread reading or writing
the register its own index names; with an index beyond, the group takes the illegal-operand trap and nothing is written. -/
def Obligations.IndexedRegisters : Prop :=
  ∀ (g : Guard) (a : VReg) (s : State) (h : Here),
    (∀ d, h.free s g [opd1 d, opd1 a] [] = true →
      ((∀ l ∈ h.part g, h.nat a l < 8 * h.b.rcd.vregs ∧ tget? h.wp.pend (regKey (h.nat a l) l) = none) →
        exec (.vrd g d a) s = .next (s.wrote h g fun l => ⟨[(d.val, h.wp.reg (h.nat a l) l)], [], 0⟩)) ∧
      ((∃ l ∈ h.part g, 8 * h.b.rcd.vregs ≤ h.nat a l) → exec (.vrd g d a) s =
        .next (s.trapAt h 7 (maskOf ((h.part g).filter fun l => 8 * h.b.rcd.vregs ≤ h.nat a l)) false))) ∧
    (∀ b, h.free s g [opd1 a, opd1 b] [] = true →
      ((∀ l ∈ h.part g, h.nat a l < 8 * h.b.rcd.vregs ∧ tget? h.wp.pend (regKey (h.nat a l) l) = none) →
        exec (.vwr g a b) s = .next (s.wrote h g fun l => ⟨[(h.nat a l, h.wp.reg b.val l)], [], 0⟩)) ∧
      ((∃ l ∈ h.part g, 8 * h.b.rcd.vregs ≤ h.nat a l) → exec (.vwr g a b) s =
        .next (s.trapAt h 7 (maskOf ((h.part g).filter fun l => 8 * h.b.rcd.vregs ≤ h.nat a l)) false)))

/-- R281 to R290: the floating-point instructions complete, writing the value and raising the flags of their functions; FCLASS raises
none. R284 to R290: what the functions of FMIN, FMAX, FCMP, FCLASS, FRND, the packed and the complex forms are: the lesser or greater
operand with -0 below +0; the order of the values; the class by sign, exponent and fraction; the integral value in the mode with the
sign kept; each half by itself; and a NaN of a complex operand in both parts. The rounding of the arithmetic forms is FloatRounding's. -/
def Obligations.FloatResults : Prop :=
  (((∀ prop a b, a < 2 ^ 32 → b < 2 ^ 32 → isNan32 a = false → isNan32 b = false →
      Scalar.fmin prop a b = (if ordKey a ≤ ordKey b then a else b, 0) ∧ Scalar.fmax prop a b = (if ordKey b ≤ ordKey a then a else b, 0)) ∧
    (∀ a b, isNan32 a = true → isNan32 b = false → ∀ f, f = Scalar.fmin ∨ f = Scalar.fmax →
      f false a b = (b, Flg.when (isSnan32 a) Flg.nv) ∧ f false b a = (b, Flg.when (isSnan32 a) Flg.nv) ∧
      f true a b = (a ||| 2 ^ 22, Flg.when (isSnan32 a) Flg.nv) ∧ f true b a = (a ||| 2 ^ 22, Flg.when (isSnan32 a) Flg.nv)) ∧
    (∀ prop a b, isNan32 a = true → isNan32 b = true → ∀ f, f = Scalar.fmin ∨ f = Scalar.fmax →
      f prop a b = (a ||| 2 ^ 22, Flg.when (isSnan32 a || isSnan32 b) Flg.nv))) ∧
  (∀ c a b, a < 2 ^ 32 → b < 2 ^ 32 →
    let nan := isNan32 a || isNan32 b
    Scalar.fcmp c a b = match c with
      | .eq => (!nan && decide (numKey a = numKey b), Flg.when (isSnan32 a || isSnan32 b) Flg.nv)
      | .ne => (nan || decide (numKey a ≠ numKey b), Flg.when (isSnan32 a || isSnan32 b) Flg.nv)
      | .lt => (!nan && decide (numKey a < numKey b), Flg.when nan Flg.nv)
      | .le => (!nan && decide (numKey a ≤ numKey b), Flg.when nan Flg.nv)
      | .gt => (!nan && decide (numKey b < numKey a), Flg.when nan Flg.nv)
      | .ge => (!nan && decide (numKey b ≤ numKey a), Flg.when nan Flg.nv)
      | .un => (nan, Flg.when (isSnan32 a || isSnan32 b) Flg.nv)
      | .or => (!nan, Flg.when (isSnan32 a || isSnan32 b) Flg.nv)) ∧
  (∀ (t : Fmt) (c : Nat), t = .f32 ∨ t = .f16 ∨ t = .bf16 → c < 2 * t.signBit →
    let neg := t.signBit ≤ c
    let e := c % t.signBit / 2 ^ t.f
    let frac := c % 2 ^ t.f
    Scalar.fclass t c = 2 ^ (if e = 2 ^ t.x - 1 then (if frac = 0 then (if neg then 2 else 9) else if 2 ^ (t.f - 1) ≤ frac then 1 else 0)
      else if e ≠ 0 then (if neg then 3 else 8) else if frac ≠ 0 then (if neg then 4 else 7) else if neg then 5 else 6)) ∧
  ((∀ m a, isNan32 a = true → Scalar.frnd m a = (a ||| 2 ^ 22, Flg.when (isSnan32 a) Flg.nv)) ∧
    (∀ m, Scalar.frnd m 0x7F800000 = (0x7F800000, 0) ∧ Scalar.frnd m 0xFF800000 = (0xFF800000, 0)) ∧
    (∀ m a, finiteCode .f32 a = true →
      let r := (Scalar.frnd m a).1
      let x := unitsOf .f32 a
      let one : Int := 2 ^ 149
      finiteCode .f32 r = true ∧ (Scalar.frnd m a).2 = 0 ∧ r / 2 ^ 31 = a / 2 ^ 31 ∧ one ∣ unitsOf .f32 r ∧ match m with
        | .rdn => unitsOf .f32 r = one * (x / one)
        | .rup => unitsOf .f32 r = -(one * (-x / one))
        | .rtz => (unitsOf .f32 r).natAbs = 2 ^ 149 * (x.natAbs / 2 ^ 149)
        | .rne => 2 * (unitsOf .f32 r - x).natAbs ≤ 2 ^ 149 ∧ (2 * (unitsOf .f32 r - x).natAbs = 2 ^ 149 → unitsOf .f32 r / one % 2 = 0))) ∧
  ((∀ m a b, isNan32 a = true → Scalar.fscale m a b = (a ||| 2 ^ 22, Flg.when (isSnan32 a) Flg.nv)) ∧
    (∀ m b, ∀ a ∈ [0, 0x80000000, 0x7F800000, 0xFF800000], Scalar.fscale m a b = (a, 0)) ∧
    Scalar.fscale .rne 3 0xFFFFFFFF = (2, Flg.uf ||| Flg.nx) ∧ Scalar.fscale .rup 3 0xFFFFFFFF = (2, Flg.uf ||| Flg.nx) ∧
    Scalar.fscale .rdn 3 0xFFFFFFFF = (1, Flg.uf ||| Flg.nx)) ∧
  (∀ (t : Fmt) (m : Rm) (sat : Bool) (a b c : Nat), t = .f16 ∨ t = .bf16 →
    let half := fun (q : Res) (k : Nat) => q.1 / 65536 ^ k % 65536
    let at' := fun (x k : Nat) => x / 65536 ^ k % 65536
    (∀ k, k < 2 → half (Scalar.hadd2 t m sat a b) k = (fpAdd t m sat (at' a k) (at' b k)).1 ∧
      half (Scalar.hmul2 t m sat a b) k = (fpMul t m sat (at' a k) (at' b k)).1 ∧
      half (Scalar.hfma2 t m sat a b c) k = (fpFma t m sat (at' a k) (at' b k) (at' c k)).1) ∧
    (Scalar.hadd2 t m sat a b).2 = (fpAdd t m sat (at' a 0) (at' b 0)).2 ||| (fpAdd t m sat (at' a 1) (at' b 1)).2 ∧
    (Scalar.hmul2 t m sat a b).2 = (fpMul t m sat (at' a 0) (at' b 0)).2 ||| (fpMul t m sat (at' a 1) (at' b 1)).2) ∧
  ((∀ m a b k, k < 2 →
      let xs := [a % 2 ^ 32, a / 2 ^ 32 % 2 ^ 32, b % 2 ^ 32, b / 2 ^ 32 % 2 ^ 32]
      ∀ x, xs.find? isNan32 = some x → (Scalar.complex m a b none).1 / (2 ^ 32) ^ k % 2 ^ 32 = x ||| 2 ^ 22 ∧
        (Scalar.complex m a b none).2 = Flg.when (xs.any isSnan32) Flg.nv) ∧
    Scalar.complex .rne 0x3F8000003F800800 0x3F8000003F800800 none = (0x400008003A000400, 0) ∧
    (Scalar.complex .rne 0x7F800000 0 none) = (0x7FC000007FC00000, Flg.nv) ∧
    (Scalar.complex .rne 0x3F8000007F800000 0x3F8000003F800000 none) = (0x7F8000007F800000, 0) ∧
    (Scalar.complex .rne 0x7F8000007F800000 0x3F8000003F800000 none) = (0x7F8000007FC00000, Flg.nv))) ∧
  (∀ g rm d a b, RunsFloat (.fadd g rm d a b) g [opd1 d, opd1 a, opd1 b] []
    fun h l => putRes d 1 (fpAdd .f32 rm false (h.nat a l) (h.nat b l))) ∧
  (∀ g rm d a b, RunsFloat (.fsub g rm d a b) g [opd1 d, opd1 a, opd1 b] []
    fun h l => putRes d 1 (fpSub .f32 rm false (h.nat a l) (h.nat b l))) ∧
  (∀ g rm d a b, RunsFloat (.fmul g rm d a b) g [opd1 d, opd1 a, opd1 b] []
    fun h l => putRes d 1 (fpMul .f32 rm false (h.nat a l) (h.nat b l))) ∧
  (∀ g rm d a b, RunsFloat (.fscale g rm d a b) g [opd1 d, opd1 a, opd1 b] []
    fun h l => putRes d 1 (Scalar.fscale rm (h.nat a l) (h.nat b l))) ∧
  (∀ g rm d a b c, RunsFloat (.ffma g rm d a b c) g [opd1 d, opd1 a, opd1 b, opd1 c] []
    fun h l => putRes d 1 (fpFma .f32 rm false (h.nat a l) (h.nat b l) (h.nat c l))) ∧
  (∀ g prop d a b, RunsFloat (.fmin g prop d a b) g [opd1 d, opd1 a, opd1 b] []
    fun h l => putRes d 1 (Scalar.fmin prop (h.nat a l) (h.nat b l))) ∧
  (∀ g prop d a b, RunsFloat (.fmax g prop d a b) g [opd1 d, opd1 a, opd1 b] []
    fun h l => putRes d 1 (Scalar.fmax prop (h.nat a l) (h.nat b l))) ∧
  (∀ g c p a b, RunsFloat (.fcmp g c p a b) g [opd1 a, opd1 b] [p.val]
    fun h l => ⟨[], [(p.val, (Scalar.fcmp c (h.nat a l) (h.nat b l)).1)], (Scalar.fcmp c (h.nat a l) (h.nat b l)).2⟩) ∧
  (∀ g rm d a, RunsFloat (.frnd g rm d a) g [opd1 d, opd1 a] []
    fun h l => putRes d 1 (Scalar.frnd rm (h.nat a l))) ∧
  (∀ g t rm sat d a b, RunsFloat (.hadd2 g t rm sat d a b) g [opd1 d, opd1 a, opd1 b] []
    fun h l => putRes d 1 (Scalar.hadd2 (t.fmt.getD .f16) rm sat (h.nat a l) (h.nat b l))) ∧
  (∀ g t rm sat d a b, RunsFloat (.hmul2 g t rm sat d a b) g [opd1 d, opd1 a, opd1 b] []
    fun h l => putRes d 1 (Scalar.hmul2 (t.fmt.getD .f16) rm sat (h.nat a l) (h.nat b l))) ∧
  (∀ g t rm sat d a b c, RunsFloat (.hfma2 g t rm sat d a b c) g [opd1 d, opd1 a, opd1 b, opd1 c] []
    fun h l => putRes d 1 (Scalar.hfma2 (t.fmt.getD .f16) rm sat (h.nat a l) (h.nat b l) (h.nat c l))) ∧
  (∀ g rm d a b, RunsFloat (.cmul g rm d a b) g [opd2 d, opd2 a, opd2 b] []
    fun h l => putRes d 2 (Scalar.complex rm (h.pair a l) (h.pair b l) none)) ∧
  (∀ g rm d a b c, RunsFloat (.cfma g rm d a b c) g [opd2 d, opd2 a, opd2 b, opd2 c] []
    fun h l => putRes d 2 (Scalar.complex rm (h.pair a l) (h.pair b l) (some (h.pair c l)))) ∧
  (∀ g t d a, RunsShort (.fclass g t d a) g [opd1 d, opd1 a] []
    fun h l => put1 d (Scalar.fclass (t.fmt.getD .f32) (h.nat a l % 2 ^ t.width)))

/-- R295: each of them, its results written, takes the trap of the lowest enabled cause that an active thread raised, with %tdst naming
its destination. R295: which trap: the lowest enabled of NV, DZ and OF (causes 1 to 3) that a thread raised, with the mask of those
threads; none where no enabled flag was raised. -/
def Obligations.FloatTraps : Prop :=
  ((∀ g rm d a b, TrapsFloat (.fadd g rm d a b) g [opd1 d, opd1 a, opd1 b] []
    (fun h l => putRes d 1 (fpAdd .f32 rm false (h.nat a l) (h.nat b l))) (tdstReg d)) ∧
  (∀ g rm d a b, TrapsFloat (.fsub g rm d a b) g [opd1 d, opd1 a, opd1 b] []
    (fun h l => putRes d 1 (fpSub .f32 rm false (h.nat a l) (h.nat b l))) (tdstReg d)) ∧
  (∀ g rm d a b, TrapsFloat (.fmul g rm d a b) g [opd1 d, opd1 a, opd1 b] []
    (fun h l => putRes d 1 (fpMul .f32 rm false (h.nat a l) (h.nat b l))) (tdstReg d)) ∧
  (∀ g rm d a b, TrapsFloat (.fscale g rm d a b) g [opd1 d, opd1 a, opd1 b] []
    (fun h l => putRes d 1 (Scalar.fscale rm (h.nat a l) (h.nat b l))) (tdstReg d)) ∧
  (∀ g rm d a b c, TrapsFloat (.ffma g rm d a b c) g [opd1 d, opd1 a, opd1 b, opd1 c] []
    (fun h l => putRes d 1 (fpFma .f32 rm false (h.nat a l) (h.nat b l) (h.nat c l))) (tdstReg d)) ∧
  (∀ g prop d a b, TrapsFloat (.fmin g prop d a b) g [opd1 d, opd1 a, opd1 b] []
    (fun h l => putRes d 1 (Scalar.fmin prop (h.nat a l) (h.nat b l))) (tdstReg d)) ∧
  (∀ g prop d a b, TrapsFloat (.fmax g prop d a b) g [opd1 d, opd1 a, opd1 b] []
    (fun h l => putRes d 1 (Scalar.fmax prop (h.nat a l) (h.nat b l))) (tdstReg d)) ∧
  (∀ g c p a b, TrapsFloat (.fcmp g c p a b) g [opd1 a, opd1 b] [p.val]
    (fun h l => ⟨[], [(p.val, (Scalar.fcmp c (h.nat a l) (h.nat b l)).1)], (Scalar.fcmp c (h.nat a l) (h.nat b l)).2⟩) (BitVec.ofNat 32 (0x100 + p.val))) ∧
  (∀ g rm d a, TrapsFloat (.frnd g rm d a) g [opd1 d, opd1 a] []
    (fun h l => putRes d 1 (Scalar.frnd rm (h.nat a l))) (tdstReg d)) ∧
  (∀ g t rm sat d a b, TrapsFloat (.hadd2 g t rm sat d a b) g [opd1 d, opd1 a, opd1 b] []
    (fun h l => putRes d 1 (Scalar.hadd2 (t.fmt.getD .f16) rm sat (h.nat a l) (h.nat b l))) (tdstReg d)) ∧
  (∀ g t rm sat d a b, TrapsFloat (.hmul2 g t rm sat d a b) g [opd1 d, opd1 a, opd1 b] []
    (fun h l => putRes d 1 (Scalar.hmul2 (t.fmt.getD .f16) rm sat (h.nat a l) (h.nat b l))) (tdstReg d)) ∧
  (∀ g t rm sat d a b c, TrapsFloat (.hfma2 g t rm sat d a b c) g [opd1 d, opd1 a, opd1 b, opd1 c] []
    (fun h l => putRes d 1 (Scalar.hfma2 (t.fmt.getD .f16) rm sat (h.nat a l) (h.nat b l) (h.nat c l))) (tdstReg d)) ∧
  (∀ g rm d a b, TrapsFloat (.cmul g rm d a b) g [opd2 d, opd2 a, opd2 b] []
    (fun h l => putRes d 2 (Scalar.complex rm (h.pair a l) (h.pair b l) none)) (tdstReg d)) ∧
  (∀ g rm d a b c, TrapsFloat (.cfma g rm d a b c) g [opd2 d, opd2 a, opd2 b, opd2 c] []
    (fun h l => putRes d 2 (Scalar.complex rm (h.pair a l) (h.pair b l) (some (h.pair c l)))) (tdstReg d))) ∧
  (∀ (flags : Nat) (fxs : List (Nat × Flg)), (∀ x ∈ fxs, x.1 < 32) →
    let raised := fun (k : Nat) => maskOf ((fxs.filter fun x => bit x.2 (k - 1)).map Prod.fst)
    let on := fun (k : Nat) => flags.testBit (k - 1) = true ∧ raised k ≠ 0
    (∀ k m, fpCause flags fxs = some (k, m) ↔ (1 ≤ k ∧ k ≤ 3 ∧ on k ∧ m = raised k ∧ ∀ j, 1 ≤ j → j < k → ¬ on j)) ∧
    (fpCause flags fxs = none ↔ ∀ k, 1 ≤ k → k ≤ 3 → ¬ on k))

/-- R291 to R293: a special function issues into the warp's special-function queue with its value formed; with a trap enabled it completes
before anything else of its warp issues (R145). R291, R292: the special inputs of each function; RCP and, in the modes RTZ and RDN, SQRT
correctly rounded; the exact results of LOG2, EXP2, SINPI and COSPI; SINCOSPI both parts. -/
def Obligations.SpecialFunctions : Prop :=
  (∀ g l rm d a, RunsLongFloat (.rcp g l rm d a) g l 1 [(d.val, 1), opd1 a] []
      (perLane fun h j => putRes d 1 (fRcp rm (h.nat a j))) ∧
    RunsHeld (.rcp g l rm d a) g l 1 [(d.val, 1), opd1 a]
      (perLane fun h j => putRes d 1 (fRcp rm (h.nat a j))) (tdstReg d)) ∧
  (∀ g l rm d a, RunsLongFloat (.rsq g l rm d a) g l 1 [(d.val, 1), opd1 a] []
      (perLane fun h j => putRes d 1 (fRsq rm (h.nat a j))) ∧
    RunsHeld (.rsq g l rm d a) g l 1 [(d.val, 1), opd1 a]
      (perLane fun h j => putRes d 1 (fRsq rm (h.nat a j))) (tdstReg d)) ∧
  (∀ g l rm d a, RunsLongFloat (.sqrt g l rm d a) g l 1 [(d.val, 1), opd1 a] []
      (perLane fun h j => putRes d 1 (fSqrt rm (h.nat a j))) ∧
    RunsHeld (.sqrt g l rm d a) g l 1 [(d.val, 1), opd1 a]
      (perLane fun h j => putRes d 1 (fSqrt rm (h.nat a j))) (tdstReg d)) ∧
  (∀ g l rm d a, RunsLongFloat (.exp2 g l rm d a) g l 1 [(d.val, 1), opd1 a] []
      (perLane fun h j => putRes d 1 (fExp2 rm (h.nat a j))) ∧
    RunsHeld (.exp2 g l rm d a) g l 1 [(d.val, 1), opd1 a]
      (perLane fun h j => putRes d 1 (fExp2 rm (h.nat a j))) (tdstReg d)) ∧
  (∀ g l rm d a, RunsLongFloat (.log2 g l rm d a) g l 1 [(d.val, 1), opd1 a] []
      (perLane fun h j => putRes d 1 (fLog2 rm (h.nat a j))) ∧
    RunsHeld (.log2 g l rm d a) g l 1 [(d.val, 1), opd1 a]
      (perLane fun h j => putRes d 1 (fLog2 rm (h.nat a j))) (tdstReg d)) ∧
  (∀ g l rm d a, RunsLongFloat (.sinpi g l rm d a) g l 1 [(d.val, 1), opd1 a] []
      (perLane fun h j => putRes d 1 (fSinpi rm (h.nat a j))) ∧
    RunsHeld (.sinpi g l rm d a) g l 1 [(d.val, 1), opd1 a]
      (perLane fun h j => putRes d 1 (fSinpi rm (h.nat a j))) (tdstReg d)) ∧
  (∀ g l rm d a, RunsLongFloat (.cospi g l rm d a) g l 1 [(d.val, 1), opd1 a] []
      (perLane fun h j => putRes d 1 (fCospi rm (h.nat a j))) ∧
    RunsHeld (.cospi g l rm d a) g l 1 [(d.val, 1), opd1 a]
      (perLane fun h j => putRes d 1 (fCospi rm (h.nat a j))) (tdstReg d)) ∧
  (∀ g l rm d a, RunsLongFloat (.sincospi g l rm d a) g l 1 [(d.val, 2), opd1 a] []
      (perLane fun h j => putRes d 2 (Scalar.sincospi rm (h.nat a j))) ∧
    RunsHeld (.sincospi g l rm d a) g l 1 [(d.val, 2), opd1 a]
      (perLane fun h j => putRes d 2 (Scalar.sincospi rm (h.nat a j))) (tdstReg d)) ∧
  (∀ g l rm d a, RunsLongFloat (.tanh g l rm d a) g l 1 [(d.val, 1), opd1 a] []
      (perLane fun h j => putRes d 1 (fTanh rm (h.nat a j))) ∧
    RunsHeld (.tanh g l rm d a) g l 1 [(d.val, 1), opd1 a]
      (perLane fun h j => putRes d 1 (fTanh rm (h.nat a j))) (tdstReg d)) ∧
  ((∀ rm, ∀ f ∈ [fRcp, fRsq, fSqrt, fExp2, fLog2, fSinpi, fCospi, fTanh], ∀ x, x < 2 ^ 32 → isNan32 x = true →
      f rm x = (x ||| 2 ^ 22, Flg.when (isSnan32 x) Flg.nv)) ∧
    (∀ rm, fRcp rm 0 = (0x7F800000, Flg.dz) ∧ fRcp rm 0x80000000 = (0xFF800000, Flg.dz) ∧ fRcp rm 0x7F800000 = (0, 0) ∧ fRcp rm 0xFF800000 = (0x80000000, 0) ∧
      fRsq rm 0 = (0x7F800000, Flg.dz) ∧ fRsq rm 0x80000000 = (0xFF800000, Flg.dz) ∧ fRsq rm 0x7F800000 = (0, 0) ∧
      fSqrt rm 0 = (0, 0) ∧ fSqrt rm 0x80000000 = (0x80000000, 0) ∧ fSqrt rm 0x7F800000 = (0x7F800000, 0) ∧
      fExp2 rm 0 = (0x3F800000, 0) ∧ fExp2 rm 0x80000000 = (0x3F800000, 0) ∧ fExp2 rm 0x7F800000 = (0x7F800000, 0) ∧ fExp2 rm 0xFF800000 = (0, 0) ∧
      fLog2 rm 0 = (0xFF800000, Flg.dz) ∧ fLog2 rm 0x80000000 = (0xFF800000, Flg.dz) ∧ fLog2 rm 0x7F800000 = (0x7F800000, 0) ∧ fLog2 rm 0x3F800000 = (0, 0) ∧
      fTanh rm 0 = (0, 0) ∧ fTanh rm 0x80000000 = (0x80000000, 0) ∧ fTanh rm 0x7F800000 = (0x3F800000, 0) ∧ fTanh rm 0xFF800000 = (0xBF800000, 0) ∧
      fSinpi rm 0 = (0, 0) ∧ fSinpi rm 0x80000000 = (0x80000000, 0) ∧ fCospi rm 0 = (0x3F800000, 0) ∧ fCospi rm 0x80000000 = (0x3F800000, 0) ∧
      ∀ x ∈ [0x7F800000, 0xFF800000], fSinpi rm x = (0x7FC00000, Flg.nv) ∧ fCospi rm x = (0x7FC00000, Flg.nv)) ∧
    (∀ rm x, 2 ^ 31 < x → x ≤ 0xFF800000 → fRsq rm x = (0x7FC00000, Flg.nv) ∧ fSqrt rm x = (0x7FC00000, Flg.nv) ∧ fLog2 rm x = (0x7FC00000, Flg.nv)) ∧
    (∀ rm x, finiteCode .f32 x = true → unitsOf .f32 x ≠ 0 →
      correctly .f32 rm (unitsOf .f32 x).natAbs (2 ^ 298 * (unitsOf .f32 x).sign) (fRcp rm x) ∧
      ((2 ^ 149 : Int) ∣ unitsOf .f32 x → fSinpi rm x = (if x < 2 ^ 31 then 0 else 0x80000000, 0)) ∧
      (unitsOf .f32 x % (2 ^ 149 : Int) = 2 ^ 148 → fCospi rm x = (0, 0)) ∧
      (0 < unitsOf .f32 x → let r := (fSqrt rm x).1
        finiteCode .f32 r = true ∧ bit (fSqrt rm x).2 4 = decide (unitsOf .f32 r * unitsOf .f32 r ≠ 2 ^ 149 * unitsOf .f32 x) ∧
        (rm = .rtz ∨ rm = .rdn → unitsOf .f32 r * unitsOf .f32 r ≤ 2 ^ 149 * unitsOf .f32 x ∧
          2 ^ 149 * unitsOf .f32 x < unitsOf .f32 (r + 1) * unitsOf .f32 (r + 1)))) ∧
    (∀ rm (k : Int), -126 ≤ k → k ≤ 127 → ∀ x, finiteCode .f32 x = true → unitsOf .f32 x = 2 ^ (k + 149).toNat →
      (fLog2 rm x).2 = 0 ∧ unitsOf .f32 (fLog2 rm x).1 = 2 ^ 149 * k ∧
      ∀ y, finiteCode .f32 y = true → unitsOf .f32 y = 2 ^ 149 * k → fExp2 rm y = (x, 0)) ∧
    (∀ rm a, (Scalar.sincospi rm a).2 = (fSinpi rm a).2 ||| (fCospi rm a).2 ∧
      ((fSinpi rm a).1 < 2 ^ 32 → (Scalar.sincospi rm a).1 % 2 ^ 32 = (fSinpi rm a).1 ∧ (Scalar.sincospi rm a).1 / 2 ^ 32 = (fCospi rm a).1)))

/-- R261, R277 to R280: a conversion that involves a narrow floating format issues into the warp's conversion queue, every other one
completes at once. R277: between integers, from an integer to f32, from f32 to an integer and to the narrow formats, and from those to f32,
what it gives; R278 and R280: their tables; R279: how PACK joins its elements. -/
def Obligations.Conversions : Prop :=
  (∀ g l t src rm sat d a, (t.isNarrow || src.isNarrow) = false →
    RunsFloat (.cvt g l t src rm sat d a) g [opd t d, opd src a] [] (fun h j => putRes d t.regs (cvt t src rm sat (h.wp.src src a j))) ∧
    TrapsFloat (.cvt g l t src rm sat d a) g [opd t d, opd src a] [] (fun h j => putRes d t.regs (cvt t src rm sat (h.wp.src src a j))) (tdstReg d)) ∧
  (∀ g l t src rm sat d a, (t.isNarrow || src.isNarrow) = true →
    RunsLongFloat (.cvt g l t src rm sat d a) g l 2 [opd t d, opd src a] []
      (perLane fun h j => putRes d t.regs (cvt t src rm sat (h.wp.src src a j))) ∧
    RunsHeld (.cvt g l t src rm sat d a) g l 2 [opd t d, opd src a]
      (perLane fun h j => putRes d t.regs (cvt t src rm sat (h.wp.src src a j))) (tdstReg d)) ∧
  (∀ g l t src rm sat x d a b, (t.isNarrow || src.isNarrow) = false →
    RunsFloat (.pack g l t src rm sat x d a b) g [opd1 d, opd1 a, opd1 b] [] (fun h j => putRes d 1 (pack t src rm sat x (h.nat d j) (h.nat a j) (h.nat b j))) ∧
    TrapsFloat (.pack g l t src rm sat x d a b) g [opd1 d, opd1 a, opd1 b] [] (fun h j => putRes d 1 (pack t src rm sat x (h.nat d j) (h.nat a j) (h.nat b j))) (tdstReg d)) ∧
  (∀ g l t src rm sat x d a b, (t.isNarrow || src.isNarrow) = true →
    RunsLongFloat (.pack g l t src rm sat x d a b) g l 2 [opd1 d, opd1 a, opd1 b] []
      (perLane fun h j => putRes d 1 (pack t src rm sat x (h.nat d j) (h.nat a j) (h.nat b j))) ∧
    RunsHeld (.pack g l t src rm sat x d a b) g l 2 [opd1 d, opd1 a, opd1 b]
      (perLane fun h j => putRes d 1 (pack t src rm sat x (h.nat d j) (h.nat a j) (h.nat b j))) (tdstReg d)) ∧
  (∀ g l t src e d a, (t.isNarrow || src.isNarrow) = false →
    RunsFloat (.unpack g l t src e d a) g [opd1 d, opd1 a] [] (fun h j => putRes d 1 (unpack src e.val (h.nat a j))) ∧
    TrapsFloat (.unpack g l t src e d a) g [opd1 d, opd1 a] [] (fun h j => putRes d 1 (unpack src e.val (h.nat a j))) (tdstReg d)) ∧
  (∀ g l t src e d a, (t.isNarrow || src.isNarrow) = true →
    RunsLongFloat (.unpack g l t src e d a) g l 2 [opd1 d, opd1 a] []
      (perLane fun h j => putRes d 1 (unpack src e.val (h.nat a j))) ∧
    RunsHeld (.unpack g l t src e d a) g l 2 [opd1 d, opd1 a]
      (perLane fun h j => putRes d 1 (unpack src e.val (h.nat a j))) (tdstReg d)) ∧
  ((∀ (t s : Ty) m sat raw, t.isInt = true → s.isInt = true → cvt t s m sat raw =
      (t.ofInt (if sat then max t.minInt (min t.maxInt (s.toInt raw)) else s.toInt raw), 0)) ∧
    (∀ (s : Ty) m sat raw, s.isInt = true → correctly .f32 m 1 (2 ^ 149 * s.toInt raw) (cvt .f32 s m sat raw)) ∧
    (∀ (t : Ty) m sat x, t.isInt = true → isNan32 x = true → x < 2 ^ 32 → cvt t .f32 m sat x = (0, Flg.nv)) ∧
    (∀ (t : Ty) m sat, t.isInt = true → cvt t .f32 m sat 0x7F800000 = (t.ofInt t.maxInt, Flg.nv) ∧ cvt t .f32 m sat 0xFF800000 = (t.ofInt t.minInt, Flg.nv)) ∧
    (∀ (t : Ty) m sat x, t.isInt = true → finiteCode .f32 x = true →
      let v := unitsOf .f32 x
      let one : Int := 2 ^ 149
      ∃ n : Int, (match m with
        | .rdn => n = v / one
        | .rup => n = -(-v / one)
        | .rtz => n.natAbs = v.natAbs / 2 ^ 149 ∧ 0 ≤ n * v
        | .rne => 2 * (one * n - v).natAbs ≤ 2 ^ 149 ∧ (2 * (one * n - v).natAbs = 2 ^ 149 → n % 2 = 0)) ∧
        cvt t .f32 m sat x = (if t.maxInt < n then (t.ofInt t.maxInt, Flg.nv) else if n < t.minInt then (t.ofInt t.minInt, Flg.nv)
          else (t.ofInt n, Flg.when (decide (one * n ≠ v)) Flg.nx))) ∧
    (∀ m x, finiteCode .f32 x = true →
      (∀ sat, correctly .f16 m (2 ^ 125) (unitsOf .f32 x) (cvt .f16 .f32 m sat x) ∧ correctly .bf16 m (2 ^ 16) (unitsOf .f32 x) (cvt .bf16 .f32 m sat x)) ∧
      correctly .e4m3 m (2 ^ 140) (unitsOf .f32 x) (cvt .e4m3 .f32 m false x) ∧ correctly .e5m2 m (2 ^ 133) (unitsOf .f32 x) (cvt .e5m2 .f32 m false x)) ∧
    (∀ m sat c, (finiteCode .f16 c = true → (cvt .f32 .f16 m sat c).2 = 0 ∧ unitsOf .f32 (cvt .f32 .f16 m sat c).1 = 2 ^ 125 * unitsOf .f16 c) ∧
      (finiteCode .bf16 c = true → cvt .f32 .bf16 m sat c = (65536 * c, 0)) ∧
      (finiteCode .e4m3 c = true → (cvt .f32 .e4m3 m sat c).2 = 0 ∧ unitsOf .f32 (cvt .f32 .e4m3 m sat c).1 = 2 ^ 140 * unitsOf .e4m3 c) ∧
      (128 ≤ c → c < 256 → cvt .f32 .ue4m3 m sat c = (0x7FC00000, Flg.nv))) ∧
    (cvt .i32 .f32 .rtz false 0xC0200000 = (0xFFFFFFFE, Flg.nx) ∧ cvt .i32 .f32 .rne false 0xC0200000 = (0xFFFFFFFE, Flg.nx) ∧
      cvt .i32 .f32 .rdn false 0xC0200000 = (0xFFFFFFFD, Flg.nx) ∧ cvt .i32 .f32 .rne false 0x4F32D05E = (0x7FFFFFFF, Flg.nv) ∧
      cvt .f32 .i32 .rne false 0x01000001 = (0x4B800000, Flg.nx) ∧ cvt .e4m3 .f32 .rne false 0x43FA0000 = (0x7E, Flg.of ||| Flg.nx) ∧
      cvt .e5m2 .f32 .rne false 0x7F900000 = (0x7E, 0) ∧ cvt .f32 .e5m2 .rne false 0xFD = (0xFFA00000, 0) ∧
      cvt .n8 .i32 .rne true 0xFFFFFF9C = (0, 0) ∧ cvt .n8 .i32 .rne false 0xFFFFFF9C = (0x9C, 0)) ∧
    (∀ (t s : Ty) m sat h old a b, (t.width = 16 → (pack t s m sat h old a b).1 = (cvt t s m sat b).1 % 65536 * 65536 + (cvt t s m sat a).1 % 65536) ∧
      (t.width = 8 → old < 2 ^ 32 → ∀ k, k < 2 → (pack t s m sat h old a b).1 / 65536 ^ k % 65536 =
        if k = h.toNat then (cvt t s m sat b).1 % 256 * 256 + (cvt t s m sat a).1 % 256 else old / 65536 ^ k % 65536) ∧
      (pack t s m sat h old a b).2 = (cvt t s m sat a).2 ||| (cvt t s m sat b).2) ∧
    (unpack .e4m3 0 0x7F803F41 = (0x40100000, 0) ∧ unpack .e4m3 1 0x7F803F41 = (0x3FF00000, 0) ∧ unpack .e4m3 2 0x7F803F41 = (0x80000000, 0) ∧
      unpack .e4m3 3 0x7F803F41 = (0x7FC00000, 0) ∧ unpack .ue4m3 2 0x7F803F41 = (0x7FC00000, Flg.nv)))

/-- R187: the four rounding modes on `n / 2^sh`: to nearest with ties to even, towards zero, up and down by sign, and the inexact mark.
R283: the special values of the f32 arithmetic forms: a NaN operand is selected by R189, infinities that cancel and zero times infinity
are invalid, zero sums take their sign from the mode, and DZ is never raised. R190, R282, R283, R288 to R290: sums, differences, products,
fused sums, scaled values and complex parts of finite operands are correctly rounded, in f32 and in the packed formats. -/
def Obligations.FloatRounding : Prop :=
  (∀ (neg : Bool) (n sh : Nat) (e : Int),
    (∀ m, (roundAt m neg ⟨n, e, false⟩ (e + sh)).2 = decide (n % 2 ^ sh ≠ 0)) ∧
    (roundAt .rtz neg ⟨n, e, false⟩ (e + sh)).1 = n / 2 ^ sh ∧
    (roundAt .rup neg ⟨n, e, false⟩ (e + sh)).1 = (if neg then n / 2 ^ sh else (n + 2 ^ sh - 1) / 2 ^ sh) ∧
    (roundAt .rdn neg ⟨n, e, false⟩ (e + sh)).1 = (if neg then (n + 2 ^ sh - 1) / 2 ^ sh else n / 2 ^ sh) ∧
    let r := (roundAt .rne neg ⟨n, e, false⟩ (e + sh)).1
    2 * n ≤ (2 * r + 1) * 2 ^ sh ∧ 2 * r * 2 ^ sh ≤ 2 * n + 2 ^ sh ∧
      (2 * n = (2 * r + 1) * 2 ^ sh ∨ 2 * r * 2 ^ sh = 2 * n + 2 ^ sh → r % 2 = 0)) ∧
  ((∀ m a b, (Fmt.decode .f32 a).isNan = true → (fpAdd .f32 m false a b).1 = a ||| 2 ^ 22 ∧
    (fpSub .f32 m false a b).1 = a ||| 2 ^ 22 ∧ (fpMul .f32 m false a b).1 = a ||| 2 ^ 22 ∧
    ∀ c, (fpFma .f32 m false a b c).1 = a ||| 2 ^ 22) ∧
  (∀ m a b, (Fmt.decode .f32 a).isNan = false → (Fmt.decode .f32 b).isNan = true → (fpAdd .f32 m false a b).1 = b ||| 2 ^ 22 ∧
    (fpSub .f32 m false a b).1 = b ||| 2 ^ 22 ∧ (fpMul .f32 m false a b).1 = b ||| 2 ^ 22 ∧
    ∀ c, (fpFma .f32 m false a b c).1 = b ||| 2 ^ 22) ∧
  (∀ m a b c, (Fmt.decode .f32 a).isNan = false → (Fmt.decode .f32 b).isNan = false → (Fmt.decode .f32 c).isNan = true →
    (fpFma .f32 m false a b c).1 = c ||| 2 ^ 22) ∧
  (∀ m a b, (Fmt.decode .f32 a).isSnan = true ∨ (Fmt.decode .f32 b).isSnan = true →
    (fpAdd .f32 m false a b).2 = Flg.nv ∧ (fpSub .f32 m false a b).2 = Flg.nv ∧ (fpMul .f32 m false a b).2 = Flg.nv) ∧
  (∀ m, fpAdd .f32 m false 0x7F800000 0xFF800000 = (0x7FC00000, Flg.nv) ∧
    fpAdd .f32 m false 0xFF800000 0x7F800000 = (0x7FC00000, Flg.nv) ∧
    fpSub .f32 m false 0x7F800000 0x7F800000 = (0x7FC00000, Flg.nv) ∧
    fpMul .f32 m false 0 0x7F800000 = (0x7FC00000, Flg.nv) ∧ fpMul .f32 m false 0xFF800000 0x80000000 = (0x7FC00000, Flg.nv) ∧
    ∀ c, (Fmt.decode .f32 c).isNan = false → fpFma .f32 m false 0x7F800000 0 c = (0x7FC00000, Flg.nv)) ∧
  (∀ m, fpAdd .f32 m false 0 0x80000000 = (if m = .rdn then 0x80000000 else 0, 0) ∧
    fpAdd .f32 m false 0x80000000 0x80000000 = (0x80000000, 0) ∧ fpAdd .f32 m false 0 0 = (0, 0)) ∧
  (∀ m a, (Fmt.decode .f32 a).isNan = false → (Fmt.decode .f32 a).isInf = false →
    fpSub .f32 m false a a = (if m = .rdn then 0x80000000 else 0, 0)) ∧
  (∀ m a b, bit (fpAdd .f32 m false a b).2 1 = false ∧ bit (fpSub .f32 m false a b).2 1 = false ∧
    bit (fpMul .f32 m false a b).2 1 = false ∧ ∀ c, bit (fpFma .f32 m false a b c).2 1 = false)) ∧
  (∀ (t : Fmt) m sat a b c, t = .f32 ∨ t = .f16 ∨ t = .bf16 → finiteCode t a = true → finiteCode t b = true → finiteCode t c = true →
    let x := unitsOf t a
    let y := unitsOf t b
    correctly t m 1 (x + y) (fpAdd t m sat a b) ∧ correctly t m 1 (x - y) (fpSub t m sat a b) ∧
    correctly t m (unitsOfOne t) (x * y) (fpMul t m sat a b) ∧
    correctly t m (unitsOfOne t) (x * y + unitsOfOne t * unitsOf t c) (fpFma t m sat a b c) ∧
    ((unitsOf t t.maxCode).natAbs + 2 ^ (2 ^ t.x - 3) ≤ (x + y).natAbs → fpAdd t m sat a b = (t.withSign (decide (x + y < 0))
      (if sat ∨ m = .rtz ∨ (m = .rup ∧ x + y < 0) ∨ (m = .rdn ∧ 0 < x + y) then t.maxCode else t.infCode), Flg.of ||| Flg.nx))) ∧
  (∀ m a b, finiteCode .f32 a = true →
    let n := Ty.toInt .i32 b
    (0 ≤ n → correctly .f32 m 1 (unitsOf .f32 a * 2 ^ n.toNat) (Scalar.fscale m a b)) ∧
    (n < 0 → correctly .f32 m (2 ^ (-n).toNat) (unitsOf .f32 a) (Scalar.fscale m a b))) ∧
  (∀ m ar ai br bi, (∀ z ∈ [ar, ai, br, bi], finiteCode .f32 z = true) →
    let u := unitsOf .f32
    let q := Scalar.complex m (ai * 2 ^ 32 + ar) (bi * 2 ^ 32 + br) none
    let re := u ar * u br - u ai * u bi
    let im := u ar * u bi + u ai * u br
    (inRange .f32 (2 ^ 149) re → roundsTo .f32 m (2 ^ 149) re (q.1 % 2 ^ 32)) ∧ (inRange .f32 (2 ^ 149) im → roundsTo .f32 m (2 ^ 149) im (q.1 / 2 ^ 32)) ∧
    ∀ cr ci, finiteCode .f32 cr = true → finiteCode .f32 ci = true →
      let q := Scalar.complex m (ai * 2 ^ 32 + ar) (bi * 2 ^ 32 + br) (some (ci * 2 ^ 32 + cr))
      (inRange .f32 (2 ^ 149) (re + 2 ^ 149 * u cr) → roundsTo .f32 m (2 ^ 149) (re + 2 ^ 149 * u cr) (q.1 % 2 ^ 32)) ∧
      (inRange .f32 (2 ^ 149) (im + 2 ^ 149 * u ci) → roundsTo .f32 m (2 ^ 149) (im + 2 ^ 149 * u ci) (q.1 / 2 ^ 32)))

/-- R305, R306: the votes and shuffles issue with the results that the participating threads' values give. -/
def Obligations.CrossLaneResults : Prop :=
  (∀ g l inv d p, RunsLong (.ballot g l inv d p) g l 0 [opd1 d] [p.val]
    fun h ls => ls.map fun k => (k, ⟨[(d.val, maskOf (ls.filter fun j => h.wp.pred p.val j != inv))], [], 0⟩)) ∧
  (∀ g l op pd ps, RunsLong (.vote g l op pd ps) g l 0 [] [pd.val, ps.val]
    fun h ls => ls.map fun k => (k, ⟨[], [(pd.val, match op with
      | .every => decide (∀ j ∈ ls, h.wp.pred ps.val j = true)
      | .some => decide (∃ j ∈ ls, h.wp.pred ps.val j = true)
      | .none => decide (∀ j ∈ ls, h.wp.pred ps.val j = false)
      | .agree => decide (∀ j ∈ ls, ∀ j' ∈ ls, h.wp.pred ps.val j = h.wp.pred ps.val j'))], 0⟩)) ∧
  (∀ g l t d a, RunsLong (.matchLanes g l t d a) g l 0 [opd1 d, opd t a] []
    fun h ls => ls.map fun k => (k, ⟨[(d.val, maskOf (ls.filter fun j => h.wp.src t a j == h.wp.src t a k))], [], 0⟩)) ∧
  (∀ g l op logw d a b, RunsLong (.shfl g l op logw d a b) g l 0 [opd1 d, opd1 a, opd1 b] []
    fun h ls => ls.map fun j =>
      let w := 2 ^ logw.val
      let base := j - j % w
      let k := h.nat b j
      let src := match op with
        | .idx => base + k % w
        | .up => if k ≤ j - base then j - k else j
        | .down => if k < base + w - j then j + k else j
        | .xor => j ^^^ (k % w)
      (j, ⟨[(d.val, h.wp.reg a.val (if ls.contains src then src else j))], [], 0⟩))

/-- R307: REDUX and SCAN issue with the reduction over the participating threads, in ascending order; the f32 forms raise flags and hold
their warp when a trap is enabled. R307: what the integer reductions are: the sum modulo 2^32, the least and the greatest element, the
bitwise joins, and the exclusive identities for no element. R307: what the f32 reductions are: the exact sum rounded once, with its zeros,
infinities and NaNs, and the least and greatest element, NaNs passed over. -/
def Obligations.Reductions : Prop :=
  ((∀ g l op t rm d a,
    let fx := fun (h : Here) (ls : List Nat) => ls.map fun k => (k, putRes d 1 (reduce op t rm (ls.map fun j => h.nat a j)))
    (t ≠ .f32 → RunsLong (.redux g l op t rm d a) g l 0 [opd1 d, opd1 a] [] fx) ∧
    (t = .f32 → RunsLongFloat (.redux g l op t rm d a) g l 0 [opd1 d, opd1 a] [] fx ∧
      RunsHeld (.redux g l op t rm d a) g l 0 [opd1 d, opd1 a] fx (tdstReg d))) ∧
  (∀ g l op t excl rm d a,
    let fx := fun (h : Here) (ls : List Nat) => ls.map fun k =>
      (k, putRes d 1 (reduce op t rm ((ls.filter fun j => decide (j < k) || (!excl && j == k)).map fun j => h.nat a j)))
    (t ≠ .f32 → RunsLong (.scan g l op t excl rm d a) g l 0 [opd1 d, opd1 a] [] fx) ∧
    (t = .f32 → RunsLongFloat (.scan g l op t excl rm d a) g l 0 [opd1 d, opd1 a] [] fx ∧
      RunsHeld (.scan g l op t excl rm d a) g l 0 [opd1 d, opd1 a] fx (tdstReg d)))) ∧
  ((∀ (t : Ty) rm (x : Nat) (xs : List Nat), t = .n32 ∨ t = .i32 → x < 2 ^ 32 → (∀ y ∈ xs, y < 2 ^ 32) →
    reduce .add t rm (x :: xs) = ((x :: xs).sum % 2 ^ 32, 0) ∧
    (let r := (reduce .min t rm (x :: xs)).1
     r ∈ x :: xs ∧ ∀ y ∈ x :: xs, t.toInt r ≤ t.toInt y) ∧
    (let r := (reduce .max t rm (x :: xs)).1
     r ∈ x :: xs ∧ ∀ y ∈ x :: xs, t.toInt y ≤ t.toInt r)) ∧
  (∀ rm (x : Nat) (xs : List Nat) (k : Nat),
    (reduce .and .x32 rm (x :: xs)).1.testBit k = (x :: xs).all (fun y => y.testBit k) ∧
    (reduce .or .x32 rm (x :: xs)).1.testBit k = (x :: xs).any (fun y => y.testBit k) ∧
    (reduce .xor .x32 rm (x :: xs)).1.testBit k = decide (((x :: xs).filter fun y => y.testBit k).length % 2 = 1)) ∧
  (∀ rm, reduce .add .n32 rm [] = (0, 0) ∧ reduce .add .i32 rm [] = (0, 0) ∧ reduce .add .f32 rm [] = (0, 0) ∧
    reduce .min .n32 rm [] = (0xFFFFFFFF, 0) ∧ reduce .min .i32 rm [] = (0x7FFFFFFF, 0) ∧ reduce .min .f32 rm [] = (0x7F800000, 0) ∧
    reduce .max .n32 rm [] = (0, 0) ∧ reduce .max .i32 rm [] = (0x80000000, 0) ∧ reduce .max .f32 rm [] = (0xFF800000, 0) ∧
    reduce .and .x32 rm [] = (0xFFFFFFFF, 0) ∧ reduce .or .x32 rm [] = (0, 0) ∧ reduce .xor .x32 rm [] = (0, 0))) ∧
  ((∀ rm xs, xs ≠ [] → (∀ x ∈ xs, finiteCode .f32 x = true) →
      let n := (xs.map (unitsOf .f32)).sum
      correctly .f32 rm 1 n (reduce .add .f32 rm xs) ∧
      (n = 0 → reduce .add .f32 rm xs = (if rm = .rdn ∨ (∀ x ∈ xs, x = 0x80000000) then 0x80000000 else 0, 0))) ∧
    (∀ rm xs x, xs.find? isNan32 = some x → reduce .add .f32 rm xs = (x ||| 2 ^ 22, Flg.when (xs.any isSnan32) Flg.nv)) ∧
    (∀ rm xs, (∀ x ∈ xs, x < 2 ^ 32 ∧ isNan32 x = false) →
      (0x7F800000 ∈ xs → 0xFF800000 ∈ xs → reduce .add .f32 rm xs = (0x7FC00000, Flg.nv)) ∧
      (0x7F800000 ∈ xs → 0xFF800000 ∉ xs → reduce .add .f32 rm xs = (0x7F800000, 0)) ∧
      (0x7F800000 ∉ xs → 0xFF800000 ∈ xs → reduce .add .f32 rm xs = (0xFF800000, 0)) ∧
      (xs ≠ [] → (reduce .min .f32 rm xs).1 ∈ xs ∧ (reduce .max .f32 rm xs).1 ∈ xs ∧ (reduce .min .f32 rm xs).2 = 0 ∧ (reduce .max .f32 rm xs).2 = 0 ∧
        ∀ x ∈ xs, ordKey (reduce .min .f32 rm xs).1 ≤ ordKey x ∧ ordKey x ≤ ordKey (reduce .max .f32 rm xs).1)) ∧
    (∀ rm xs, (∀ x ∈ xs, x < 2 ^ 32) → 2 ≤ xs.length → (∃ x ∈ xs, isNan32 x = false) → ∀ op, op = .min ∨ op = .max →
      (reduce op .f32 rm xs).1 = (reduce op .f32 rm (xs.filter fun x => !isNan32 x)).1 ∧
      (reduce op .f32 rm xs).2 = Flg.when (xs.any isSnan32) Flg.nv) ∧
    (reduce .add .f32 .rne (0x4B800000 :: List.replicate 31 0x3F800000)) = (0x4B800010, Flg.nx))

/-- R144, R145: a LONG_LATENCY_COMPLETION of a computation writes the values that were formed at issue to the registers that are still
pending on it, which are then pending no longer, lowers its counter and leaves every other register as it was; the same for the
sequencer's registers; of a load the values are those of the bytes that have come. The special-function and conversion queues of a warp
complete in issue order: one whose completion comes before an earlier one's waits for it. R144: what opening an op of a lane or of the
sequencer does: its record, its destinations pending, its counter raised, and its completion due when nothing of it is outstanding; memory
and every other register stay. -/
def Obligations.LongLatencyOperations : Prop :=
  ((∀ (s : State) (id : Nat) (o : Op) (w : Nat) (x : Warp), tget? s.ops id = some o → o.fin = .plain → o.st = .warp w → o.left = 0 →
    s.queuedBehind id o = false → s.warp? o.uid w = some x → (o.dests.map Prod.fst).Nodup →
    ∃ t y, exec (.longLatencyCompletion id) s = .next t ∧ tget? t.ops id = none ∧ t.warp? o.uid w = some y ∧
      (∀ kv ∈ o.dests, tget? x.pend kv.1 = some id → tget? y.pend kv.1 = none ∧
        (kv.1 < 8192 → y.reg (kv.1 / 32) (kv.1 % 32) = kv.2.truncate 32) ∧
        (8192 ≤ kv.1 → kv.1 < 8192 + 224 → y.pred ((kv.1 - 8192) / 32) (kv.1 % 32) = (kv.2 != 0))) ∧
      (∀ k, k < 8192 → (tget? x.pend k ≠ some id ∨ k ∉ o.dests.map Prod.fst) →
        y.reg (k / 32) (k % 32) = x.reg (k / 32) (k % 32) ∧ tget? y.pend k = tget? x.pend k) ∧
      (∀ k, o.ctr = some k → y.ctrOf k.val = x.ctrOf k.val - 1) ∧ s.sameStores t) ∧
  (∀ (s : State) (id : Nat) (o : Op) (b : Block), tget? s.ops id = some o → o.fin = .plain → o.st = .seq → o.left = 0 →
    s.queuedBehind id o = false → s.block? o.uid = some b → (o.dests.map Prod.fst).Nodup →
    ∃ t b', exec (.longLatencyCompletion id) s = .next t ∧ tget? t.ops id = none ∧ t.block? o.uid = some b' ∧
      (∀ kv ∈ o.dests, kv.1 ≠ 0 → tget? b.seq.pend kv.1 = some id →
        b'.seq.get kv.1 = kv.2 ∧ tget? b'.seq.pend kv.1 = none) ∧
      (∀ r, (tget? b.seq.pend r ≠ some id ∨ r ∉ o.dests.map Prod.fst) → b'.seq.get r = b.seq.get r) ∧
      (∀ k, o.ctr = some k → b'.seq.ctrOf k.val = b.seq.ctrOf k.val - 1) ∧ b'.warps = b.warps ∧ s.sameStores t) ∧
  (∀ (s : State) (id : Nat) (o : Op) (sz : Size) (d : Nat) (ls : List Nat), tget? s.ops id = some o → o.fin = .lanes sz d ls → o.left = 0 →
    s.queuedBehind id o = false → exec (.longLatencyCompletion id) s = .next (({ s with ops := tset s.ops id { o with
      dests := ls.flatMap fun l => destVals d l sz.regs
        (loadValue sz ((List.range sz.bytes).map fun j => tgetD o.got (l * 16 + j) 0)) } } : State).completeOp id)) ∧
  (∀ (s : State) (id : Nat) (o : Op), tget? s.ops id = some o → o.left = 0 →
    (s.queuedBehind id o = true ↔ o.sfu ≠ 0 ∧ ∃ kv ∈ s.ops, kv.1 < id ∧ kv.2.uid = o.uid ∧ kv.2.st = o.st ∧ kv.2.sfu = o.sfu) ∧
    (s.queuedBehind id o = true → exec (.longLatencyCompletion id) s = .next (s.due (.longLatencyCompletion id))))) ∧
  ((∀ (s : State) (h : SHere) (l : Sys2Proof.Lat) (fin : Fin') (dests : List (Nat × W64)) (left : Nat) (b : Block), s.block? h.uid = some b →
    b.seq.run = some h.run →
    ∃ o b', s.openSeqOp h l fin dests left = (s.next, (s.openSeqOp h l fin dests left).2) ∧
      let t := (s.openSeqOp h l fin dests left).2
      tget? t.ops s.next = some o ∧ o.fin = fin ∧ o.left = left ∧ o.dests = dests ∧ o.uid = h.uid ∧ o.st = .seq ∧ o.ctr = l.ctr ∧
      t.next = s.next + 1 ∧ s.sameStores t ∧ t.block? h.uid = some b' ∧ b'.warps = b.warps ∧ b'.queues = b.queues ∧
      b'.seq.run = some h.run.next ∧ b'.seq.s = b.seq.s ∧
      (∀ r, r ∈ dests.map Prod.fst → r ≠ 0 → tget? b'.seq.pend r = some s.next) ∧
      (∀ r, r ∉ dests.map Prod.fst → tget? b'.seq.pend r = tget? b.seq.pend r) ∧
      (∀ k, l.ctr = some k → b'.seq.ctrOf k.val = b.seq.ctrOf k.val + 1) ∧
      (0 < left → t.agenda = s.agenda) ∧
      (left = 0 → (∀ q e, fin ≠ .entry q e) → t.agenda = s.agenda ++ [.longLatencyCompletion s.next])) ∧
  (∀ (s : State) (h : Here) (l : Sys2Proof.Lat) (fin : Fin') (dests : List (Nat × W64)) (left : Nat) (x : Warp), s.warp? h.uid h.w = some x →
    x.run? = some h.run →
    ∃ o y, s.openOp h l fin dests left = (s.next, (s.openOp h l fin dests left).2) ∧
      let t := (s.openOp h l fin dests left).2
      tget? t.ops s.next = some o ∧ o.fin = fin ∧ o.left = left ∧ o.dests = dests ∧ o.uid = h.uid ∧ o.st = .warp h.w ∧ o.ctr = l.ctr ∧
      t.next = s.next + 1 ∧ s.sameStores t ∧ t.warp? h.uid h.w = some y ∧ y.regs = x.regs ∧ y.preds = x.preds ∧ y.masks = x.masks ∧
      (∀ k, k ∈ dests.map Prod.fst → tget? y.pend k = some s.next) ∧
      (∀ k, k ∉ dests.map Prod.fst → tget? y.pend k = tget? x.pend k) ∧
      (∀ k, l.ctr = some k → y.ctrOf k.val = x.ctrOf k.val + 1) ∧
      (0 < left → t.agenda = s.agenda) ∧ (left = 0 → t.agenda = s.agenda ++ [.longLatencyCompletion s.next])))

/-- R144 to R295: frame: what the short-latency computing instructions leave as it was. -/
def Obligations.LaneArithmeticFrame : Prop :=
  ∀ (i : Instr) (ds ps : List Nat), laneDests i = some (ds, ps) → KeepsAllBut i ds ps (raisesFlags i)

/-- R258, R260, R107: a lane instruction that names a register beyond the block's 8 x VREGS takes ILLEGAL with its whole group, nothing of
it having taken effect; the trap is taken once, where the comparison of its two issues changes nothing. -/
def Obligations.RegisterBeyondIsIllegal : Prop :=
  ∀ (i : Instr) (regs : List (Nat × Nat)) (s : State) (h : Here), laneOpds i = some regs → s.here? = some h →
    (∃ rn ∈ regs, 8 * h.b.rcd.vregs < rn.1 + rn.2) → (∀ ls, s.compared h ls = .ok s) → exec i s = .next (s.trapAt h 7 h.run.mask false)

/-- R300: BRA, BRX, CALL and RET. -/
def Obligations.Branches : Prop :=
  (∀ g off, RunsBranch (.bra g off) g [] (fun h _ => h.run.va + 8 * off.signExtend 64) fun _ _ => ⟨[], [], 0⟩) ∧
  (∀ g a, RunsBranch (.brx g a) g [opd2 a] (fun h l => BitVec.ofNat 64 (h.pair a l)) fun _ _ => ⟨[], [], 0⟩) ∧
  (∀ g d off, RunsBranch (.call g d off) g [opd2 d] (fun h _ => h.run.va + 8 * off.signExtend 64)
    fun h _ => ⟨regsOf d.val 2 (h.run.va + 8).toNat, [], 0⟩) ∧
  (∀ g a, RunsBranch (.ret g a) g [opd2 a] (fun h l => BitVec.ofNat 64 (h.pair a l)) fun _ _ => ⟨[], [], 0⟩) ∧
  (∀ (w : Warp) (r : Run) (ls : List Nat) (f : Nat → W64) (l : Nat),
    (w.depart r (ls.map fun k => (k, f k))).pcOf l =
      if l ∈ ls then f l else if bit r.mask l then r.after else w.pcOf l)

/-- R300, R138: EXIT at the end of its clause: the participating threads have exited, their bits leave every mask and waiter set, and the
other threads go on at the next header; mask waits and barriers that this completes are released. R301, R302: JOIN, LEAVE, MSET, MOP and
WAITM; a write to a mask forces the bits of exited threads to 0; the release test. -/
def Obligations.ThreadsAndMasks : Prop :=
  ((∀ g (s : State) (h : Here), h.free s g [] [] = true → h.run.last = true →
    exec (.exit g) s = .next (((s.modWarp h.uid h.w fun w => ((w.depart h.run []).exit (maskOf (h.part g))).releaseAll).modBlock h.uid
      fun b => b.barAll.freeEntries).wakeQueues h.uid)) ∧
  (∀ (w : Warp) (m : W32) (k l : Nat), k < 12 →
    (w.exit m).exited = w.exited ||| m ∧ (w.exit m).mask k = w.mask k &&& ~~~m ∧
    tgetD (w.exit m).waiters k 0 = tgetD w.waiters k 0 &&& ~~~m ∧ (w.exit m).pcOf l = w.pcOf l ∧ ∀ r, (w.exit m).reg r l = w.reg r l)) ∧
  ((∀ g m, RunsMask (.join g m) g [] fun _ ls w => (w.setMask m.val (w.mask m.val ||| maskOf ls)).release m.val) ∧
  (∀ g m, RunsMask (.leave g m) g [] fun _ ls w => (w.setMask m.val (w.mask m.val &&& ~~~maskOf ls)).release m.val) ∧
  (∀ g m a, RunsMask (.mset g m a) g [opd1 a] fun _ ls w => (w.setMask m.val (w.reg a.val (ls.headD 0))).release m.val) ∧
  (∀ g op d a b, RunsMask (.mop g op d a b) g [] fun _ ls w =>
    (w.setMask d.val (match op with
      | .and => w.mask a.val &&& w.mask b.val
      | .or => w.mask a.val ||| w.mask b.val
      | .xor => w.mask a.val ^^^ w.mask b.val
      | .andn => w.mask a.val &&& ~~~w.mask b.val
      | .act => maskOf ls)).release d.val) ∧
  (∀ g d m, RunsShort (.mget g d m) g [opd1 d] [] fun h _ => ⟨[(d.val, h.wp.mask m.val)], [], 0⟩) ∧
  (∀ g m lv (s : State) (h : Here), h.free s g [] [] = true → h.part g ≠ [] →
    exec (.waitm g m lv) s = .next (s.modWarp h.uid h.w fun w => w.arriveMask h.run m.val lv (maskOf (h.part g)))) ∧
  (∀ (w : Warp) (k j : Nat) (v : W32), (w.setMask k v).mask j = if j = k then v &&& ~~~w.exited else w.mask j) ∧
  (∀ (w : Warp) (k j : Nat), let wk := tgetD w.waiters k 0
    ((w.mask k &&& ~~~wk ≠ 0 ∨ wk = 0) → w.release k = w) ∧
    (w.mask k &&& ~~~wk = 0 → wk ≠ 0 → tgetD (w.release k).waiters k 0 = 0 ∧
      (w.release k).mask j = (if j = k then w.mask k &&& ~~~(tgetD w.leavers k 0 &&& wk) else w.mask j) ∧
      ∀ r ∈ (w.release k).runs, r.blk ≠ some (.mask k))))

/-- R308, R309: taking a trap outside a handler: the three trap registers are written, each entering thread's %tpc and pc are set, the
others keep theirs, and nothing else of the machine changes. R312, R108: a trap inside a handler loses the context: the first cause of a
loss is kept, CTXLOST's cause is 0, and later losses are counted up to 0xFFFF. -/
def Obligations.TrapEntry : Prop :=
  (∀ (s : State) (uid w : Nat) (b : Block) (x : Warp) (q : TrapReq) (tpc : Nat → W64),
    s.block? uid = some b → tget? b.warps w = some x → x.handler = none →
    ∃ y, s.takeTrap uid w q tpc = s.modWarp uid w (fun _ => y) ∧
      y.tcause = BitVec.ofNat 32 (q.cause + (if q.resumeAt then 256 else 0) + (if q.seq then 512 else 0)) ∧
      y.tmask = q.tmask ∧ y.tdst = q.tdst ∧
      (∀ l, bit q.enter l = true → y.tpcOf l = tpc l ∧
        y.pcOf l = if q.cause = 11 then b.rcd.preLane else b.rcd.traps.getD q.cause 0) ∧
      (∀ l, bit q.enter l = false → y.tpcOf l = x.tpcOf l ∧ y.pcOf l = x.pcOf l) ∧
      y.handler.isSome = true ∧ y.runs = [] ∧
      (∀ k, tgetD y.waiters k 0 = tgetD x.waiters k 0 &&& ~~~q.enter) ∧
      y.regs = x.regs ∧ y.preds = x.preds ∧ y.fflags = x.fflags ∧ y.masks = x.masks ∧ y.exited = x.exited ∧ y.stklim = x.stklim ∧
      y.ctr = x.ctr ∧ y.pend = x.pend) ∧
  (∀ (s : State) (uid w : Nat) (b : Block) (x : Warp) (q : TrapReq) (tpc : Nat → W64) (c : Ctx),
    s.block? uid = some b → tget? b.warps w = some x → x.handler.isSome = true → tget? s.ctxs b.ctx = some c →
    let t := s.takeTrap uid w q tpc
    t.blocks = s.blocks ∧ s.sameStores t ∧
    (c.lost = none → tget? t.ctxs b.ctx = some { c with lost := some 0 } ∧ t.agenda = .contextLoss b.ctx 0 :: s.agenda) ∧
    (∀ k, c.lost = some k → tget? t.ctxs b.ctx = some { c with later := min 0xFFFF (c.later + 1) } ∧ t.agenda = s.agenda))

/-- R310, R311: TRAP and BKPT take causes 10 and 9 after the instruction, and nothing where no thread participates. -/
def Obligations.SoftwareTraps : Prop :=
  (∀ g code (s : State) (h : Here), h.free s g [] [] = true → h.part g ≠ [] →
    exec (.trap g code) s = .next ((s.advance h).takeTrap h.uid h.w
      { cause := 10, enter := h.run.mask, tmask := maskOf (h.part g), tdst := code, resumeAt := false, seq := false } fun _ => h.run.va)) ∧
  (∀ g (s : State) (h : Here), h.free s g [] [] = true → h.part g ≠ [] →
    exec (.bkpt g) s = .next ((s.advance h).takeTrap h.uid h.w
      { cause := 9, enter := h.run.mask, tmask := maskOf (h.part g), tdst := 0, resumeAt := false, seq := false } fun _ => h.run.va)) ∧
  (∀ g code (s : State) (h : Here), h.free s g [] [] = true → h.part g = [] →
    exec (.trap g code) s = .next (s.advance h) ∧ exec (.bkpt g) s = .next (s.advance h))

/-- R310: TRET inside a handler, at the end of its clause: the handler is left, each thread that entered (and has not exited) resumes at
%tpc, or at the word after it where RESUMEAT is clear, and the trap registers and register file stay. Outside a handler it is ILLEGAL. -/
def Obligations.TrapReturn : Prop :=
  (∀ g (s : State) (h : Here), h.free s g [] [] = true → h.wp.handler.isSome = true → h.run.last = true → h.part g ≠ [] →
    exec (.tret g) s = .next ((s.modSeq h.uid fun q => q.resume h.wp).modWarp h.uid h.w Warp.leave)) ∧
  (∀ (x : Warp) (hd : Handler), x.handler = some hd → bit x.tcause 9 = false →
    x.leave.handler = none ∧ x.leave.tcause = x.tcause ∧ x.leave.tmask = x.tmask ∧ x.leave.regs = x.regs ∧
    x.leave.preds = x.preds ∧ x.leave.masks = x.masks ∧
    (∀ l, l < 32 → bit hd.entered l = true → bit x.exited l = false →
      x.leave.pcOf l = if bit x.tcause 8 then x.tpcOf l else x.tpcOf l + 8) ∧
    (∀ l, bit hd.entered l = false ∨ bit x.exited l = true → x.leave.pcOf l = x.pcOf l)) ∧
  (∀ g (s : State) (h : Here), s.here? = some h → h.wp.handler = none → (∀ ls, s.compared h ls = .ok s) →
    exec (.tret g) s = .next (s.trapAt h 7 h.run.mask false))

/-- R313, R314: SRD reads, and SWR writes, the special registers. -/
def Obligations.SpecialRegisters : Prop :=
  (∀ g (r : SpecReg) d, r ≠ .ccount → ∀ (s : State) (h : Here), h.free s g [(d.val, specWidth r)] [] = true →
    exec (.srd g r d) s = .next (s.wrote h g fun l => ⟨regsOf d.val (specWidth r) (match r with
      | .laneid => l
      | .warpid => h.w
      | .blockid => h.b.blockid
      | .clusterid => h.b.blockid / h.b.rcd.cblocks
      | .dieid => s.pkg.device * 16 + h.b.die
      | .coreid => h.b.coreNo % 128
      | .tmask => h.wp.tmask.toNat
      | .tpc => (h.wp.tpcOf l).toNat
      | .tcause => h.wp.tcause.toNat
      | .tdst => h.wp.tdst.toNat
      | .stklim => h.wp.stklim.toNat
      | .ccount => 0
      | .fflags => (h.wp.flagsOf l).toNat), [], 0⟩)) ∧
  (∀ g d (s : State) (h : Here), h.free s g [opd2 d] [] = true →
    exec (.srd g .ccount d) s = .next ((s.readCycles h.b.die).2.wrote h g fun _ => ⟨regsOf d.val 2 (s.readCycles h.b.die).1, [], 0⟩)) ∧
  (∀ g b (s : State) (h : Here), h.free s g [opd1 b] [] = true → h.part g ≠ [] →
    exec (.swr g .fflags b) s = .next (s.modWarp h.uid h.w fun w =>
      ((h.part g).foldl (fun (w : Warp) l => w.setFlags l (BitVec.ofNat 8 (h.nat b l % 32))) w).advance) ∧
    (h.nat b ((h.part g).headD 0) ≤ h.b.rcd.privWords →
      exec (.swr g .stklim b) s = .next (s.modWarp h.uid h.w fun w =>
        { w with stklim := h.wp.reg b.val ((h.part g).headD 0) }.advance)) ∧
    (h.b.rcd.privWords < h.nat b ((h.part g).headD 0) →
      exec (.swr g .stklim b) s = .next (s.trapAt h 7 h.run.mask false)) ∧
    (h.wp.handler.isSome = true →
      exec (.swr g .tcause b) s = .next (s.modWarp h.uid h.w fun w =>
        { w with tcause := (w.tcause &&& ~~~(256 : W32)) ||| (h.wp.reg b.val ((h.part g).headD 0) &&& 256) }.advance)) ∧
    (h.wp.handler = none → exec (.swr g .tcause b) s = .next (s.trapAt h 7 h.run.mask false))) ∧
  (∀ g b (s : State) (h : Here), h.free s g [opd2 b] [] = true → h.part g ≠ [] →
    (h.wp.handler.isSome = true → exec (.swr g .tpc b) s = .next (s.modWarp h.uid h.w fun w =>
      { (w.setTpcs (h.part g) fun l => BitVec.ofNat 64 (h.pair b l)) with
        tpcSet := w.tpcSet ||| maskOf (h.part g), tcause := w.tcause ||| 256 }.advance)) ∧
    (h.wp.handler = none → exec (.swr g .tpc b) s = .next (s.trapAt h 7 h.run.mask false)))

/-- R315, R316, R126, R309: NOP, YIELD, PDONE, FETCHB and ICINV; an ICINV whose address has a high bit is cause 7, of the whole group. -/
def Obligations.SystemInstructions : Prop :=
  (∀ g, RunsMask (.nop g) g [] fun _ _ w => w) ∧
  (∀ g, RunsMask (.yield g) g [] fun h _ w => w.setRun [{ h.run with yieldBit := true }]) ∧
  (∀ g (s : State) (h : Here), h.free s g [] [] = true →
    ((∃ hd, h.wp.handler = some hd ∧ hd.pre = true) → h.b.preempt = true → h.part g ≠ [] →
      exec (.pdone g) s = .next ((s.advance h).modWarp h.uid h.w fun w => { w with pdone := some (maskOf (h.part g)) }).waits) ∧
    ((∀ hd, h.wp.handler = some hd → hd.pre = false) ∨ h.b.preempt = false ∨ h.part g = [] → exec (.pdone g) s = .next (s.advance h))) ∧
  (∀ g (s : State) (h : Here), h.free s g [] [] = true → h.part g ≠ [] →
    exec (.fetchb g false) s = .next ((s.modWarp h.uid h.w fun w => { w with ahead := [] }).advance h) ∧
    exec (.fetchb g true) s = .next ((s.modBlock h.uid fun b =>
      { b with warps := tmap (fun _ w => { w with ahead := [] }) b.warps, seq := { b.seq with ahead := [] } }).advance h)) ∧
  (∀ g w a (s : State) (h : Here), h.part g = [] →
    (h.free s g [] [] = true → exec (.fetchb g w) s = .next (s.advance h)) ∧
    (h.free s g (if w then [] else [opd2 a]) [] = true → exec (.icinv g w a) s = .next (s.advance h))) ∧
  (∀ g (s : State) (h : Here), h.free s g [] [] = true → h.part g ≠ [] → ∀ a,
    exec (.icinv g true a) s = .next ((s.modCore h.b.coreNo fun c =>
      { c with icache := tclear c.icache (h.b.ctx * 2 ^ 64) (h.b.ctx * 2 ^ 64 + 2 ^ 64) }).advance h)) ∧
  (∀ g a (s : State) (h : Here), h.free s g [opd2 a] [] = true → h.part g ≠ [] →
    ((∀ l ∈ h.part g, h.pair a l < 2 ^ 57) → ∃ t, exec (.icinv g false a) s = .next (t.advance h) ∧
      t = s.modCore h.b.coreNo (fun c => { c with icache := (h.part g).foldl (fun ic l =>
        tclear ic (h.b.ctx * 2 ^ 64 + h.pair a l / 128 * 16) (h.b.ctx * 2 ^ 64 + h.pair a l / 128 * 16 + 16)) c.icache })) ∧
    ((∃ l ∈ h.part g, 2 ^ 57 ≤ h.pair a l) → exec (.icinv g false a) s = .next (s.trapAt h 7 h.run.mask false)))

/-- R146 to R148, R321: LDS, LDC and LDP load from the core's scratchpad, a core of the cluster, and the die's. R146 to R148, R322: STS,
STC and STP store there: the stored bytes read back, at once or as soon as the bank takes them (R381, notes/assumptions/92.md), every other
byte reads as before; one that fills releases first (R154, R160). R320, R150: out of bounds, and full-empty waits, which end in the
order of arrival; the bounds of the core scratchpad are the launch's. -/
def Obligations.ScratchpadAccesses : Prop :=
  ((∀ g l sz fe d a off, LoadsPad (.lds g l sz fe d a off) .core g l sz fe d a off) ∧
  (∀ g l sz fe d a off, LoadsPad (.ldc g l sz fe d a off) .cluster g l sz fe d a off) ∧
  (∀ g l sz fe d a off, LoadsPad (.ldp g l sz fe d a off) .chip g l sz fe d a off) ∧
  (∀ b : Byte, loadValue .n8 [b] = b.toNat ∧ loadValue .i8 [b] = (b.signExtend 32).toNat) ∧
  (∀ b c : Byte, loadValue .n16 [b, c] = (c ++ b).toNat ∧ loadValue .i16 [b, c] = ((c ++ b).signExtend 32).toNat) ∧
  (∀ b c d e : Byte, loadValue .b32 [b, c, d, e] = (e ++ d ++ c ++ b).toNat)) ∧
  ((∀ g l sz fe d a off, StoresPad (.sts g l sz fe d a off) .core g l sz fe d a off) ∧
  (∀ g l sz fe d a off, StoresPad (.stc g l sz fe d a off) .cluster g l sz fe d a off) ∧
  (∀ g l sz fe d a off, StoresPad (.stp g l sz fe d a off) .chip g l sz fe d a off) ∧
  (∀ g l sz d a off, ReleasesFirst (.sts g l sz .fill d a off) .core g l sz d a off ∧
    ReleasesFirst (.stc g l sz .fill d a off) .cluster g l sz d a off ∧ ReleasesFirst (.stp g l sz .fill d a off) .chip g l sz d a off)) ∧
  ((∀ g l sz fe d a off, let need := if fe = .keep ∨ fe = .take then some true else none
    StopsPad (.lds g l sz fe d a off) .core g l sz d a off need ∧ StopsPad (.ldc g l sz fe d a off) .cluster g l sz d a off need ∧
    StopsPad (.ldp g l sz fe d a off) .chip g l sz d a off need) ∧
  (∀ g l sz fe d a off, let need := if fe = .fill then some false else none
    StopsPad (.sts g l sz fe d a off) .core g l sz d a off need ∧ StopsPad (.stc g l sz fe d a off) .cluster g l sz d a off need ∧
    StopsPad (.stp g l sz fe d a off) .chip g l sz d a off need) ∧
  (∀ (s : State) (b : Block) (a : Int) (n : Nat), (s.padKey b .core a n).isSome = decide (0 ≤ a ∧ a + n ≤ b.rcd.scratch)) ∧
  (∀ (s : State) (m : Option FeWait) (grs : List Nat) (v : Bool),
    ((∃ k ∈ grs, s.isFull k ≠ v) → s.feReady m grs v = false) ∧
    ((∀ k ∈ grs, s.isFull k = v) → (∀ x ∈ s.feWaiting, (∀ k ∈ x.grs, k ∉ grs) ∨ (∃ n, m = some n ∧ n.since ≤ x.since)) →
      s.feReady m grs v = true) ∧
    (∀ n x, m = some n → x ∈ s.feWaiting → x.since < n.since → x.full = v → (∃ k ∈ x.grs, k ∈ grs) → (∀ k ∈ x.grs, s.isFull k = v) →
      s.feReady m grs v = false)))

/-- R319, R321, R322: LD and ST with a routed address below 2^57 go out; one that has a high address or a full-empty qualifier is ILLEGAL
as an operand. R319, R320, R324, R325: LD.priv and ST.priv access word `%stklim`-bounded private memory of the thread, as .si 32-bit
accesses at the address the rule gives; a high address of an index in bounds is cause 7, else an index out of bounds takes the
stack-limit trap (cause 5), to be resumed at the access. -/
def Obligations.RoutedLoadsAndStores : Prop :=
  ((∀ g l sz rt sc d a off, LoadsRouted (.ld g l sz rt sc .none d a off) g l sz rt (isWide sc) d [(d.val, sz.regs), opd2 a]
    (fun h => (h.part g).all fun j => decide (h.eaMod a off j < 2 ^ 57)) (fun h => h.eaMod a off)) ∧
  (∀ g l sz rt sc d a off, StoresRouted (.st g l sz rt sc .none d a off) g l sz rt (isWide sc) d [(d.val, sz.regs), opd2 a]
    (fun h => (h.part g).all fun j => decide (h.eaMod a off j < 2 ^ 57)) (fun h => h.eaMod a off)) ∧
  (∀ g l sz rt sc fe d a off (s : State) (h : Here), h.acts s g l [(d.val, sz.regs), opd2 a] = true →
    let high := maskOf ((h.part g).filter fun j => 2 ^ 57 ≤ h.eaMod a off j)
    (fe ≠ .none → exec (.ld g l sz rt sc fe d a off) s = .next (s.trapAt h 7 (maskOf (h.part g)) false) ∧
      exec (.st g l sz rt sc fe d a off) s = .next (s.trapAt h 7 (maskOf (h.part g)) false)) ∧
    ((∃ j ∈ h.part g, 2 ^ 57 ≤ h.eaMod a off j) →
      exec (.ld g l sz rt sc .none d a off) s = .next (s.trapAt h 7 high false) ∧
      exec (.st g l sz rt sc .none d a off) s = .next (s.trapAt h 7 high false))) ∧
  (∀ (h : Here) (a : VReg) (off : BitVec 16) (l : Nat),
    (h.eaMod a off l : Int) = ((h.pair a l : Int) + off.toInt) % 2 ^ 64)) ∧
  ((∀ g l d a off, LoadsRouted (.ldPriv g l d a off) g l .b32 .si false d [opd1 d, opd1 a]
    (fun h => (h.part g).all fun j => h.privIn a off j && decide (h.privEa a off j < 2 ^ 57)) (fun h => h.privEa a off)) ∧
  (∀ g l d a off, StoresRouted (.stPriv g l d a off) g l .b32 .si false d [opd1 d, opd1 a]
    (fun h => (h.part g).all fun j => h.privIn a off j && decide (h.privEa a off j < 2 ^ 57)) (fun h => h.privEa a off)) ∧
  (∀ g l d a off (s : State) (h : Here), h.acts s g l [opd1 d, opd1 a] = true →
    (∀ j ∈ h.part g, h.privIn a off j = true → h.privEa a off j < 2 ^ 57) →
    (∃ j ∈ h.part g, h.privIn a off j = false) →
    let out := maskOf ((h.part g).filter fun j => !h.privIn a off j)
    exec (.ldPriv g l d a off) s = .next (s.trapAt h 5 out true) ∧ exec (.stPriv g l d a off) s = .next (s.trapAt h 5 out true)) ∧
  (∀ g l d a off (s : State) (h : Here), h.acts s g l [opd1 d, opd1 a] = true →
    (∃ j ∈ h.part g, h.privIn a off j = true ∧ 2 ^ 57 ≤ h.privEa a off j) →
    let high := maskOf ((h.part g).filter fun j => h.privIn a off j && decide (2 ^ 57 ≤ h.privEa a off j))
    exec (.ldPriv g l d a off) s = .next (s.trapAt h 7 high false) ∧ exec (.stPriv g l d a off) s = .next (s.trapAt h 7 high false)) ∧
  (∀ (h : Here) (a : VReg) (off : BitVec 16) (l : Nat), h.privIn a off l = true ↔
    0 ≤ ((h.nat a l : Int) + off.toInt) ∧ ((h.nat a l : Int) + off.toInt) < h.wp.stklim.toNat) ∧
  (∀ (h : Here) (a : VReg) (off : BitVec 16) (l : Nat), h.privIn a off l = true → (h.privEa a off l : Int) =
    ((h.b.rcd.privBase.toNat : Int) + (((h.b.blockid * h.b.rcd.warps + h.w) * h.b.rcd.privWords * 32 : Nat) +
      ((h.nat a l : Int) + off.toInt) * 32 + l) * 4) % 2 ^ 64))

/-- R151, R157, R162: one piece of a load that hits in the core's L1 (its bytes are there, were filled wide if it is wide, and for .own no
other core has them privatised) gives its op the line's bytes and counts it done; poison there is consumed (R103), another owner's line
reads as zeros (R33). R156: a line filled again takes every byte as it now stands at the holder but for the core's own. A .si or .own
store whose route is known stays in the line, dirty or privatised, and changes no holder. R46, R158, R159: a store request that
reaches a holder that serves it, with no other copy and no lock, is applied there: its bytes read back at the holder, every other
byte of their lines reads as before for its owner, and other lines for every owner (R32, R33). -/
def Obligations.StoresAndCaches : Prop :=
  ((∀ (s : State) (core : Nat) (r : Req) (ln : Line), r.req ≠ .nc → s.line? core (r.ra / 128) = some ln → ln.tag = s.tagOf r.ctx →
    ln.has (r.ra % 128) r.len = true → (r.wide = true → ln.wide = true) →
    (r.req = .own → ∀ kc ∈ s.cores, kc.1 ≠ core → ∀ x, tget? kc.2.l1 (r.ra / 128) = some x → x.holder = ln.holder → x.own &&& r.words = 0) →
    (ln.poisonIn (r.ra % 128) r.len = 0 → s.loadPiece core r =
      (r.pieces.foldl (fun (s : State) x => s.give r.op x.at' ((List.range x.t.len).map fun i => tgetD ln.data (x.ra % 128 + i) 0)) s).opDone
        r.op) ∧
    (ln.poisonIn (r.ra % 128) r.len ≠ 0 → r.acc ≠ .engineRead →
      s.loadPiece core r = s.poisoned (s.whoOf r) r.ra (ln.poisonIn (r.ra % 128) r.len - 1))) ∧
  (∀ (s : State) (core : Nat) (r : Req) (ln : Line), r.req ≠ .nc → s.line? core (r.ra / 128) = some ln → ln.tag ≠ s.tagOf r.ctx →
    s.loadPiece core r =
      (r.pieces.foldl (fun (s : State) x => s.give r.op x.at' ((List.range x.t.len).map fun _ => 0)) s).opDone r.op) ∧
  (∀ (s : State) (c core holder line : Nat) (ln : Line) (o : Nat), o < 128 →
    (bit (ln.dirty ||| ln.own) o = false → s.unlanded core (line * 128 + o) 1 = false →
      tget? (s.refilled c core holder line ln).data o = (s.rdAt c holder (line * 128) 128)[o]?) ∧
    (bit (ln.dirty ||| ln.own) o = true → tget? (s.refilled c core holder line ln).data o = tget? ln.data o)) ∧
  (∀ (s : State) (core : Nat) (r : Req) (e : Entry) (c : Core), r.req = .si ∨ r.req = .own → s.resolveFor r false true = .toward e →
    s.promotes e.holder r.ra = false → tget? s.cores core = some c →
    (∀ ln, tget? c.l1 (r.ra / 128) = some ln → ln.tag = s.tagOf r.ctx) →
    ((tget? c.l1 (r.ra / 128)).isSome = true ∨ c.l1.length < s.l1Lines core) → (r.bytes.map fun kv => kv.1 % 128).Nodup →
    (r.req = .own → ∀ kc ∈ s.cores, kc.1 ≠ core → ∀ x, tget? kc.2.l1 (r.ra / 128) = some x → x.own &&& bytesMask r.bytes = 0) →
    let t := s.storePiece core r
    t.mem = s.mem ∧ t.tags = s.tags ∧ t.writes = s.writes ∧ ∃ ln, t.line? core (r.ra / 128) = some ln ∧
      (r.req = .si → ln.dirty &&& bytesMask r.bytes = bytesMask r.bytes ∧ ln.own &&& bytesMask r.bytes = 0) ∧
      (r.req = .own → ln.own &&& bytesMask r.bytes = bytesMask r.bytes ∧ ln.dirty &&& bytesMask r.bytes = 0) ∧
      (∀ kv ∈ r.bytes, tget? ln.data (kv.1 % 128) = some kv.2) ∧
      ∀ o old, s.line? core (r.ra / 128) = some old → (∀ kv ∈ r.bytes, kv.1 % 128 ≠ o) → tget? ln.data o = tget? old.data o)) ∧
  (∀ (s : State) (r : Req) (e f : Entry), r.acc = .store → r.aop = none → r.len ≠ 0 → r.poison = 0 →
    s.resolveFor r false true = .toward e → s.promotes e.holder r.ra = false → s.paused e.holder r.ra = false →
    s.arrival e = some f → f.holder = e.holder → f.receives = true →
    (f.lock = true → f.home = true ∧ s.awaitsMarker f = false ∧ s.mergesWait (r.ra / 128) r.words r.core = false) →
    s.others f = [] → tget? s.locks (r.ra / 128) = none →
    (∀ kc ∈ s.cores, ∀ ln, tget? kc.2.l1 (r.ra / 128) = some ln → ln.own = 0) →
    (∀ kv ∈ r.bytes, kv.1 / 128 = r.ra / 128) →
    (r.bytes.map Prod.fst).Nodup → (∀ p ∈ r.bytes, ∀ q ∈ r.bytes, s.keyAt e.holder p.1 = s.keyAt e.holder q.1 → p.1 = q.1) →
    let t := s.serve r
    let at' := fun (a : Nat) => s.keyAt e.holder a
    (∀ kv ∈ r.bytes, t.rdAs (s.ownerAt r.ctx (at' kv.1) kv.1) (at' kv.1) = kv.2) ∧
    (∀ o k, (∀ kv ∈ r.bytes, at' kv.1 ≠ k) →
      (∀ kv ∈ r.bytes, at' kv.1 / 128 = k / 128 → s.ownerAt r.ctx (at' kv.1) kv.1 = o) → t.rdAs o k = s.rdAs o k))

/-- R321: a routed load (LD, LD.priv) leaves all of memory as it was, whatever it meets, while no core holds dirty or privatised bytes
that it would send on. -/
def Obligations.LoadsLeaveMemory : Prop :=
  ∀ (i : Instr) (s t : State),
    (∃ g l sz rt sc fe d a off, i = .ld g l sz rt sc fe d a off) ∨ (∃ g l d a off, i = .ldPriv g l d a off) →
    (∀ kc ∈ s.cores, ∀ ln ∈ kc.2.l1, ln.2.dirty = 0 ∧ ln.2.own = 0) → exec i s = .next t →
    t.mem = s.mem ∧ t.tags = s.tags ∧ t.full = s.full ∧ t.poison = s.poison ∧ (∀ c k, t.rd c k = s.rd c k)

/-- R327 to R329, R320: ATOM, RED and ATOMS, with their address (cause 7), alignment (cause 4) and same-address (cause 6) traps, and what
each operation makes of the old value; .add.f32 is the sum rounded to nearest. -/
def Obligations.Atomics : Prop :=
  (∀ g l op sz sc d a b, AtomicRouted (.atom g l op sz sc d a b) g l op sz (some d) a b
    [(d.val, sz.regs), opd2 a, (b.val, aopRegs op sz)]) ∧
  (∀ g l op sz sc a b, AtomicRouted (.red g l op sz sc a b) g l op sz none a b [opd2 a, (b.val, aopRegs op sz)]) ∧
  (∀ g l op sz d a b (s : State) (h : Here), h.acts s g l [(d.val, sz.regs), opd1 a, (b.val, aopRegs op sz)] = true →
    let ls := h.part g
    let ea := fun (j : Nat) => (h.addr a 0 j).toNat
    (h.inPad s .core g a 0 sz.bytes = false → exec (.atoms g l op sz d a b) s = .next (s.trapAt h 7
      (maskOf (ls.filter fun j => (s.padKey h.b .core (h.addr a 0 j) sz.bytes).isNone)) false)) ∧
    (h.inPad s .core g a 0 sz.bytes = true → (∃ j ∈ ls, ea j % sz.bytes ≠ 0) →
      exec (.atoms g l op sz d a b) s = .next (s.trapAt h 4 (maskOf (ls.filter fun j => ea j % sz.bytes != 0)) false)) ∧
    (h.inPad s .core g a 0 sz.bytes = true → (∀ j ∈ ls, ea j % sz.bytes = 0) → sameAddr ls ea sz.bytes ≠ 0 →
      exec (.atoms g l op sz d a b) s = .next (s.trapAt h 6 (sameAddr ls ea sz.bytes) false)) ∧
    (h.inPad s .core g a 0 sz.bytes = true → (∀ j ∈ ls, ea j % sz.bytes = 0) → sameAddr ls ea sz.bytes = 0 →
      let ks := h.keys s .core g a 0 sz.bytes
      let u := s.ownPads h.uid (.warp h.w) (grsOf ks sz.bytes)
      (∀ k ∈ grsOf ks sz.bytes, tgetD u.poison k 0 = 0) →
      let olds := ks.map fun lk => (lk.1, lk.2, leNat (u.rdN h.b.ctx lk.2 sz.bytes))
      exec (.atoms g l op sz d a b) s = .next ((olds.foldl (fun (s : State) x =>
        match aopNew (h.aopReq op sz b x.1) x.2.2 with
        | some v => s.putBytes h.b.ctx (bytesAt x.2.1 (natLe sz.bytes v))
        | none => s) u).openOp h l .plain (olds.flatMap fun x => destVals d.val x.1 sz.regs x.2.2) 0).2)) ∧
  (∀ (ls : List Nat) (ea : Nat → Nat) (n j : Nat), j < 32 → (bit (sameAddr ls ea n) j = true ↔
    j ∈ ls ∧ ∃ i ∈ ls, i ≠ j ∧ ea i < ea j + n ∧ ea j < ea i + n)) ∧
  (∀ n x y z : Nat, aopNew ⟨.add, n, y, z⟩ x = some ((x + y) % 2 ^ (8 * n)) ∧ aopNew ⟨.exch, n, y, z⟩ x = some y ∧
    aopNew ⟨.minN, n, y, z⟩ x = some (min x y) ∧ aopNew ⟨.maxN, n, y, z⟩ x = some (max x y) ∧
    aopNew ⟨.and, n, y, z⟩ x = some (x &&& y) ∧ aopNew ⟨.or, n, y, z⟩ x = some (x ||| y) ∧
    aopNew ⟨.xor, n, y, z⟩ x = some (x ^^^ y) ∧ aopNew ⟨.cas, n, y, z⟩ x = (if x = y then some z else none)) ∧
  (∀ (x y : W32) (z : Nat), aopNew ⟨.minI, 4, y.toNat, z⟩ x.toNat = some (if x.toInt ≤ y.toInt then x else y).toNat ∧
    aopNew ⟨.maxI, 4, y.toNat, z⟩ x.toNat = some (if y.toInt ≤ x.toInt then x else y).toNat) ∧
  (∀ (x y : W64) (z : Nat), aopNew ⟨.minI, 8, y.toNat, z⟩ x.toNat = some (if x.toInt ≤ y.toInt then x else y).toNat ∧
    aopNew ⟨.maxI, 8, y.toNat, z⟩ x.toNat = some (if y.toInt ≤ x.toInt then x else y).toNat) ∧
  (∀ x y z v : Nat, finiteCode .f32 x = true → finiteCode .f32 y = true → aopNew ⟨.addF32, 4, y, z⟩ x = some v →
    inRange .f32 1 (unitsOf .f32 x + unitsOf .f32 y) → roundsTo .f32 .rne 1 (unitsOf .f32 x + unitsOf .f32 y) v)

/-- R160, R161, R331: a lane FENCE: an acquire drops what the core's L1 filled at wide scopes and goes on; a release at .warp or .block
goes on once the writes of its warp have landed, and waits until then; a wider release sends everything dirty and waits, with a release
under way, for its query. -/
def Obligations.LaneFences : Prop :=
  (∀ g sc (s : State) (h : Here), h.acts s g ⟨0, none⟩ [] = true → s.loading h.uid (.warp h.w) = false →
    exec (.fence g .acq sc) s = .next ((if isWide sc then s.dropShared h.b.coreNo else s).advance h)) ∧
  (∀ g op sc (s : State) (h : Here), h.acts s g ⟨0, none⟩ [] = true → op ≠ .acq → (op = .ar → s.loading h.uid (.warp h.w) = false) →
    isWide sc = false →
    (s.streamOut h.b.coreNo h.uid (.warp h.w) = false → exec (.fence g op sc) s = .next (s.advance h)) ∧
    (s.streamOut h.b.coreNo h.uid (.warp h.w) = true → exec (.fence g op sc) s = .next s.waits)) ∧
  (∀ g op sc (s : State) (h : Here) (c c' : Core), h.acts s g ⟨0, none⟩ [] = true → op ≠ .acq →
    (op = .ar → s.loading h.uid (.warp h.w) = false) → tget? s.cores h.b.coreNo = some c → isWide sc = true →
    (∀ x ∈ s.padOut, x.uid ≠ h.uid ∨ x.st ≠ .warp h.w) →
    (c.rels.map fun r => r.round).eraseDups.length < 4 → tget? (s.cleanCore h.b.coreNo).cores h.b.coreNo = some c' →
    ∃ t o k, exec (.fence g op sc) s = .next t ∧ tget? t.ops (s.cleanCore h.b.coreNo).next = some o ∧ o.left = 1 ∧ o.uid = h.uid ∧
      o.st = .warp h.w ∧ tget? t.cores h.b.coreNo = some k ∧ k.rnd = c'.rnd + 1 ∧
      k.rels = c'.rels ++ [⟨c'.rnd.toNat, (s.cleanCore h.b.coreNo).next, if op = .ar then some sc else none⟩] ∧ t.cur = none ∧
      t.agenda = (s.cleanCore h.b.coreNo).agenda ++ [.releaseQueryReply (h.b.coreNo / 128) (h.b.coreNo % 128) c'.rnd.toNat])

/-- R333, R334: CCTL writes back (and under the drop forms drops) the named lines, or all of the context, of the core's L1, and is done
when those writes are; PREF.l2 changes no state of the cores. -/
def Obligations.CacheControl : Prop :=
  (∀ g l op sc a off (s : State) (h : Here),
    h.acts s g l (if op == .wball || op == .wbdropall then [] else [opd2 a]) = true →
    ∃ lines : List Nat,
      (∀ k, k ∈ lines ↔ (∃ ln, (∃ c, tget? s.cores h.b.coreNo = some c ∧ (k, ln) ∈ c.l1) ∧ ln.tag = s.tagOf h.b.ctx) ∧
        (op = .wball ∨ op = .wbdropall ∨ ∃ j ∈ h.part g, h.eaMod a off j < 2 ^ 57 ∧
          ∃ x, s.peek h.b.coreNo h.b.ctx (h.eaMod a off j) = some x ∧ x.1 / 128 = k)) ∧
      let o := s.openOp h l .plain [] 1
      exec (.cctl g l op sc a off) s = .next ((lines.foldl (fun s k =>
        if op = .wbdrop ∨ op = .wbdropall then s.dropLine h.b.coreNo k (some o.1) else s.cleanLine h.b.coreNo k (some o.1)) o.2).opDone
        (some o.1))) ∧
  (∀ g l rt sc a off (s : State) (h : Here), h.acts s g l [opd2 a] = true →
    exec (.pref g l true rt sc a off) s = .next (s.openOp h l .plain [] 0).2) ∧
  (∀ g l rt sc a off (s : State) (h : Here), h.acts s g l [opd2 a] = true →
    exec (.pref g l false rt sc a off) s =
      .next (((h.part g).foldl (fun s j => s.prefLine h rt sc j (h.eaMod a off j)) s).openOp h l .plain [] 0).2) ∧
  (∀ (s : State) (h : Here) rt sc j va, (2 ^ 57 ≤ va ∨ s.peek h.b.coreNo h.b.ctx va = none ∨
      ∃ ra perm, s.peek h.b.coreNo h.b.ctx va = some (ra, perm) ∧ (hasPerm perm permRd = false ∨
        ∃ w, (s.engine h.b.die).resolve ra false false = .held w)) → s.prefLine h rt sc j va = s)

/-- R141, R154, R344: POPQ, once the warp's earlier loads are back, takes the oldest entry that its warp may pop (one with its tag, or of
tag 63 that it has not popped yet), each thread getting its word; PUSHQ, once the warp's earlier writes have landed, appends one with
its warp's tag; where there is no such entry, or it has still to be filled, or the queue is full, the warp waits. -/
def Obligations.LaneQueues : Prop :=
  (∀ g l d q (s : State) (h : Here) (e : QEntry), h.acts s g l [opd1 d] = true → h.b.popFor q.val h.w = some e →
    (e.ready = true → s.loading h.uid (.warp h.w) = false → exec (.popq g l d q) s =
      .next (((s.modBlock h.uid fun b => b.takeFor q.val h.w e).wakeQueues h.uid).openOp h l .plain
        ((h.part g).map fun j => (regKey d.val j, (e.data.getD j 0).zeroExtend 64)) 0).2) ∧
    (e.ready = true → s.loading h.uid (.warp h.w) = true → exec (.popq g l d q) s = .next s.waits) ∧
    (e.ready = false → exec (.popq g l d q) s = .next (s.block h (.queue q.val)))) ∧
  (∀ g l q a (s : State) (h : Here), h.acts s g l [opd1 a] = true → (tgetD h.b.queues q.val []).length < 16 →
    (s.streamOut h.b.coreNo h.uid (.warp h.w) = false → exec (.pushq g l q a) s =
      .next ((({ s with next := s.next + 1 }.modBlock h.uid fun b => b.push q.val
        ⟨s.next, (List.range 32).map fun j => if (h.part g).contains j then h.wp.reg a.val j else 0, h.w, 0, true⟩).wakeQueues
          h.uid).openOp h l .plain [] 0).2) ∧
    (s.streamOut h.b.coreNo h.uid (.warp h.w) = true → exec (.pushq g l q a) s = .next s.waits)) ∧
  (∀ g l d q (s : State) (h : Here), h.acts s g l [opd1 d] = true → h.b.popFor q.val h.w = none →
    exec (.popq g l d q) s = .next (s.block h (.queue q.val))) ∧
  (∀ g l q a (s : State) (h : Here), h.acts s g l [opd1 a] = true → 16 ≤ (tgetD h.b.queues q.val []).length →
    exec (.pushq g l q a) s = .next (s.block h (.queue q.val))) ∧
  (∀ (b : Block) (q w : Nat),
    (∀ e, b.popFor q w = some e ↔ ∃ older newer, tgetD b.queues q [] = older ++ e :: newer ∧ (∀ x ∈ older, x.forWarp w = false) ∧
      e.forWarp w = true) ∧
    (b.popFor q w = none ↔ ∀ x ∈ tgetD b.queues q [], x.forWarp w = false)) ∧
  (∀ (e : QEntry) (w : Nat), e.forWarp w = true ↔ e.tag = w ∨ (e.tag = 63 ∧ bit e.popped w = false))

/-- R253, R338, R339: the sequencer's scalar instructions complete with these results; s0 reads zero and discards a write, and a write to
another s register changes that one alone. R140, R341: ADEF writes the named part of a generator, and every part but .idx clears the
indices and DONE; ASTEP reads and then steps; the address, and what one step does. -/
def Obligations.SequencerScalars : Prop :=
  ((∀ d a, RunsScalar (.smov .copy d a) [d, a] fun h q => q.put d.val (h.get a)) ∧
  (∀ d a, RunsScalar (.smov .readFlags d a) [d, a] fun h q => q.put d.val (BitVec.ofNat 64 h.b.seq.flags.toNat)) ∧
  (∀ d a, RunsScalar (.smov .writeFlags d a) [d, a] fun h q => { q with flags := BitVec.ofNat 8 ((h.get a).toNat % 32) }) ∧
  (∀ d imm, RunsScalar (.smovi .sx d imm) [d] fun _ q => q.put d.val (BitVec.ofInt 64 imm.toInt)) ∧
  (∀ d imm, RunsScalar (.smovi .zx d imm) [d] fun _ q => q.put d.val (BitVec.ofNat 64 imm.toNat)) ∧
  (∀ d imm, RunsScalar (.smovi .hi d imm) [d] fun h q =>
    q.put d.val (BitVec.ofNat 64 (imm.toNat * 2 ^ 32 + (h.get d).toNat % 2 ^ 32))) ∧
  (∀ d a b, RunsScalar (.sadd d a b) (d :: a :: opdRegs b) fun h q =>
    q.put d.val (BitVec.ofNat 64 ((h.get a).toNat + (h.opd b).toNat))) ∧
  (∀ d a b, RunsScalar (.ssub d a b) (d :: a :: opdRegs b) fun h q =>
    q.put d.val (BitVec.ofInt 64 ((h.get a).toInt - (h.opd b).toInt))) ∧
  (∀ d a b, RunsScalar (.smul d a b) (d :: a :: opdRegs b) fun h q =>
    q.put d.val (BitVec.ofNat 64 ((h.get a).toNat * (h.opd b).toNat))) ∧
  (∀ d a b, RunsScalar (.sand d a b) (d :: a :: opdRegs b) fun h q => q.put d.val (h.get a &&& h.opd b)) ∧
  (∀ d a b, RunsScalar (.sor d a b) (d :: a :: opdRegs b) fun h q => q.put d.val (h.get a ||| h.opd b)) ∧
  (∀ d a b, RunsScalar (.sxor d a b) (d :: a :: opdRegs b) fun h q => q.put d.val (h.get a ^^^ h.opd b)) ∧
  (∀ d a b, RunsScalar (.sshl d a b) (d :: a :: opdRegs b) fun h q =>
    q.put d.val (if 64 ≤ (h.opd b).toNat then 0 else BitVec.ofNat 64 ((h.get a).toNat * 2 ^ (h.opd b).toNat))) ∧
  (∀ d a b, RunsScalar (.sshr false d a b) (d :: a :: opdRegs b) fun h q =>
    q.put d.val (if 64 ≤ (h.opd b).toNat then 0 else BitVec.ofNat 64 ((h.get a).toNat / 2 ^ (h.opd b).toNat))) ∧
  (∀ d a b, RunsScalar (.sshr true d a b) (d :: a :: opdRegs b) fun h q =>
    q.put d.val (BitVec.ofInt 64 ((h.get a).toInt / 2 ^ min (h.opd b).toNat 63))) ∧
  (∀ c d a b, RunsScalar (.scmp c d a b) (d :: a :: opdRegs b) fun h q => q.put d.val (if (match c with
    | .eq => decide (h.get a = h.opd b)
    | .ne => decide (h.get a ≠ h.opd b)
    | .lt => decide ((h.get a).toInt < (h.opd b).toInt)
    | .le => decide ((h.get a).toInt ≤ (h.opd b).toInt)
    | .gt => decide ((h.opd b).toInt < (h.get a).toInt)
    | .ge => decide ((h.opd b).toInt ≤ (h.get a).toInt)
    | .ltu => decide ((h.get a).toNat < (h.opd b).toNat)
    | .leu => decide ((h.get a).toNat ≤ (h.opd b).toNat)
    | .gtu => decide ((h.opd b).toNat < (h.get a).toNat)
    | .geu => decide ((h.opd b).toNat ≤ (h.get a).toNat)) then 1 else 0)) ∧
  (∀ (h : SHere) (v : BitVec 11), h.opd (.imm v) = BitVec.ofInt 64 v.toInt) ∧
  (∀ (q : Seq) (r : Nat) (v : W64), q.put 0 v = q ∧ q.get 0 = 0 ∧ (r ≠ 0 → (q.put r v).get r = v) ∧
    ∀ k, k ≠ r → (q.put r v).get k = q.get k)) ∧
  ((∀ k a b (s : State) (h : SHere), h.free s [a, b] = true →
    let g := h.b.seq.gen k.val
    let to' := fun (g : Gen) => (.next (s.modSeq h.uid fun q => (q.setGen k.val g).advance) : Out)
    exec (.adef .base k a b) s = to' ⟨h.get a, g.stride, g.ext, [0, 0, 0, 0], false⟩ ∧
    exec (.adef .stride k a b) s = to' ⟨g.base, [(h.get a).extractLsb' 0 32, (h.get a).extractLsb' 32 32, (h.get b).extractLsb' 0 32,
      (h.get b).extractLsb' 32 32], g.ext, [0, 0, 0, 0], false⟩ ∧
    (((h.get a).extractLsb' 0 16).toNat ≤ 32767 → exec (.adef .ext k a b) s = to' ⟨g.base, g.stride, [(h.get a).extractLsb' 0 16,
      (h.get a).extractLsb' 16 16, (h.get a).extractLsb' 32 16, (h.get a).extractLsb' 48 16], [0, 0, 0, 0], false⟩) ∧
    (32767 < ((h.get a).extractLsb' 0 16).toNat → exec (.adef .ext k a b) s = .next (s.seqIllegal h)) ∧
    let i0 : BitVec 16 := ((h.get a).extractLsb' 1 15).zeroExtend 16
    let is := [i0, (h.get a).extractLsb' 16 16, (h.get a).extractLsb' 32 16, (h.get a).extractLsb' 48 16]
    ((∀ x ∈ is.zip g.ext, x.1.toNat ≤ x.2.toNat) →
      exec (.adef .idx k a b) s = to' ⟨g.base, g.stride, g.ext, is, (h.get a).getLsbD 0⟩) ∧
    ((∃ x ∈ is.zip g.ext, x.2.toNat < x.1.toNat) → exec (.adef .idx k a b) s = .next (s.seqIllegal h))) ∧
  (∀ op k d n, RunsScalar (.astep op k d n) [d] fun h q =>
    (q.setGen k.val ((h.b.seq.gen k.val).steps n.toNat)).put d.val (match op with
      | .addr => (h.b.seq.gen k.val).addr
      | .done => if (h.b.seq.gen k.val).done then 1 else 0
      | .idx => (h.b.seq.gen k.val).word)) ∧
  (∀ b s0 s1 s2 s3 e i0 i1 i2 i3 dn, Gen.addr ⟨b, [s0, s1, s2, s3], e, [i0, i1, i2, i3], dn⟩ =
    BitVec.ofInt 64 ((b.toNat : Int) + i0.toNat * s0.toInt + i1.toNat * s1.toInt + i2.toNat * s2.toInt + i3.toNat * s3.toInt)) ∧
  (∀ b st e0 e1 e2 e3 i0 i1 i2 i3 dn,
    let g : Gen := ⟨b, st, [e0, e1, e2, e3], [i0, i1, i2, i3], dn⟩
    let to' := fun (is : List (BitVec 16)) (d : Bool) => (⟨b, st, [e0, e1, e2, e3], is, d⟩ : Gen)
    g.step = if i0 ≠ e0 then to' [i0 + 1, i1, i2, i3] dn else if i1 ≠ e1 then to' [0, i1 + 1, i2, i3] dn
      else if i2 ≠ e2 then to' [0, 0, i2 + 1, i3] dn else if i3 ≠ e3 then to' [0, 0, 0, i3 + 1] dn else to' [0, 0, 0, 0] true) ∧
  (∀ (g : Gen) (n : Nat), g.steps 0 = g ∧ g.steps (n + 1) = (g.steps n).step) ∧
  (∀ (g : Gen) i0 i1 i2 i3, g.idx = [i0, i1, i2, i3] → i0.toNat ≤ 32767 →
    g.word = i3 ++ i2 ++ i1 ++ (i0.truncate 15 : BitVec 15) ++ BitVec.ofBool g.done))

/-- R340, R346, R347, R310: SBRA and SEXIT at the end of their clause, the numbered barriers, the sequencer's FENCE, TRAP, TRET and PDONE,
and a word that is ILLEGAL for it. -/
def Obligations.SequencerControl : Prop :=
  (∀ (op : SbraOp) a off (s t : State) (h : SHere) (c : STarget), h.free s [a] = true → h.run.last = true →
    let va := h.run.va + 8 * BitVec.ofInt 64 off.toInt
    let takes := op = .always ∨ op = .z ∧ h.get a = 0 ∨ op = .nz ∧ h.get a ≠ 0
    (¬ takes → exec (.sbra op a off) s = .next (s.seqAdvance h)) ∧
    (takes → s.checkSeqTarget h va = (c, t) →
      (c = .ok → exec (.sbra op a off) s = .next (t.modSeq h.uid fun q => { q.advance with pc := va })) ∧
      (c = .bad → exec (.sbra op a off) s = .next (t.seqIllegal h)))) ∧
  (∀ (s : State) (h : SHere), h.free s [] = true → h.run.last = true → exec .sexit s =
    .next ((s.modSeq h.uid fun q => { q.advance with sexit := true }).modBlock h.uid Block.barAll).waits) ∧
  (∀ k a (s : State) (h : SHere), h.free s [a] = true →
    (s.seqOut h.b.coreNo h.uid = false →
      exec (.bara false k a) s = .next (s.modBlock h.uid fun b => { b with seq := b.seq.advance }.seqArrive k.val)) ∧
    (s.seqOut h.b.coreNo h.uid = true → exec (.bara false k a) s = .next s.waits) ∧
    (1025 < (h.get a).toNat → exec (.bara true k a) s = .next (s.seqIllegal h)) ∧
    ((h.get a).toNat ≤ 1025 → exec (.bara true k a) s = .next (s.modBlock h.uid fun b =>
      let c := { b with bars := tset b.bars k.val { tgetD b.bars k.val ⟨false, 0, 0⟩ with expect := (h.get a).toNat }, seq := b.seq.advance }
      if (h.get a).toNat = 0 then c else c.barStep k.val))) ∧
  (∀ (k : Nib) (s : State) (h : SHere), h.free s [] = true →
    (tget? h.b.seq.arr k.val = none → s.loading h.uid .seq = false → exec (.barw k) s = .next (s.seqAdvance h)) ∧
    (tget? h.b.seq.arr k.val = none → s.loading h.uid .seq = true → exec (.barw k) s = .next s.waits) ∧
    (tget? h.b.seq.arr k.val ≠ none → exec (.barw k) s = .next (s.seqBlock h (.barrier k.val)))) ∧
  (∀ (b : Block) (k : Nat), let x := tgetD b.bars k ⟨false, 0, 0⟩
    (0 < x.arrived ∧ b.expected k ≤ x.arrived → tget? (b.barStep k).bars k = some { x with phase := !x.phase, arrived := 0 } ∧
      tget? (b.barStep k).seq.arr k = none ∧
      (∀ r, b.seq.run = some r → (b.barStep k).seq.run = some (if r.blk = some (.barrier k) then { r with blk := none } else r)) ∧
      ∀ w y, tget? b.warps w = some y → ∃ z, tget? (b.barStep k).warps w = some z ∧
        ∀ key a, key % 16 = k → tget? z.arr key = some a → a.released = true) ∧
    (x.arrived = 0 ∨ x.arrived < b.expected k → b.barStep k = b) ∧
    (∀ j, j ≠ k → tget? (b.barStep k).bars j = tget? b.bars j) ∧
    b.expected k = if x.expect = 0 then b.liveThreads + (if b.seq.sexit then 0 else 1) else x.expect) ∧
  (∀ (b : Block) (k n : Nat), let x := tgetD b.bars k ⟨false, 0, 0⟩
    b.arrive k n = Block.barStep { b with bars := tset b.bars k { x with arrived := x.arrived + n } } k ∧
    (tget? b.seq.arr k ≠ none → b.seqArrive k = b) ∧
    (tget? b.seq.arr k = none → b.seqArrive k = Block.arrive { b with seq := { b.seq with arr := tset b.seq.arr k true } } k 1)) ∧
  (∀ l sc (s : State) (h : SHere), h.acts s l [] = true → s.loading h.uid .seq = false →
    exec (.fenceSequencer l .acq sc) s = .next ((if isWide sc then s.dropShared h.b.coreNo else s).seqIssued h l [])) ∧
  (∀ l op sc (s : State) (h : SHere), h.acts s l [] = true → op ≠ .acq → (op = .ar → s.loading h.uid .seq = false) →
    s.commandsOut h.uid = false → isWide sc = false →
    (s.streamOut h.b.coreNo h.uid .seq = false → exec (.fenceSequencer l op sc) s = .next (s.seqIssued h l [])) ∧
    (s.streamOut h.b.coreNo h.uid .seq = true → exec (.fenceSequencer l op sc) s = .next s.waits)) ∧
  (∀ l op sc (s : State) (h : SHere) (c c' : Core), h.acts s l [] = true → op ≠ .acq → (op = .ar → s.loading h.uid .seq = false) →
    s.commandsOut h.uid = false → isWide sc = true → (∀ x ∈ s.padOut, x.uid ≠ h.uid ∨ x.st ≠ .seq) → tget? s.cores h.b.coreNo = some c →
    (c.rels.map fun r => r.round).eraseDups.length < 4 → tget? (s.cleanCore h.b.coreNo).cores h.b.coreNo = some c' →
    (s.cleanCore h.b.coreNo).block? h.uid = some h.b →
    ∃ t o k, exec (.fenceSequencer l op sc) s = .next t ∧ tget? t.ops (s.cleanCore h.b.coreNo).next = some o ∧ o.left = 1 ∧ o.uid = h.uid ∧
      o.st = .seq ∧ o.ctr = l.ctr ∧ tget? t.cores h.b.coreNo = some k ∧ k.rnd = c'.rnd + 1 ∧
      k.rels = c'.rels ++ [⟨c'.rnd.toNat, (s.cleanCore h.b.coreNo).next, if op = .ar then some sc else none⟩] ∧ t.cur = none ∧
      t.agenda = (s.cleanCore h.b.coreNo).agenda ++ [.releaseQueryReply (h.b.coreNo / 128) (h.b.coreNo % 128) c'.rnd.toNat]) ∧
  (∀ l op sc (s : State) (h : SHere), h.acts s l [] = true →
    (op ≠ .rel → s.loading h.uid .seq = true → exec (.fenceSequencer l op sc) s = .next s.waits) ∧
    (op ≠ .acq → s.commandsOut h.uid = true → exec (.fenceSequencer l op sc) s = .next s.waits)) ∧
  (∀ code (s : State) (h : SHere), h.free s [] = true → h.b.seq.inPre = false →
    exec (.trapSequencer code) s = .next ((s.modSeq h.uid fun q =>
      { q.advance with trap := some ⟨10, false, code, false⟩, tpc := h.run.va }).waits)) ∧
  (∀ (s : State) (h : SHere), h.free s [] = true → h.b.seq.inPre = true → h.run.last = true → exec .tretSequencer s =
    .next ((s.modSeq h.uid fun q => ({ q with inPre := false, run := q.saved, saved := none, preTaken := true }).goOn q.tpc false).due
      (.sawaitRelease h.uid)).waits) ∧
  (∀ (s : State) (h : SHere), h.free s [] = true → h.b.seq.inPre = false → exec .tretSequencer s = .next (s.seqIllegal h)) ∧
  (∀ (s : State) (h : SHere), h.free s [] = true →
    (h.b.seq.inPre = true → h.b.preempt = true →
      exec .pdoneSequencer s = .next (s.modSeq h.uid fun q => { q.advance with pdone := true }).waits) ∧
    (h.b.seq.inPre = false ∨ h.b.preempt = false → exec .pdoneSequencer s = .next (s.seqAdvance h))) ∧
  (∀ (s : State) (h : SHere), s.here? = none → h.free s [] = true → exec .illegal s = .next (s.seqIllegal h)) ∧
  (∀ (s : State) (h : Here), s.here? = some h → exec .illegal s = .next (s.trapAt h 7 h.run.mask false)) ∧
  (∀ (s : State) (h : SHere), h.free s [] = true → h.b.seq.inPre = false → s.seqIllegal h =
    (s.modSeq h.uid fun q => { q with trap := some ⟨7, false, 0, false⟩, tpc := h.run.va }).waits)

/-- R320, R340: SLD and SST go out as routed accesses of the sequencer at sA + off x size; an address with a high bit is cause 7. R141,
R154, R165, R342, R343: LDQ, STQ, QPUSH and QPOP: what is taken, what is pushed, and where they wait: at a full queue, at one with no
ready entry that the selector takes, at full-empty bits; a bad tag to push, or a bad address, is cause 7. A push, a release, comes after
the writes of the sequencer and of its commands have landed, and a pop, an acquire, after the sequencer's earlier loads are back. -/
def Obligations.SequencerMemory : Prop :=
  ((∀ l sz rt sc d a off (s : State) (h : SHere), h.acts s l [d, a] = true → h.ea sz a off < 2 ^ 57 →
    LoadsSeq (.sld l sz rt sc d a off) s h rt sc .load
      ((seqTouches (h.ea sz a off) (ssizeBytes sz)).map fun t => (t, t.va - h.ea sz a off))
      fun s1 k => s1.openSeqOp h l (.scalar sz d.val) [(d.val, 0)] k) ∧
  (∀ l sz rt sc a b off (s : State) (h : SHere), h.acts s l [a, b] = true → h.ea sz a off < 2 ^ 57 →
    StoresSeq (.sst l sz rt sc a b off) s h l rt sc
      ((seqTouches (h.ea sz a off) (ssizeBytes sz)).map fun t => (t, natLe t.len ((h.get b).toNat / 2 ^ (8 * (t.va - h.ea sz a off))))) id) ∧
  (∀ l sz rt sc d a b off (s : State) (h : SHere), 2 ^ 57 ≤ h.ea sz a off →
    (h.acts s l [d, a] = true → exec (.sld l sz rt sc d a off) s = .next (s.seqIllegal h)) ∧
    (h.acts s l [a, b] = true → exec (.sst l sz rt sc a b off) s = .next (s.seqIllegal h))) ∧
  (∀ (h : SHere) sz (a : SReg) (off : BitVec 8),
    (h.ea sz a off : Int) = (((h.get a).toNat : Int) + off.toInt * ssizeBytes sz) % 2 ^ 64) ∧
  (∀ (s : State) (id : Nat) (o : Op) (sz : SSize) (d : Nat), tget? s.ops id = some o → o.fin = .scalar sz d → o.left = 0 →
    s.queuedBehind id o = false → let x := leNat ((List.range (ssizeBytes sz)).map fun j => tgetD o.got j 0)
    exec (.longLatencyCompletion id) s = .next (({ s with ops := tset s.ops id { o with
      dests := [(d, if sz = .i32 then BitVec.ofInt 64 (BitVec.ofNat 32 x).toInt else BitVec.ofNat 64 x)] } } : State).completeOp id))) ∧
  ((∀ l form tk rt sc q gen tag (s : State) (h : SHere), h.acts s l [] = true → tagBad h.b tag = false → qRouted form = true →
    let g := h.b.seq.gen gen.val
    (∀ x ∈ qSpans form g, x.2.1 < 2 ^ 57) → (tgetD h.b.queues q.val []).length < 16 → s.seqOut h.b.coreNo h.uid = false →
    LoadsSeq (.ldq l form tk rt sc q gen tag) s h rt sc .load (spanTouches (qSpans form g)) fun s1 k =>
      (({ s1 with next := s1.next + 1 } : State).modBlock h.uid fun b =>
        { (b.push q.val ⟨s1.next, [], tag.val, 0, false⟩) with seq := b.seq.setGen gen.val (g.steps (qSteps form)) }).openSeqOp h l
          (.entry q.val s1.next) [] k) ∧
  (∀ l form tk rt sc q gen tag (s : State) (h : SHere) (ks : List (Nat × Nat × Nat)), h.acts s l [] = true → tagBad h.b tag = false →
    qRouted form = false → (tgetD h.b.queues q.val []).length < 16 →
    let g := h.b.seq.gen gen.val
    s.spanKeys h.b (qSpans form g) = some ks →
    let grs := (ks.flatMap fun x => granules x.2.1 x.2.2).eraseDups
    (tk = true → s.feReady h.run.fe grs true = true ∧ s.loading h.uid .seq = false) → s.seqOut h.b.coreNo h.uid = false →
    (∀ k ∈ grs, tgetD s.poison k 0 = 0) →
    let s1 := if tk then (s.setFull false grs).wakeFull else s
    let o := (({ s1 with next := s1.next + 1 } : State).modBlock h.uid fun b =>
      { (b.push q.val ⟨s1.next, [], tag.val, 0, false⟩) with seq := b.seq.setGen gen.val (g.steps (qSteps form)) }).openSeqOp h l
        (.entry q.val s1.next) [] 0
    exec (.ldq l form tk rt sc q gen tag) s = .next { o.2 with ops := tmod o.2.ops o.1 fun x => { x with got := s.spanBytes h.b.ctx ks } }) ∧
  (∀ l form fl rt sc q gen sel (s : State) (h : SHere) (e : QEntry), h.acts s l [] = true →
    let g := h.b.seq.gen gen.val
    let pop := fun (s : State) =>
      (s.modBlock h.uid fun b => { (b.remove q.val e) with seq := b.seq.setGen gen.val (g.steps (qSteps form)) }).wakeQueues h.uid
    h.b.select q.val sel.val = some e → e.ready = true → s.loading h.uid .seq = false →
    (qRouted form = true → (∀ x ∈ qSpans form g, x.2.1 < 2 ^ 57) →
      StoresSeq (.stq l form fl rt sc q gen sel) s h l rt sc (stqPieces form (qSpans form g) e) pop) ∧
    (qRouted form = false → ∀ ks, s.spanKeys h.b (qSpans form g) = some ks →
      let grs := (ks.flatMap fun x => granules x.2.1 x.2.2).eraseDups
      (fl = true → s.feReady h.run.fe grs false = true) →
      let t := (pop s).putBytes h.b.ctx (stqBytes ks e)
      exec (.stq l form fl rt sc q gen sel) s = .next ((if fl then (t.setFull true grs).wakeFull else t).seqIssued h l []))) ∧
  (∀ l form tk rt sc q gen tag (s : State) (h : SHere), h.acts s l [] = true →
    let sp := qSpans form (h.b.seq.gen gen.val)
    let grsOf := fun (ks : List (Nat × Nat × Nat)) => (ks.flatMap fun x => granules x.2.1 x.2.2).eraseDups
    let full := 16 ≤ (tgetD h.b.queues q.val []).length
    (tagBad h.b tag = true ∨ (qRouted form = true ∧ ∃ x ∈ sp, 2 ^ 57 ≤ x.2.1) ∨ (qRouted form = false ∧ s.spanKeys h.b sp = none) →
      exec (.ldq l form tk rt sc q gen tag) s = .next (s.seqIllegal h)) ∧
    (tagBad h.b tag = false → (qRouted form = true ∧ (∀ x ∈ sp, x.2.1 < 2 ^ 57)) ∨ (qRouted form = false ∧ ∃ ks, s.spanKeys h.b sp = some ks) →
      (full → exec (.ldq l form tk rt sc q gen tag) s = .next (s.seqBlock h (.queue q.val))) ∧
      (¬ full → (qRouted form = true ∨ tk = false) → s.seqOut h.b.coreNo h.uid = true → exec (.ldq l form tk rt sc q gen tag) s = .next s.waits) ∧
      (¬ full → qRouted form = false → tk = true → ∀ ks, s.spanKeys h.b sp = some ks → s.feReady h.run.fe (grsOf ks) true = false →
        exec (.ldq l form tk rt sc q gen tag) s = .next (s.feSeqBlock h (grsOf ks) true)))) ∧
  (∀ l form fl rt sc q gen sel (s : State) (h : SHere), h.acts s l [] = true →
    let sp := qSpans form (h.b.seq.gen gen.val)
    ((qRouted form = true ∧ ∃ x ∈ sp, 2 ^ 57 ≤ x.2.1) ∨ (qRouted form = false ∧ s.spanKeys h.b sp = none) →
      exec (.stq l form fl rt sc q gen sel) s = .next (s.seqIllegal h)) ∧
    ((qRouted form = true ∧ (∀ x ∈ sp, x.2.1 < 2 ^ 57)) ∨ (qRouted form = false ∧ ∃ ks, s.spanKeys h.b sp = some ks) →
      (h.b.select q.val sel.val = none ∨ (∃ e, h.b.select q.val sel.val = some e ∧ e.ready = false) →
        exec (.stq l form fl rt sc q gen sel) s = .next (s.seqBlock h (.queue q.val))) ∧
      (∀ e, h.b.select q.val sel.val = some e → e.ready = true → s.loading h.uid .seq = true →
        exec (.stq l form fl rt sc q gen sel) s = .next s.waits))) ∧
  (∀ l iota q a b tag (s : State) (h : SHere), h.acts s l [a, b] = true → tagBad h.b tag = false →
    ((tgetD h.b.queues q.val []).length < 16 → s.seqOut h.b.coreNo h.uid = false → exec (.qpush l iota q a b tag) s =
      .next (((({ s with next := s.next + 1 } : State).modBlock h.uid fun c => (c.push q.val ⟨s.next, (List.range 32).map fun j =>
        BitVec.ofNat 32 ((h.get a).toNat + (if iota then j * (h.get b).toNat else 0)), tag.val, 0, true⟩).freeEntries).wakeQueues
          h.uid).seqIssued h l [])) ∧
    ((tgetD h.b.queues q.val []).length < 16 → s.seqOut h.b.coreNo h.uid = true → exec (.qpush l iota q a b tag) s = .next s.waits) ∧
    (16 ≤ (tgetD h.b.queues q.val []).length → exec (.qpush l iota q a b tag) s = .next (s.seqBlock h (.queue q.val)))) ∧
  (∀ l iota q a b tag (s : State) (h : SHere), h.acts s l [a, b] = true → tagBad h.b tag = true →
    exec (.qpush l iota q a b tag) s = .next (s.seqIllegal h)) ∧
  (∀ l d q sel j (s : State) (h : SHere), h.acts s l [d] = true →
    (∀ e, h.b.select q.val sel.val = some e → e.ready = true → s.loading h.uid .seq = false → exec (.qpop l d q sel j) s =
      .next (((s.modBlock h.uid fun b => b.remove q.val e).wakeQueues h.uid).seqIssued h l
        [(d.val, BitVec.ofNat 64 ((e.data.getD (2 * j.val) 0).toNat + 2 ^ 32 * (e.data.getD (2 * j.val + 1) 0).toNat))])) ∧
    (∀ e, h.b.select q.val sel.val = some e → e.ready = true → s.loading h.uid .seq = true → exec (.qpop l d q sel j) s = .next s.waits) ∧
    (h.b.select q.val sel.val = none ∨ (∃ e, h.b.select q.val sel.val = some e ∧ e.ready = false) →
      exec (.qpop l d q sel j) s = .next (s.seqBlock h (.queue q.val)))) ∧
  (∀ (b : Block) (tag : Fin 64), tagBad b tag = decide (tag.val < 32 ∧ b.rcd.warps ≤ tag.val)) ∧
  (∀ (b : Block) (q sel : Nat) (e : QEntry), b.select q sel = some e → e ∈ tgetD b.queues q [] ∧ (sel = 63 ∨ e.tag = sel) ∧
    ∃ i : Nat, (tgetD b.queues q [])[i]? = some e ∧ ∀ j, j < i → ∀ x, (tgetD b.queues q [])[j]? = some x → sel ≠ 63 ∧ x.tag ≠ sel) ∧
  (∀ (s : State) (id : Nat) (o : Op) (q e : Nat) (b : Block), tget? s.ops id = some o → o.fin = .entry q e → o.left = 0 →
    s.block? o.uid = some b → ∃ t b', exec (.ldqEntryFilled id) s = .next t ∧ tget? t.ops id = none ∧ t.block? o.uid = some b' ∧
      (∀ x ∈ tgetD b.queues q [], x.id = e → ∃ y ∈ tgetD b'.queues q [], y.id = e ∧ y.ready = true ∧ y.tag = x.tag ∧
        ∀ i, i < 32 → y.data.getD i 0 = BitVec.ofNat 32 (leNat ((List.range 4).map fun j => tgetD o.got (4 * i + j) 0)))))

/-- R348, R352 to R357: CHAIN, CWAIT, COLL, CTWAIT, REDC, LAUNCH, RQPUSH and RQPOP. -/
def Obligations.EngineInstructions : Prop :=
  (∀ l a slot (s : State) (h : SHere), h.acts s l [a] = true → (h.get a).toNat % 64 = 0 → (h.get a).toNat < h.b.rcd.scratch →
    ((∀ ch, tget? h.b.chains slot.val = some ch → ch.running = false) →
      let o := s.openSeqOp h l (.chain slot.val) [] 1
      exec (.chain l a slot) s = .next (o.2.modBlock h.uid fun b => { b with chains := (tset b.chains slot.val
        ⟨(h.get a).toNat, 0, [], 0, 0, 0, 0, true, 0, o.1, false, false, h.run.va, false, []⟩) })) ∧
    (∀ ch, tget? h.b.chains slot.val = some ch → ch.running = true → exec (.chain l a slot) s = .next (s.seqBlock h .engine))) ∧
  (∀ l a slot (s : State) (h : SHere), h.acts s l [a] = true → (h.get a).toNat % 64 ≠ 0 ∨ h.b.rcd.scratch ≤ (h.get a).toNat →
    exec (.chain l a slot) s = .next (s.seqIllegal h)) ∧
  (∀ l d slot (s : State) (h : SHere), h.acts s l [d] = true →
    (∀ ch, tget? h.b.chains slot.val = some ch → ch.running = false → exec (.cwait l false d slot) s = .next (s.seqIssued h l [(d.val, ch.status)])) ∧
    (tget? h.b.chains slot.val = none → exec (.cwait l false d slot) s = .next (s.seqIssued h l [(d.val, BitVec.ofNat 64 (slot.val * 2 ^ 12))])) ∧
    ((∀ kv ∈ h.b.chains, kv.2.running = false) → exec (.cwait l true d slot) s = .next (s.seqIssued h l [(d.val, allStatus h.b.chains)]))) ∧
  (∀ chs : Tab Chain, ((∀ kv ∈ chs, kv.2.status.toNat % 256 = 0) → allStatus chs = 0) ∧
    (∀ k ch rest more, chs = rest ++ (k, ch) :: more → (∀ kv ∈ rest, kv.2.status.toNat % 256 = 0) → ch.status.toNat % 256 ≠ 0 → allStatus chs = ch.status)) ∧
  (∀ l a slot (s : State) (h : SHere), h.acts s l [a] = true → (h.get a).toNat % 64 = 0 → (h.get a).toNat < 2 ^ 57 →
    s.collBusy h.uid h.b slot.val = false → ReadsSeq (.coll l a slot) s h l (.collHead slot.val) [] (h.get a).toNat 64 false .dom true) ∧
  (∀ l d slot (s : State) (h : SHere), h.acts s l [d] = true → s.collBusy h.uid h.b slot.val = false → s.loading h.uid .seq = false →
    let bufs := ((tget? h.b.colls slot.val).map CollSlot.bufs).getD []
    exec (.ctwait l d slot) s = .next ((s.dropLines h.b.coreNo (s.namedLine h.b bufs)).seqIssued h l
      [(d.val, BitVec.ofNat 64 (((tget? h.b.colls slot.val).map CollSlot.status).getD 0))])) ∧
  (∀ l pad n a b c (s : State) (h : SHere) (line ready : Nat), h.acts s l [n, a, b, c] = true → (h.get n).toNat % 2 ^ 32 ≠ 0 →
    (h.get n).toNat < 2 ^ 44 → (h.get b).toNat % 128 = 0 → (h.get c).toNat % 8 = 0 → (h.get b).toNat < 2 ^ 57 → (h.get c).toNat < 2 ^ 57 →
    s.translate h.b.coreNo (h.who 2) (permRd ||| permWr ||| permAt) [⟨0xFF, (h.get b).toNat, 128⟩, ⟨0xFF, (h.get c).toNat, 8⟩] = .ok [line, ready] →
    let fin := Fin'.redc line ready ((h.get n).toNat / 2 ^ 32) ((h.get n).toNat % 2 ^ 32)
    let s0 := (s.dropLine h.b.coreNo (line / 128) none).dropLine h.b.coreNo (ready / 128) none
    (pad = true → ∀ k, s0.padKey h.b .core ((h.get a).toNat : Int) 128 = some k → s.padKey h.b .core ((h.get a).toNat : Int) 128 = some k →
      s0.rowsPoison [k] 128 = none → HasSeq (.redc l pad n a b c) s s0 h l fin [] (s0.rdN h.b.ctx k 128) false .dom) ∧
    (pad = false → (h.get a).toNat + 127 < 2 ^ 57 → ∀ (s1 s2 : State) ras k,
      let ts := (seqTouches (h.get a).toNat 128).map fun t => (t, t.va - (h.get a).toNat)
      let rs := h.reads true .own ts ras
      s0.translate h.b.coreNo (h.reader true) permRd (ts.map Prod.fst) = .ok ras → s0.prepare h.b.coreNo false rs = (s1, false) →
      s1.relStart h.uid h.b.coreNo false .dom = some (k, s2) →
      let o := s2.openSeqOp h l fin [] (rs.length + if k.isSome then 1 else 0)
      exec (.redc l pad n a b c) s = .next (rs.foldl (fun s r => s.loadPiece h.b.coreNo { r with op := some o.1 }) (o.2.relFor h.b.coreNo o.1 k)))) ∧
  (∀ l d a (s : State) (h : SHere), h.acts s l [d, a] = true → (h.get a).toNat % 256 = 0 → (h.get a).toNat < 2 ^ 57 →
    ReadsSeq (.launch l d a) s h l (.launch (h.get a).toNat) [(d.val, 0)] (h.get a).toNat 256 true .dom false) ∧
  (∀ (s : State) (id va : Nat) (o : Op) (b : Block) (x : Ctx), tget? s.ops id = some o → o.left = 0 → o.fin = .launch va →
    s.queuedBehind id o = false → s.block? o.uid = some b → b.active = true → tget? s.ctxs b.ctx = some x → x.dlaunch = false →
    exec (.longLatencyCompletion id) s = .next (s.endWith id 1)) ∧
  (∀ l d a b c q sel (s : State) (h : SHere) (e : QEntry), h.acts s l [d, a, b, c] = true →
    s.under h.uid Fin'.readsTable = false → h.b.select q.val sel.val = some e → e.ready = true → s.loading h.uid .seq = false →
    let ls := recordLanes e
    let ea := fun (i : Nat) => ((h.get a).toNat + 8 * i) % 2 ^ 64
    let src := fun (i : Nat) => ((h.get b).toNat + i * (h.get c).toNat) % 2 ^ 64
    ((∃ x ∈ ls, 2 ^ 57 ≤ ea x.2.1 ∨ 2 ^ 57 ≤ src x.2.2) → exec (.rqpush l d a b c q sel) s = .next (s.seqIllegal h)) ∧
    ((∀ x ∈ ls, ea x.2.1 < 2 ^ 57 ∧ src x.2.2 < 2 ^ 57) → ∀ (s1 : State) (ras : List Nat),
      let ts := spanTouches (((List.range ls.length).zip ls).map fun ix => (8 * ix.1, ea ix.2.2.1, 8))
      let rs := h.reads true .nc ts ras
      s.translate h.b.coreNo (h.reader true) permRd (ts.map Prod.fst) = .ok ras → s.prepare h.b.coreNo true rs = (s1, false) →
      let o := ((s1.modBlock h.uid fun b => b.remove q.val e).wakeQueues h.uid).openSeqOp h l
        (.rqTable (h.get b) (h.get c) (ls.map fun x => (x.1, x.2.2))) [(d.val, 0)] rs.length
      exec (.rqpush l d a b c q sel) s = .next (rs.foldl (fun s r => s.loadPiece h.b.coreNo { r with op := some o.1 }) o.2))) ∧
  (∀ l free d a (s : State) (h : SHere), h.acts s l [d, a] = true →
    (h.b.consumer = none → exec (.rqpop l free d a) s = .next (s.seqIssued h l [(d.val, 0)])) ∧
    ∀ c g n, h.b.consumer = some c → s.node? c.graph c.node = some (g, n) → n.ctlVa = h.get a →
      (free = false → c.popped < c.count → exec (.rqpop l free d a) s =
        .next ((s.modBlock h.uid fun b => { b with consumer := some { c with popped := c.popped + 1 } }).seqIssued h l
          [(d.val, BitVec.ofNat 64 (n.ringVa.toNat + (c.first + c.popped) % n.cap * n.slotB))])) ∧
      (free = false → c.count ≤ c.popped → exec (.rqpop l free d a) s = .next (s.seqIssued h l [(d.val, 0)])) ∧
      (free = true → exec (.rqpop l free d a) s =
        .next (((s.modBlock h.uid fun b => { b with consumer := some { c with freed := c.popped } }).freeSlotsOf c.graph c.node
          (c.popped - c.freed)).seqIssued h l [(d.val, BitVec.ofNat 64 (c.popped - c.freed))])))

/-- R348 to R351, R359: a chain's entries: COPY and QUANT move a row on, LOOP, COND, SIGNAL and END go on, or stop, as the rules say. -/
def Obligations.ChainEntries : Prop :=
  (∀ s uid slot b ch bs o ks kd n m, State.rowEntry s uid slot b ch bs false o ks kd n m → ∃ t b', exec (.copy uid slot) s = .next t ∧
    (∀ j, j < n → t.rd b.ctx (kd + j) = s.rd b.ctx (ks + j)) ∧ (∀ k, k < kd ∨ kd + n ≤ k → t.rd b.ctx k = s.rd b.ctx k) ∧
    (∀ j, j < n → t.isFull ((kd + j) / 16) = true) ∧ t.block? uid = some b' ∧
    tget? b'.chains slot = some { ch with idx := ch.idx + 1, row := 0, piece := 0, reading := false, expired := false, waits := false, entry := [] }) ∧
  (∀ s uid slot b ch bs o ks kd n m, State.rowEntry s uid slot b ch bs true o ks kd n m → ∃ t b', exec (.quant uid slot) s = .next t ∧
    (∀ j, j < m → t.rd b.ctx (kd + j) =
      (rowImage ((List.range (n / 4)).map fun i => leNat (s.rdN b.ctx (ks + 4 * i) 4))).getD j 0) ∧
    (∀ k, k < kd ∨ kd + m ≤ k → t.rd b.ctx k = s.rd b.ctx k) ∧ (∀ j, j < m → t.isFull ((kd + j) / 16) = true) ∧ t.block? uid = some b' ∧
    tget? b'.chains slot = some { ch with idx := ch.idx + 1, row := 0, piece := 0, reading := false, expired := false, waits := false, entry := [] }) ∧
  (∀ (s : State) uid slot b ch bs, s.atEntry uid slot b ch bs 1 → b.copyOk ch bs false = false → ch.row = 0 → ch.piece = 0 → ch.reading = false →
    exec (.copy uid slot) s = .next ((s.latch uid slot bs).stopChain uid slot 1)) ∧
  (∀ (s : State) uid slot b ch bs, s.atEntry uid slot b ch bs 2 → b.copyOk ch bs true = false → ch.row = 0 → ch.piece = 0 → ch.reading = false →
    exec (.quant uid slot) s = .next ((s.latch uid slot bs).stopChain uid slot 1)) ∧
  (∀ words : List Nat, words.length % 32 = 0 → (rowImage words).length = words.length / 32 * 33 + (15 - (words.length / 32 * 33 + 15) % 16) + 16) ∧
  (∀ (s : State) uid slot b ch bs, s.atEntry uid slot b ch bs 3 → loopOk ch bs = true →
    let n := tgetD ch.counts ch.idx 0
    let cnt := efld bs 8 4
    (n < cnt → exec (.loop uid slot) s = .next ((s.latch uid slot bs).modChain uid slot fun c => { c with
      counts := tset c.counts c.idx (n + 1), os := c.os + esig bs 16 8, od := c.od + esig bs 24 8
      idx := efld bs 4 2, row := 0, piece := 0, reading := false, expired := false, waits := false, entry := [] })) ∧
    (cnt ≤ n → b.entryIn ch (ch.idx + 1) = true → exec (.loop uid slot) s = .next ((s.latch uid slot bs).modChain uid slot fun c => { c with
      counts := tset c.counts c.idx 0, os := c.os - cnt * esig bs 16 8, od := c.od - cnt * esig bs 24 8
      idx := ch.idx + 1, row := 0, piece := 0, reading := false, expired := false, waits := false, entry := [] }))) ∧
  (∀ (s : State) uid slot b ch bs, s.atEntry uid slot b ch bs 3 → loopOk ch bs = false →
    exec (.loop uid slot) s = .next ((s.latch uid slot bs).stopChain uid slot 1)) ∧
  (∀ (s : State) uid slot b ch bs, s.atEntry uid slot b ch bs 4 →
    (condOk ch bs = false → exec (.cond uid slot) s = .next ((s.latch uid slot bs).stopChain uid slot 1)) ∧
    (condOk ch bs = true → (ch.expired = false ∨ efld bs 4 1 = 1 ∨ efld bs 32 4 = 0) → s.chainGot ch ≠ [] →
      let w := leNat ((List.range 8).map fun j => tgetD (s.chainGot ch) j 0)
      let holds := waitCond (efld bs 5 1) (w &&& efld bs 24 8) (efld bs 16 8 &&& efld bs 24 8)
      let s0 := ((s.latch uid slot bs).setGot ch []).modChain uid slot fun c => { c with reading := false }
      let s1 := if isWide (scopeOfAcc (efld bs 3 1)) then s0.dropShared b.coreNo else s0
      (holds = false → efld bs 4 1 = 0 → exec (.cond uid slot) s = .next (s0.modChain uid slot fun c => { c with waits := true })) ∧
      (holds = false → efld bs 4 1 = 1 → b.entryIn ch (ch.idx + 1) = true → exec (.cond uid slot) s = .next (s0.chainTo uid slot (ch.idx + 1))) ∧
      (holds = true → efld bs 4 1 = 0 → b.entryIn ch (ch.idx + 1) = true → exec (.cond uid slot) s = .next (s1.chainTo uid slot (ch.idx + 1))) ∧
      (holds = true → efld bs 4 1 = 1 → b.entryIn ch (efld bs 6 2) = true → exec (.cond uid slot) s = .next (s1.chainTo uid slot (efld bs 6 2)))) ∧
    (condOk ch bs = true → efld bs 4 1 = 0 → efld bs 32 4 ≠ 0 → ch.reading = true →
      exec (.condReevaluate uid slot true) s = .next (((s.modChain uid slot fun c => { c with expired := true, waits := false }).latch uid slot bs).stopChain uid slot 2)) ∧
    (condOk ch bs = true → ch.expired = false → s.chainGot ch = [] → ch.reading = true →
      exec (.condReevaluate uid slot false) s = .next ((s.modChain uid slot fun c => { c with expired := false, waits := false }).latch uid slot bs))) ∧
  (∀ x y : Nat, waitCond 0 x y = decide (x = y) ∧ waitCond 1 x y = decide (x ≠ y) ∧ waitCond 2 x y = decide (y ≤ x) ∧ waitCond 3 x y = decide (x < y)) ∧
  (∀ (s : State) uid slot b ch bs, s.atEntry uid slot b ch bs 5 → signalOk bs = true → b.entryIn ch (ch.idx + 1) = true →
    (s.chainLanded ch = false → exec (.signal uid slot) s = .next (s.latch uid slot bs)) ∧
    (s.chainLanded ch = true → ∀ ra, (s.latch uid slot bs).translate b.coreNo (b.chainWho uid 5 ch.word) (permRd ||| permWr ||| permAt) [⟨0xFF, efld bs 8 8, 8⟩] = .ok [ra] →
      let s1 := (s.latch uid slot bs).dropLine b.coreNo (ra / 128) none
      s1.unlanded b.coreNo ra 8 = false →
      let x := s1.countSent (some b.coreNo)
      exec (.signal uid slot) s = .next (((x.2.opMore (some ch.op)).serve { b.engineReq uid .engineWrite .nc true (efld bs 8 8) ra 8 ch.op with
        at' := 2 ^ 20, round := x.1, aop := some ⟨if efld bs 4 1 = 0 then .exch else .add, 8, efld bs 16 8, 0⟩ }).chainTo uid slot (ch.idx + 1)))) ∧
  (∀ (s : State) uid slot b ch bs, s.atEntry uid slot b ch bs 0 →
    ((∃ x ∈ bs, x ≠ 0) → exec (.chainEnd uid slot) s = .next ((s.latch uid slot bs).stopChain uid slot 1)) ∧
    ((∀ x ∈ bs, x = 0) → s.chainLanded ch = true → exec (.chainEnd uid slot) s = .next ((s.latch uid slot bs).stopChain uid slot 0))) ∧
  (∀ (s : State) uid slot b ch code, s.chain? uid slot = some (b, ch) → ∃ b', (s.stopChain uid slot code).block? uid = some b' ∧
    tget? (s.stopChain uid slot code).ops ch.op = none ∧
    tget? b'.chains slot = some { ch with running := false, status := BitVec.ofNat 64 (code + slot * 2 ^ 12 + ch.idx % 2 ^ 16 * 2 ^ 16) })

/-- R206, R217, R353, R354: a contribution counted at its line, and a collective that has every part, or a part that will wait no more.
The ready word is the opening contribution's, an instance lives until NPART arrivals, and the reserves are free values, by the model's
choice (log entries 44, 43, 16 and 89). -/
def Obligations.ContributionsAndCollectives : Prop :=
  (∀ (s s1 : State) rc (c : Contribution) (e : Entry) (r : RedcLine), tget? s.contribs rc = some c →
    s.pieceAt (.engine c.uid) c.ctx c.die 0 c.line 128 true false = (.ok e, s1) →
    mkHolder s1.pkg.device (holderDie e.holder) 3 ∉ s1.badAdders →
    tget? s1.redcs (c.line / 128) = some r ∨ (tget? s1.redcs (c.line / 128) = none ∧
      (s1.redcs.filter fun kv => kv.2.die == holderDie e.holder).length ≤ Config.lineStates ∧
      r = ⟨c.ctx, holderDie e.holder, c.anchor, c.n, 0, [], [], c.ready⟩) →
    let u : State := { s1 with contribs := tdel s1.contribs rc, redcs := tset s1.redcs (c.line / 128) (r.add c) }
    let t := (u.countLanded (some c.core) c.round e.holder).completeOp c.op
    (r.count + 1 < r.n → exec (.redcContribution rc) s = .next t) ∧
    (r.n ≤ r.count + 1 → exec (.redcContribution rc) s = .next (t.closeLine c.line (r.add c) c (u.contribWho c).pc))) ∧
  (∀ (r : RedcLine) (c : Contribution), (r.add c).count = r.count + 1 ∧ (r.add c).n = r.n ∧ (r.add c).ready = r.ready ∧
    (c.words.length = 32 → ∀ i, i < 32 →
      (c.anchor ≠ r.anchor ∨ c.n ≠ r.n → tgetD (r.add c).flag i false = true) ∧
      (tgetD r.flag i false = true → tgetD (r.add c).flag i false = true) ∧
      (c.anchor = r.anchor → c.n = r.n → tgetD r.flag i false = false → ∀ v,
        toGrid (BitVec.ofNat 12 r.anchor).toInt (Fmt.decode .f32 (c.words.getD i 0).toNat) = some v →
        tgetD (r.add c).flag i false = false ∧ tgetD (r.add c).w i 0 = BitVec.ofInt 128 ((tgetD r.w i 0).toInt + v)))) ∧
  (∀ (s : State) key (c : Coll), tget? s.colls key = some c → c.outcome = none → c.parts.length = c.npart →
    (c.op = none → c.result = [] → exec (.collectiveCompletion key) s = .next (s.decideColl key c 0)) ∧
    (∀ id, c.op = some id → tget? s.ops id = none → exec (.collectiveCompletion key) s = .next (s.decideColl key c 0)) ∧
    (c.op = none → c.result ≠ [] → ∀ xs s1, s.reachParts c.ctx (holderDie c.root) c.result.length c.parts [] = (some xs, s1) →
      let o := s1.openPkgOp
      let t := xs.foldl (fun (s : State) x => (match s.block? x.1.uid with
        | some b => s.flushVa b x.1.dst c.result.length
        | none => s).pkgWrite (.engine x.1.uid) c.ctx (holderDie c.root) x.1.dst x.2 c.result (some o.1)) o.2
      exec (.collectiveCompletion key) s =
        .next (({ t with colls := tset t.colls key { c with op := some o.1 } } : State).opDone (some o.1)))) ∧
  (∀ (s : State) key rank (c : Coll), tget? s.colls key = some c → c.outcome = none → c.parts.length < c.npart →
    (∃ p ∈ c.parts, p.rank = rank ∧ p.timeout ≠ 0) → exec (.collectiveTimeout key rank) s = .next (s.decideColl key c 2)) ∧
  (∀ (s : State) key (c : Coll) code (p : Part) (b : Block), p ∈ c.parts → s.block? p.uid = some b → ∃ b',
    (s.decideColl key c code).block? p.uid = some b' ∧ tget? b'.colls p.slot = some ⟨0, false, code, 0, ((tget? b.colls p.slot).map CollSlot.bufs).getD []⟩ ∧ b'.warps = b.warps ∧
      (c.npart ≤ c.seen.length → tget? (s.decideColl key c code).colls key = none)) ∧
  (∀ (s : State) id (o : Op) c slot (d : Desc) (data : List Byte),
    let key := s.collKey c d.key
    let t := s.sendPart id o c slot d data
    let p : Part := ⟨o.uid, slot, d.rank, d.dst, data, d.timeout, o.pc⟩
    (tget? s.colls key = none → if Config.collHeld d.root s.next then t.colls = s.colls else ∃ x, tget? t.colls key = some x ∧
      x.parts = [p] ∧ x.seen = [d.rank] ∧ x.npart = d.npart ∧ x.outcome = none) ∧
    (∀ x, tget? s.colls key = some x → x.outcome = none → x.differs d = false → (∀ q ∈ x.parts, q.rank ≠ d.rank) →
      ∃ y, tget? t.colls key = some y ∧ y.parts = x.parts ++ [p] ∧ y.outcome = none)) ∧
  (∀ c : Coll, (c.oper = 5 → c.result = []) ∧
    (c.oper = 4 → ∀ p, p ∈ c.parts → p.rank = 0 → (∀ q ∈ c.parts, q.rank = 0 → q = p) → c.result = p.data) ∧
    (c.oper = 3 → ∀ p ∈ c.parts, (∀ q ∈ c.parts, q.data.length = c.bytes) → (∀ r, r < c.npart → ∃ q ∈ c.parts, q.rank = r) →
      (∀ q ∈ c.parts, q.rank = p.rank → q = p) → p.rank < c.npart → ∀ i, i < c.bytes → c.result.getD (p.rank * c.bytes + i) 0 = p.data.getD i 0) ∧
    (c.oper = 0 → ∀ i, 4 * i + 3 < c.bytes → leNat ((c.result.drop (4 * i)).take 4) = sumAt (BitVec.ofNat 12 c.anchor).toInt
      (c.parts.map fun p => leNat ((p.data.drop (4 * i)).take 4))))

/-- R42, R49 to R53, R58, R358: the route instructions: the status of validation, that of the authority's checks in their order, and what
an accepted operation sends. RFENCE of an RA with no prefix, and BUSY before NOPFX, are the model's choice (log entry 79). -/
def Obligations.RouteInstructions : Prop :=
  (∀ (s : State) (c pfx len : Nat) (hd : W64) (adds : Nat), s.validate c pfx len hd adds =
    if len < 8 ∨ 42 < len then some 13
    else if 2 ^ 17 ≤ hd.toNat ∨ s.validHolder hd.toNat = false then some 10
    else if s.routeGranted c (pfxBase pfx) (pfxSize len) = false ∨ s.holderGranted c hd.toNat (pfxBase pfx) (pfxSize len) = false then some 2
    else if s.quotaTakes c adds = false then some 4 else none) ∧
  (∀ l d a b (len : Fin 64) (s : State) (h : SHere) (ra n : Nat), h.routes s l [d, a, b] a ra →
    let pfx := pfxOf ra len.val
    let st := s.seqIssued h l [(d.val, BitVec.ofNat 64 n)]
    (s.validate h.b.ctx pfx len.val (h.get b) (s.adds pfx len.val (h.get b)) = some n →
      (∀ rep loc, exec (.announce l rep loc d a b len) s = .next st) ∧
      exec (.replicate l d a b len) s = .next st ∧ exec (.migrate l d a b len) s = .next st) ∧
    (s.validate h.b.ctx pfx len.val (h.get b) 0 = some n → exec (.withdraw l d a b len) s = .next st)) ∧
  (∀ (s : State) pfx len hd, s.adds pfx len hd = if (s.entryNow pfx len hd.toNat).isSome = true then 0 else 1) ∧
  (∀ l d a b (len : Fin 64) (s : State) (h : SHere) (ra : Nat), h.routes s l [d, a, b] a ra →
    let pfx := pfxOf ra len.val
    let busy := s.seqIssued h l [(d.val, 3)]
    let noPrefix := s.seqIssued h l [(d.val, 5)]
    let valid := s.validate h.b.ctx pfx len.val (h.get b) (s.adds pfx len.val (h.get b)) = none
    let sound := s.validate h.b.ctx pfx len.val (h.get b) 0 = none
    (s.regenBusy pfx len.val = true → (valid → (∀ rep loc, exec (.announce l rep loc d a b len) s = .next busy) ∧
      exec (.replicate l d a b len) s = .next busy ∧ exec (.migrate l d a b len) s = .next busy) ∧
      (sound → exec (.withdraw l d a b len) s = .next busy)) ∧
    (s.regenBusy pfx len.val = false → s.homeNow pfx len.val = none → (valid → (∀ loc, exec (.announce l true loc d a b len) s = .next noPrefix) ∧
      exec (.replicate l d a b len) s = .next noPrefix ∧ exec (.migrate l d a b len) s = .next noPrefix) ∧
      (sound → exec (.withdraw l d a b len) s = .next noPrefix))) ∧
  (∀ l (locked : Bool) d a b (len : Fin 64) (s : State) (h : SHere) (ra : Nat), h.routes s l [d, a, b] a ra →
    let pfx := pfxOf ra len.val
    let hd := (h.get b).toNat
    s.validate h.b.ctx pfx len.val (h.get b) (s.adds pfx len.val (h.get b)) = none → s.homeNow pfx len.val = none →
    s.prefixBusy pfx len.val = false →
    if s.createdElsewhere pfx len.val then exec (.announce l false locked d a b len) s = .next (s.seqIssued h l [(d.val, 7)])
    else s.topVersion pfx len.val < topProgramVersion →
    (s.hasRoom hd len.val = true → let v := s.topVersion pfx len.val + 1
      let s1 := s.place hd pfx len.val
      let o := s1.openRop h l d { h.rop s1 .announceHome pfx len.val hd with ver := v, lock := locked }
      exec (.announce l false locked d a b len) s = .next (o.2.say 8 (mkMsg mAnnounce pfx len.val hd v (s1.routeCtx h.b.ctx) true locked))) ∧
    (s.hasRoom hd len.val = false → exec (.announce l false locked d a b len) s = .next (s.seqIssued h l [(d.val, 4)]))) ∧
  (∀ l (locked : Bool) d a b (len : Fin 64) (s : State) (h : SHere) (ra : Nat) (e : Entry), h.routes s l [d, a, b] a ra →
    let pfx := pfxOf ra len.val
    let hd := (h.get b).toNat
    let au := s.authOf e
    let v := s.topVersion pfx len.val + 1
    s.validate h.b.ctx pfx len.val (h.get b) (s.adds pfx len.val (h.get b)) = none → s.homeNow pfx len.val = some e →
    s.regenBusy pfx len.val = false →
    ((∀ x, s.entryNow pfx len.val hd = some x → x.st = .failed) → holderStore hd ≠ 3 → holderStore e.holder ≠ 3 →
      (e.lock = locked → s.prefixBusy pfx len.val = false → v ≤ topProgramVersion → s.hasRoom hd len.val = true → e.holder ≠ hd →
        let s1 := s.place hd pfx len.val
        let o := s1.openRop h l d { h.rop s1 .announceReplica pfx len.val hd with ver := v, lock := locked }
        exec (.announce l true locked d a b len) s = .next (o.2.say au (mkMsg mAnnounce pfx len.val hd v (s1.routeCtx h.b.ctx) false locked))) ∧
      (e.lock ≠ locked → exec (.announce l true locked d a b len) s = .next (s.seqIssued h l [(d.val, 9)])) ∧
      (s.prefixBusy pfx len.val = false → v < topProgramVersion → s.hasRoom hd len.val = true →
        let s1 := s.place hd pfx len.val
        let o := s1.openRop h l d { h.rop s1 .replicate pfx len.val hd with ver := v, old := e.holder, lock := e.lock }
        exec (.replicate l d a b len) s = .next (({ o.2 with filled := tset o.2.filled o.1 [] } : State).say au
          (mkMsg mFill pfx len.val hd v (s1.routeCtx h.b.ctx) false e.lock))) ∧
      (s.prefixBusy pfx len.val = true → exec (.replicate l d a b len) s = .next (s.seqIssued h l [(d.val, 3)])) ∧
      (e.holder ≠ hd → s.prefixBusy pfx len.val = false → v + 4 ≤ topProgramVersion → s.hasRoom hd len.val = true →
        let s1 := s.place hd pfx len.val
        let o := s1.openRop h l d { h.rop s .migrate pfx len.val hd with old := e.holder, lock := e.lock, ver := v }
        exec (.migrate l d a b len) s = .next (({ o.2 with filled := tset o.2.filled o.1 [] } : State).say au
          (mkMsg mFill pfx len.val hd v (s.routeCtx h.b.ctx) false e.lock)))) ∧
    (e.holder ≠ hd → exec (.announce l false locked d a b len) s = .next (s.seqIssued h l [(d.val, 7)])) ∧
    (e.holder = hd → s.prefixBusy pfx len.val = false → v ≤ topProgramVersion →
      let o := s.openRop h l d { h.rop s .announceHome pfx len.val hd with ver := v, lock := locked }
      exec (.announce l false locked d a b len) s = .next (o.2.say au (mkMsg mAnnounce pfx len.val hd v (s.routeCtx h.b.ctx) true locked))) ∧
    (holderStore hd ≠ 3 → holderStore e.holder ≠ 3 →
      (e.holder = hd → exec (.migrate l d a b len) s = .next (s.seqIssued h l [(d.val, 0)])) ∧
      (∀ x, e.holder ≠ hd → s.entryNow pfx len.val hd = some x → x.st = .active → s.prefixBusy pfx len.val = false → v + 2 ≤ topProgramVersion →
        let o := s.openRop h l d { h.rop s .migrate pfx len.val hd with old := e.holder, lock := e.lock, ver := v, phase := 2 }
        exec (.migrate l d a b len) s = .next (o.2.say au (mkMsg mHomemove pfx len.val hd v (s.routeCtx h.b.ctx) true e.lock))))) ∧
  (∀ l d a b (len : Fin 64) (s : State) (h : SHere) (ra : Nat) (home : Entry), h.routes s l [d, a, b] a ra →
    let pfx := pfxOf ra len.val
    let hd := (h.get b).toNat
    let au := s.authOf home
    let v := s.topVersion pfx len.val + 1
    s.validate h.b.ctx pfx len.val (h.get b) 0 = none → s.homeNow pfx len.val = some home → s.regenBusy pfx len.val = false →
    (s.entryNow pfx len.val hd = none → exec (.withdraw l d a b len) s = .next (s.seqIssued h l [(d.val, 6)])) ∧
    ∀ e, s.entryNow pfx len.val hd = some e →
    (home.holder = hd → exec (.withdraw l d a b len) s = .next (s.seqIssued h l [(d.val, 1)])) ∧
    (home.holder ≠ hd → e.st = .failed → exec (.withdraw l d a b len) s = .next (s.seqIssued h l [(d.val, 6)])) ∧
    (home.holder ≠ hd → e.st = .filling → exec (.withdraw l d a b len) s = .next (s.seqIssued h l [(d.val, 3)])) ∧
    (home.holder ≠ hd → e.serving = true → s.prefixBusy pfx len.val = false → v < topProgramVersion →
      let o := s.openRop h l d { h.rop s .withdraw pfx len.val hd with ver := v, acks := s.domainEngines, lock := e.lock, asker := au }
      exec (.withdraw l d a b len) s = .next ((o.2.say au (mkMsg mDrain pfx len.val hd v (s.routeCtx h.b.ctx) false e.lock)).queryDomain au pfx
        len.val v (s.routeCtx h.b.ctx)))) ∧
  (∀ l sc d a (s : State) (h : SHere) (ra : Nat), h.routes s l [d, a] a ra →
    let en := s.engine h.b.die
    (en.longest ra = [] → exec (.rfence l sc d a) s = .next (s.seqIssued h l [(d.val, 0)])) ∧
    ∀ e es, en.longest ra = e :: es → let v := en.version e.pfx e.len
      let dom := sc = .dom ∨ sc = .sys
      let narrow := sc = .warp ∨ sc = .block ∨ sc = .cluster ∨ sc = .die
      let engs := if narrow then [s.engKey h.b.die] else if dom then s.domainEngines else s.ownEngines.map s.engKey
      let o := s.openRop h l d { h.rop s .rfence e.pfx e.len 0 with ver := v, acks := engs, asker := h.b.die }
      exec (.rfence l sc d a) s = .next (if dom then o.2.queryDomain h.b.die e.pfx e.len v e.ctx
        else o.2.queryAll h.b.die e.pfx e.len v e.ctx (if narrow then [h.b.die] else s.ownEngines))) ∧
  (∀ ra len k : Nat, ra < 2 ^ 56 → len ≤ 42 → (pfxOf ra len).testBit k = (decide (42 - len ≤ k) && ra.testBit (k + 14)))

/-- R41, R43, R44: the Ifemer messages: what each does to the entry that it names, and where it is dropped; RECOST changes a cost alone. A
message with an empty path is the model's choice (log entry 78). -/
def Obligations.RouteMessages : Prop :=
  (∀ eng hop (m : Msg),
    (AppliesMessage (.announceMessage eng hop m) eng hop { m with op := mAnnounce } ∧ DropsMessage (.announceMessage eng hop m) eng hop { m with op := mAnnounce }) ∧
    (AppliesMessage (.fill eng hop m) eng hop { m with op := mFill } ∧ DropsMessage (.fill eng hop m) eng hop { m with op := mFill }) ∧
    (AppliesMessage (.drain eng hop m) eng hop { m with op := mDrain } ∧ DropsMessage (.drain eng hop m) eng hop { m with op := mDrain }) ∧
    (AppliesMessage (.final eng hop m) eng hop { m with op := mFinal } ∧ DropsMessage (.final eng hop m) eng hop { m with op := mFinal }) ∧
    (AppliesMessage (.fail eng hop m) eng hop { m with op := mFail } ∧ DropsMessage (.fail eng hop m) eng hop { m with op := mFail }) ∧
    (AppliesMessage (.homemove eng hop m) eng hop { m with op := mHomemove } ∧ DropsMessage (.homemove eng hop m) eng hop { m with op := mHomemove }) ∧
    (AppliesMessage (.regen eng hop m) eng hop { m with op := mRegen } ∧ DropsMessage (.regen eng hop m) eng hop { m with op := mRegen })) ∧
  (∀ (en : Engine) (m : Msg) (nc : Nat) (hop : Hop),
    let t := en.apply m nc hop
    (m.op = mAnnounce → ∃ e ∈ t.entries, e.pfx = m.pfx ∧ e.len = m.len ∧ e.holder = m.holder ∧ e.st = .active ∧ e.home = m.home ∧
      e.lock = m.lock ∧ e.ver = m.ver ∧ e.cost = nc ∧ e.nhop = hop ∧ e.ctx = m.ctx) ∧
    (m.op = mFill → ∃ e ∈ t.entries, e.pfx = m.pfx ∧ e.len = m.len ∧ e.holder = m.holder ∧ e.st = .filling ∧ e.ver = m.ver ∧ e.cost = nc) ∧
    (m.op = mDrain → ∃ e ∈ t.entries, e.pfx = m.pfx ∧ e.len = m.len ∧ e.holder = m.holder ∧ e.st = .draining ∧ e.ver = m.ver) ∧
    (m.op = mFail → ∃ e ∈ t.entries, e.pfx = m.pfx ∧ e.len = m.len ∧ e.holder = m.holder ∧ e.st = .failed ∧ e.ver = m.ver) ∧
    (m.op = mFinal → (∀ e ∈ t.entries, ¬ (e.pfx = m.pfx ∧ e.len = m.len ∧ e.holder = m.holder)) ∧
      ∃ r ∈ t.retired, r.pfx = m.pfx ∧ r.len = m.len ∧ r.holder = m.holder ∧ r.ver = m.ver) ∧
    (m.op = mHomemove → (∃ e ∈ t.entries, e.holder = m.holder ∧ e.st = .active ∧ e.home = true ∧ e.ver = m.ver) ∧
      ∀ e ∈ t.entries, e.pfx = m.pfx → e.len = m.len → e.holder ≠ m.holder → e.home = false) ∧
    (∀ e, (e.pfx ≠ m.pfx ∨ e.len ≠ m.len) → (e ∈ t.entries ↔ e ∈ en.entries))) ∧
  (∀ eng hop (m : Msg) (s : State), s.dieLive eng = true →
    (m.rsv = 0 → exec (.fqry eng hop m) s =
      .next ((s.setEngine eng { s.engine eng with queries := (s.engine eng).queries ++ [m] }).answer eng)) ∧
    (m.rsv ≠ 0 → exec (.fqry eng hop m) s = .next (s.discard eng) ∧ exec (.recost eng hop m) s = .next (s.discard eng)) ∧
    (∀ e nc, m.rsv = 0 → (s.pkg.device, eng) ∉ m.path → (s.engine eng).named m = some e →
      nc = (if m.cost = 2047 then 2047 else min (m.cost + s.hopCost hop) 2046) →
      (m.ver = e.ver → nc < e.cost ∨ (hop = e.nhop ∧ nc ≠ e.cost) → exec (.recost eng hop m) s =
        .next (((s.setEngine eng { s.engine eng with entries := (s.engine eng).entries.map fun x =>
          if x = e then { e with cost := nc, nhop := if nc < 2047 then hop else e.nhop } else x }).forward eng hop m nc).changed eng)) ∧
      (m.ver ≠ e.ver → exec (.recost eng hop m) s = .next s))) ∧
  (∀ eng hop (m : Msg) (s : State), m.rsv ≠ 0 → exec (.fack eng hop m) s = .next (s.discard eng)) ∧
  (∀ eng hop (m : Msg) (s : State) (id : Nat) (r : ROp), m.rsv = 0 → s.rops = [(id, r)] → r.kind = .rfence →
    let el := m.path.getD 1 (0, 2 ^ 20)
    let by' := el.1 * 16 + el.2
    let mine := m.path.headD (0, 2 ^ 20) = (s.pkg.device, r.asker) ∧ r.pfx = m.pfx ∧ r.len = m.len ∧ r.ver = m.ver
    (¬ mine ∨ by' ∉ r.acks → exec (.fack eng hop m) s = .next s) ∧
    (mine → r.acks = [by'] → exec (.fack eng hop m) s = .next ((s.setRop id { r with acks := [] }).endRop id 0)) ∧
    (mine → by' ∈ r.acks → (∃ x ∈ r.acks, x ≠ by') → exec (.fack eng hop m) s =
      .next (s.setRop id { r with acks := r.acks.filter fun k => k != by' }))) ∧
  (∀ eng (m : Msg) (s : State), exec (.ifemerMessageDiscard eng m) s =
    .next (s.setEngine eng { s.engine eng with discards := (s.engine eng).discards + 1 })) ∧
  (∀ eng pfx len holder (s : State), exec (.retiredRecordExpiry eng pfx len holder) s = .next (s.setEngine eng
    { s.engine eng with retired := (s.engine eng).retired.filter fun r => !(r.pfx == pfx && r.len == len && r.holder == holder) })) ∧
  (∀ eng (s : State), ∃ t, exec (.recostRefresh eng) s = .next t ∧ t.engines = s.engines ∧ s.sameStores t ∧
    ∀ e ∈ (s.engine eng).entries, e.nhop = .here → e.receives = true → holderDev e.holder = s.pkg.device → holderDie e.holder = eng → ∀ hop ∈ s.neighbours eng, ∀ p, hop = .port p →
      (p, { op := mRecost, pfx := e.pfx, len := e.len, home := e.home, lock := e.lock, holder := e.holder, ver := e.ver, ctx := e.ctx
            cost := if holderStore e.holder = 4 then 2 else 0, path := [(s.pkg.device, eng)], rsv := 0 }) ∈ t.portOut)

/-- R47, R50 to R54: the phases of a route operation, the failure of a holder, the takeover of its authority, and what frees its entry.
R40, R47, R52, R90: a request that was held, a store on its way to the other copies of a line, and a line's lock. -/
def Obligations.RouteFailuresAndHeldRequests : Prop :=
  ((∀ (s : State) id (r : ROp), tget? s.rops id = some r →
    let au := (s.authority r.pfx r.len).getD 8
    let v := s.topVersion r.pfx r.len + 1
    (s.copies r = false → exec (.replicateCopyComplete id) s = .next s) ∧
    (s.copies r = true →
      let t := s.copyPrefix (s.localCtx r) r.old r.holder (pfxBase r.pfx) r.len (tgetD s.filled id [])
      let u := { t with filled := tdel t.filled id }
      (r.kind = .replicate → exec (.replicateCopyComplete id) s = .next ((u.setRop id { r with phase := 1, ver := v }).say au
        (mkMsg mAnnounce r.pfx r.len r.holder v r.ctx false r.lock))) ∧
      (r.kind = .migrate → exec (.replicateCopyComplete id) s = .next (((u.setRop id { r with phase := 2, ver := v + 1 }).say au
        (mkMsg mAnnounce r.pfx r.len r.holder v r.ctx false r.lock)).say au
        (mkMsg mHomemove r.pfx r.len r.holder (v + 1) r.ctx true r.lock))) ∧
      (r.kind = .peerFill → exec (.replicateCopyComplete id) s = .next { u with rops := tdel u.rops id })) ∧
    (s.marks r = true →
      (r.kind = .migrate → exec (.handoverMarker id) s = .next
        ((((s.setRop id { r with phase := 3, ver := v, acks := s.domainEngines, asker := au }).say au
          (mkMsg mDrain r.pfx r.len r.old v r.ctx false r.lock)).queryDomain au r.pfx r.len v r.ctx).release)) ∧
      (r.kind = .peerFill → exec (.handoverMarker id) s = .next ({ s with rops := tdel s.rops id } : State).release)) ∧
    (s.marks r = false → exec (.handoverMarker id) s = .next s) ∧
    (r.acks ≠ [] ∨ s.homeDrained r = false → exec (.drainAcknowledged id) s = .next s) ∧
    (r.acks = [] → s.homeDrained r = true → (r.kind = .withdraw ∧ r.phase = 0) ∨ (r.kind = .migrate ∧ r.phase = 3) →
      let gone := if r.kind = .migrate then r.old else r.holder
      let t := ((s.setRop id { r with phase := r.phase + 1, ver := v }).say au
        (mkMsg mFinal r.pfx r.len gone v r.ctx false r.lock)).unplace gone r.pfx r.len
      exec (.drainAcknowledged id) s =
        .next (if r.kind = .migrate ∧ s.leavesHbm r.old r.holder = true then t.tagPages (s.localCtx r) r.holder r.pfx r.len else t))) ∧
  (∀ (s : State) eng pfx len holder (e : Entry), (s.engine eng).entry? pfx len holder = some e →
    let t := s.setEngine eng { s.engine eng with entries := (s.engine eng).entries.map fun x => if x = e then { e with st := .failed } else x }
    let v := t.topVersion pfx len + 1
    (e.st = .failed → exec (.holderFailure eng pfx len holder) s = .next t) ∧
    (e.st ≠ .failed → s.homeNow pfx len = none → exec (.holderFailure eng pfx len holder) s = .next (t.failAt eng pfx len holder v)) ∧
    (∀ h, e.st ≠ .failed → s.homeNow pfx len = some h → t.authorityActs eng h = true →
      (t.authOf h = eng → exec (.holderFailure eng pfx len holder) s = .next (t.failAt eng pfx len holder v)) ∧
      (∀ x, t.authOf h ≠ eng → (t.engine (t.authOf h)).entry? pfx len holder = some x →
        (x.st ≠ .failed → exec (.holderFailure eng pfx len holder) s = .next (t.failAt (t.authOf h) pfx len holder v)) ∧
        (x.st = .failed → exec (.holderFailure eng pfx len holder) s = .next t))) ∧
    (∀ h, e.st ≠ .failed → s.homeNow pfx len = some h → t.authorityActs eng h = false →
      (∀ x, t.leastRemaining eng pfx len = some x → exec (.holderFailure eng pfx len holder) s =
        .next (if holderDev x.holder = t.pkg.device then t.due (.authorityTakeover (homeEngine x.holder) pfx len) else t)) ∧
      (t.leastRemaining eng pfx len = none → exec (.holderFailure eng pfx len holder) s = .next (t.afterFail eng pfx len holder false)))) ∧
  (∀ (s : State) eng pfx len, (∀ x, s.leastRemaining eng pfx len = some x → x ∈ (s.engine eng).entries ∧ x.pfx = pfx ∧ x.len = len ∧
      s.remains eng x.holder = true ∧ (x.st = .active ∨ x.st = .draining)) ∧
    (∀ x ∈ (s.engine eng).entries, x.pfx = pfx → x.len = len → x.st = .active → s.remains eng x.holder = true →
      ∃ y, s.leastRemaining eng pfx len = some y ∧ y.st = .active ∧ y.holder ≤ x.holder)) ∧
  (∀ (s : State) eng pfx len (e : Entry), s.dieLive eng = true → (s.engine eng).entries.find? (fun x => x.pfx == pfx && x.len == len) = some e →
    (∀ kv ∈ s.rops, ¬ (kv.2.kind = .takeover ∧ kv.2.pfx = pfx ∧ kv.2.len = len)) →
    ∃ t r, exec (.authorityTakeover eng pfx len) s = .next t ∧ tget? t.rops s.next = some r ∧ r.kind = .takeover ∧ r.pfx = pfx ∧ r.len = len ∧
      r.die = eng ∧ r.asker = eng ∧ r.acks = ({ s with next := s.next + 1 } : State).domainEngines ∧ ∀ k ∈ s.ownEngines, ∃ m, Instr.fqry k .here m ∈ t.agenda ∧ m.pfx = pfx ∧ m.len = len ∧ m.ver = 0) ∧
  (∀ (s : State) eng pfx len, s.dieLive eng = false → exec (.authorityTakeover eng pfx len) s = .next s) ∧
  (∀ (s : State) eng pfx len holder (e : Entry), (s.engine eng).entry? pfx len holder = some e →
    (e.st = .failed → s.authority pfx len = some eng → s.converged eng pfx len = true → exec (.tombstone eng pfx len holder) s = .next
      ((s.say eng (mkMsg mFinal pfx len holder (s.topVersion pfx len + 1) e.ctx false e.lock)).unplace holder pfx len)) ∧
    (e.st ≠ .failed ∨ s.authority pfx len ≠ some eng ∨ s.converged eng pfx len = false → exec (.tombstone eng pfx len holder) s = .next s)) ∧
  (∀ (s : State) line holder (l : LineLock), tget? s.locks line = some l →
    (holder ∉ l.acks ∨ s.paused holder (line * 128) = true → exec (.lockAckTimeout line holder) s = .next s) ∧
    (holder ∈ l.acks → s.paused holder (line * 128) = false →
      let eng := if holderDev l.home = s.pkg.device then homeEngine l.home else 8
      let known := (s.engine eng).entries.find? fun x => x.covers (line * 128) && x.holder == holder
      (∀ e, known = some e → exec (.lockAckTimeout line holder) s = .next (s.failHolder eng e.pfx e.len holder)) ∧
      (known = none → exec (.lockAckTimeout line holder) s = .next (s.acknowledge line holder))))) ∧
  ((∀ (s : State) id (r : Req), tget? s.reqs id = some r →
    (let t := ({ s with reqs := tdel s.reqs id } : State).serve r
      let u := if r.isStore = true then t.unlockLoads (r.ra / 128) else t
      exec (.requestHoldRelease id) s = .next u ∧ exec (.requestBounce id) s = .next u) ∧
    (s.holdRuns r = true → exec (.holdTimeout id) s =
      .next (({ s with reqs := tdel s.reqs id } : State).poisoned (s.whoOf r) r.ra (s.waitedStore r))) ∧
    (s.holdRuns r = false → exec (.holdTimeout id) s = .next s) ∧
    (s.holdRuns r = true ↔ r.why.waitsRoute = true ∧ ∀ e ∈ (s.engine r.die).longest r.ra, s.paused e.holder r.ra = false) ∧
    (s.replays r = true → r.why = .cow → exec (.requestReplay id) s = .next { s with reqs := tdel s.reqs id }) ∧
    (s.replays r = true → r.why ≠ .cow → exec (.requestReplay id) s =
      .next (({ s with reqs := tdel s.reqs id } : State).serve { r with noted := false })) ∧
    (s.replays r = false → exec (.requestReplay id) s = .next s)) ∧
  (∀ (s : State) id holder (w : Wr), tget? s.writes id = some w →
    (holder ∉ w.left ∨ s.pausedFor w holder = true → exec (.propagatedStore (.own id) holder) s = .next s) ∧
    (holder ∈ w.left → s.pausedFor w holder = false →
      (s.behind id w holder = true → exec (.propagatedStore (.own id) holder) s = .next (s.due (.propagatedStore (.own id) holder))) ∧
      (s.behind id w holder = false → exec (.propagatedStore (.own id) holder) s =
        .next ((s.applyWr w holder).wrDone id w holder)))) ∧
  (∀ (s : State) holder (p : PeerStore),
    (holderDev p.src = s.pkg.device ∨ holderDev holder ≠ s.pkg.device → exec (.propagatedStore (.peer p) holder) s = .next s) ∧
    (holderDev p.src ≠ s.pkg.device → holderDev holder = s.pkg.device →
      let c := s.domainCtx (p.ra / 2 ^ 46) p.ctx
      let w : Wr := { agent := .mp c, core := none, round := 0, ctx := c, bytes := bytesAt p.ra p.bytes, holder := p.src, left := [holder]
                      op := none, poison := p.poison }
      let t : State := { s with next := s.next + 1, writes := tset s.writes s.next w }
      t.pausedFor w holder = false → t.behind s.next w holder = false →
      exec (.propagatedStore (.peer p) holder) s = .next ((t.applyWr w holder).wrDone s.next w holder))) ∧
  (∀ (s : State) line (l : LineLock), tget? s.locks line = some l →
    (l.acks ≠ [] ∨ l.applied = true → exec (.lockedWrite line) s = .next s) ∧
    (l.acks = [] → l.applied = false → l.queue = [] → exec (.lockedWrite line) s = .next (({ s with locks := tdel s.locks line } : State).unlockLoads line)) ∧
    (∀ id rest r, l.acks = [] → l.applied = false → l.queue = id :: rest → tget? s.reqs id = some r →
      let hs := ((((s.engine (if holderDev l.home = s.pkg.device then holderDie l.home else 8)).longest r.ra).filter fun f =>
        f.receives && f.holder != l.home).map Entry.holder)
      (hs = [] → exec (.lockedWrite line) s = .next (s.applyLocked line)) ∧
      (hs ≠ [] → exec (.lockedWrite line) s = .next
        (({ s with locks := tset s.locks line { l with acks := hs } } : State).dues (hs.map fun h => .lockAcknowledgement line h))))) ∧
  (∀ (s : State) line holder (l : LineLock), tget? s.locks line = some l →
    ((s.lockWaits l holder).2 = true → exec (.lockAcknowledgement line holder) s = .next s) ∧
    (s.lockWaits l holder = (true, false) → exec (.lockAcknowledgement line holder) s = .next (s.due (.lockAcknowledgement line holder))) ∧
    (l.applied = false → s.lockWaits l holder = (false, false)) ∧
    (holder ∉ l.acks → s.lockWaits l holder = (false, false) → exec (.lockAcknowledgement line holder) s = .next s) ∧
    (l.acks = [holder] → l.applied = false → exec (.lockAcknowledgement line holder) s =
      .next ((({ s with locks := tset s.locks line { l with acks := [], locked := l.locked ++ [holder] } } : State).applyLocked line))) ∧
    (∀ x, holder ∈ l.acks → x ∈ l.acks → x ≠ holder → l.applied = false → exec (.lockAcknowledgement line holder) s =
      .next { s with locks := tset s.locks line { l with acks := l.acks.filter (· != holder), locked := l.locked ++ [holder] } }) ∧
    (∀ wid w, l.acks = [holder] → l.applied = true → l.write = some wid → tget? s.writes wid = some w →
      s.pausedFor w holder = false → s.behind wid w holder = false → exec (.lockAcknowledgement line holder) s = .next (((s.applyWr w holder).wrDone wid w holder).unlock line
        { l with acks := [], locked := l.locked.filter (· != holder) }))))

/-- R361 to R370: the matrix engine: TFETCH, TREL, the eight multiplies, ZCLR, ZLD and ZST. -/
def Obligations.MatrixInstructions : Prop :=
  (∀ l rt sc pin a b (s : State) (h : SHere), h.onTiles s l [a, b] = true → s.under h.uid (fun f => f == .pin pin.val) = false →
    let va := fun (r : Nat) => ((h.get a).toNat + r * (h.get b).toNat) % 2 ^ 64
    let ts := (List.range 128).map fun r => ((⟨0xFF, va r, 128⟩ : Touch), 128 * r)
    (h.get a).toNat % 128 = 0 → (h.get b).toNat % 128 = 0 → (h.get b).toNat < 2 ^ 32 → pin.val < h.b.pinCount →
    (∀ r, r < 128 → va r < 2 ^ 57) →
    ∀ (s1 : State) (ras : List Nat), let rs := h.loads .engineRead rt sc ts ras
      s.translate h.b.coreNo (h.who 4) permRd (ts.map Prod.fst) = .ok ras → s.prepare h.b.coreNo (rt == .nc) rs = (s1, false) →
      let o := s1.openSeqOp h l (.pin pin.val) [] 128
      exec (.tfetch l rt sc pin a b) s = .next (rs.foldl (fun s r => s.loadPiece h.b.coreNo { r with op := some o.1 })
        (o.2.modBlock h.uid fun b => { b with pins := tset b.pins pin.val ⟨[], 0, false⟩ }))) ∧
  (∀ l rt sc pin a b (s : State) (h : SHere), h.onTiles s l [a, b] = true →
    (h.get a).toNat % 128 ≠ 0 ∨ (h.get b).toNat % 128 ≠ 0 ∨ 2 ^ 32 ≤ (h.get b).toNat ∨ h.b.pinCount ≤ pin.val →
    exec (.tfetch l rt sc pin a b) s = .next (s.seqIllegal h)) ∧
  (∀ l pin (s : State) (h : SHere), h.acts s l [] = true →
    exec (.trel l true pin) s = .next ((s.modBlock h.uid fun b => { b with pins := [] }).seqIssued h l []) ∧
    (pin.val < h.b.pinCount → exec (.trel l false pin) s =
      .next ((s.modBlock h.uid fun b => { b with pins := tdel b.pins pin.val }).seqIssued h l [])) ∧
    (h.b.pinCount ≤ pin.val → exec (.trel l false pin) s = .next (s.seqIllegal h))) ∧
  (∀ (b : Block), b.pinCount = 2 * ((List.range 8).filter fun z => b.zheld.getLsbD z).length) ∧
  (∀ l z zd a b,
    Multiplies (.mmaBf16 l z zd a b) l ⟨.bf16, .bf16, 64, 48, false⟩ z zd a b (fun _ => true) (fun _ _ => []) ∧
    Multiplies (.mmaF16 l z zd a b) l ⟨.f16, .f16, 64, 48, false⟩ z zd a b (fun _ => true) (fun _ _ => []) ∧
    Multiplies (.mmaF32 l z zd a b) l ⟨.f32, .f32, 8, 64, false⟩ z zd a b (fun _ => true) (fun _ _ => []) ∧
    Multiplies (.mmacCf32 l z zd a b) l ⟨.f32, .f32, 8, 64, true⟩ z zd a b (fun _ => zd.val % 2 == 0) (fun _ _ => [])) ∧
  (∀ l z zd a b sel vw, let ok := fun (b : Block) => decide (vw.val < b.rcd.vregs)
    let w := fun (b : Block) (j : Nat) => match tget? b.warps 0 with
      | some x => (x.reg (8 * vw.val + j / 32) (j % 32)).toNat
      | none => 0
    let sc := fun (b : Block) (i : Nat) =>
      if sel.getLsbD 7 then [w b (128 + i), w b (sel.toNat % 128)] else [w b i, w b (128 + sel.toNat % 128)]
    Multiplies (.mmasE4m3E4m3 l z zd a b sel vw) l ⟨.e4m3, .e4m3, 128, 64, false⟩ z zd a b ok sc ∧
    Multiplies (.mmasE4m3E5m2 l z zd a b sel vw) l ⟨.e4m3, .e5m2, 128, 64, false⟩ z zd a b ok sc ∧
    Multiplies (.mmasE5m2E4m3 l z zd a b sel vw) l ⟨.e5m2, .e4m3, 128, 64, false⟩ z zd a b ok sc ∧
    Multiplies (.mmasE5m2E5m2 l z zd a b sel vw) l ⟨.e5m2, .e5m2, 128, 64, false⟩ z zd a b ok sc) ∧
  (∀ l zd (s : State) (h : SHere), h.onTiles s l [] = true →
    (h.b.holdsTile zd.val = true → exec (.zclr l zd) s = .next ((s.modBlock h.uid fun b => b.clearTile zd.val).seqIssued h l [])) ∧
    (h.b.holdsTile zd.val = false → exec (.zclr l zd) s = .next (s.seqIllegal h))) ∧
  (∀ (b : Block) (z z' i j : Nat), i < 128 → j < 128 → tgetD (b.clearTile z).tiles (tileKey z' i j) 0 =
    if z' = z then 0 else tgetD b.tiles (tileKey z' i j) 0) ∧
  (∀ l space rt sc zd a b (p : Pad) (s : State) (h : SHere) (ks : List Nat), h.onTiles s l [a, b] = true → h.b.holdsTile zd.val = true →
    tileMoveOk (h.get a) (h.get b) = true → spacePad space = some p → s.padRows h.b p (h.get a).toNat (h.get b).toNat 512 = some ks →
    (s.rowsPoison ks 512 = none → exec (.zld l space rt sc zd a b) s = .next ((s.modBlock h.uid fun b => b.setTile zd.val fun e =>
      BitVec.ofNat 32 (leNat (s.rdN h.b.ctx (ks.getD (e / 128) 0 + 4 * (e % 128)) 4))).seqIssued h l [])) ∧
    (∀ x st, s.rowsPoison ks 512 = some (x, st) →
      exec (.zld l space rt sc zd a b) s = .next (s.poisoned (h.b.engineWho h.uid 4 h.run.va) x st)) ∧
    exec (.zst l space rt sc zd a b) s =
      .next (((s.putRows h.b.ctx ks (h.b.tileBytes zd.val 4 BitVec.toNat)).padTaint h.b zd.val ks).seqIssued h l [])) ∧
  (∀ l space rt sc zd a b (s : State) (h : SHere), h.onTiles s l [a, b] = true → h.b.holdsTile zd.val = true →
    tileMoveOk (h.get a) (h.get b) = true → spacePad space = none →
    ((∀ t ∈ rowTouches (h.get a) (h.get b) 512, t.1.va < 2 ^ 57) →
      LoadsSeq (.zld l space rt sc zd a b) s h rt sc .load (rowTouches (h.get a) (h.get b) 512)
        (fun s1 k => s1.openSeqOp h l (.tile zd.val) [] k) (.engine h.uid)) ∧
    ((∀ v ∈ rowVas (h.get a) (h.get b), v + 511 < 2 ^ 57) →
      exec (.zst l space rt sc zd a b) s = .next (s.tileOut h l (h.who 1) .store (isWide sc)
        (rowPieces (rowVas (h.get a) (h.get b)) (h.b.tileBytes zd.val 4 BitVec.toNat)) [] id
        fun i => tgetD h.b.tilePoison (zd.val * 4096 + i) 0))) ∧
  (∀ l space rt sc zd a b (s : State) (h : SHere), h.onTiles s l [a, b] = true →
    h.b.holdsTile zd.val = false ∨ tileMoveOk (h.get a) (h.get b) = false →
    exec (.zld l space rt sc zd a b) s = .next (s.seqIllegal h) ∧ exec (.zst l space rt sc zd a b) s = .next (s.seqIllegal h)) ∧
  (∀ a p : W64, tileMoveOk a p = decide (a.toNat % 16 = 0 ∧ p.toNat % 16 = 0 ∧ 512 ≤ p.toNat ∧ p.toNat ≤ 2 ^ 20))

/-- R193 to R195: the exact arithmetic of a multiply: the products of a chunk are summed exactly on the chunk's grid, and the sum is added
to the accumulator with one rounding; the special values. R204, R206 to R208: a contribution rounded to the grid of the row's anchor is
added modulo 2^128; one that does not fit flags its element, which then reads 0 and takes nothing more; the moments stay those of the
elements; one event raises COUNT by 1, saturating. -/
def Obligations.ExactArithmetic : Prop :=
  ((∀ (sh : MmaShape) im scales acc (a b : List Fp), let n := if sh.cplx then 2 * sh.chunk else sh.chunk
    a.length = n → b.length = n → 0 < n → mmaElem sh im scales acc a b = chunkStep sh im scales (acc, 0) a b) ∧
  (∀ (sh : MmaShape) im scales (acc : Res) as bs, (Fmt.decode .f32 acc.1).isNan = true →
    (chunkStep sh im scales acc as bs).1 = acc.1 ||| 2 ^ 22) ∧
  (∀ (sh : MmaShape) im scales (acc : Res) as bs, (Fmt.decode .f32 acc.1).isNan = false → (∃ x ∈ as ++ bs, x.isNan = true) →
    chunkStep sh im scales acc as bs = (0x7FC00000, acc.2)) ∧
  (∀ (w : Nat) (ps : List Sys2Proof.Dyadic), let F := ps.filter fun p => p.m != 0
    let c := chunkSum w ps
    (F = [] → c.m = 0) ∧ (F ≠ [] →
      (∀ p ∈ F, (Nat.log2 p.m.natAbs : Int) + p.e ≤ c.e + w) ∧ (∃ p ∈ F, (Nat.log2 p.m.natAbs : Int) + p.e = c.e + w) ∧
      c.m = (F.map fun p => p.m.sign * ((p.m.natAbs * 2 ^ (p.e - c.e).toNat / 2 ^ (c.e - p.e).toNat : Nat) : Int)).sum)) ∧
  (∀ acc, (Fmt.decode .f32 acc).isNan = false → (Fmt.decode .f32 acc).isInf = false → ∀ neg,
    promote acc (.inf neg) [] = (if neg then 0xFF800000 else 0x7F800000, 0)) ∧
  (∀ neg, promote (if neg then 0xFF800000 else 0x7F800000) (.inf (!neg)) [] = (0x7FC00000, Flg.nv)) ∧
  (∀ acc S sc, (Fmt.decode .f32 acc).isNan = false → (Fmt.decode .f32 sc).isNan = true → (promote acc S [sc]).1 = sc ||| 2 ^ 22)) ∧
  ((∀ (a : Int) (neg : Bool) (m : Nat) (e : Int), let big := 2 ^ (a + 47 - e).toNat ≤ m * 2 ^ (e - a - 47).toNat
    (m ≠ 0 → big → toGrid a (.fin neg m e) = none) ∧
    (m = 0 ∨ ¬ big → ∃ c : Int, toGrid a (.fin neg m e) = some c ∧
      (a - 80 ≤ e → c = (if neg then -1 else 1) * (m * 2 ^ (e - (a - 80)).toNat : Nat)) ∧
      (e < a - 80 → let d := 2 ^ (a - 80 - e).toNat
        2 * (c.natAbs * d) ≤ 2 * m + d ∧ 2 * m ≤ 2 * (c.natAbs * d) + d ∧ (2 * m + d = 2 * (c.natAbs * d) ∨ 2 * m = 2 * (c.natAbs * d) + d → c % 2 = 0) ∧
          (0 < c → neg = false) ∧ (c < 0 → neg = true)))) ∧
  (∀ a, (∀ neg, toGrid a (.inf neg) = none) ∧ ∀ n p q, toGrid a (.nan n p q) = none) ∧
  (∀ (r : Row) (i : Nat) (v : Fp), i < r.len → r.exact → (r.addOne i v).exact ∧ (r.addOne i v).len = r.len ∧
    ∀ j, j ≠ i → (r.addOne i v).at' j = r.at' j ∧ (r.addOne i v).flagged j = r.flagged j) ∧
  (∀ (r : Row) (i : Nat) (v : Fp),
    (r.flagged i = true → r.addOne i v = r) ∧
    (r.flagged i = false → toGrid r.anchor v = none → (r.addOne i v).flagged i = true ∧ (r.addOne i v).at' i = 0 ∧ (r.addOne i v).ovf = true) ∧
    (∀ c, r.flagged i = false → toGrid r.anchor v = some c → (r.addOne i v).flagged i = false ∧
      (r.addOne i v).at' i = (BitVec.ofInt 128 (r.at' i + c)).toInt ∧ (r.addOne i v).ovf = r.ovf)) ∧
  (∀ (r : Row) (first : Nat) (vs : List Fp), (r.add first vs).count = min 0xFFFFFFFF (r.count + 1) ∧ (r.add first vs).st = r.st ∧
    (r.add first vs).anchor = r.anchor) ∧
  (∀ w : Int, guardOk w = decide (-2 ^ 119 ≤ w ∧ w < 2 ^ 119)) ∧
  (∀ d g o t l a, 0 < l → (Row.zero d g o t l a).exact))

/-- R200 to R203, R372: SAALLOC and SAFREE, of tiles and of row sets. R203, R205, R208 to R216, R373 to R377: SAADD, SAREAD, SAWAIT,
SASEAL, SAEVICT and SALOAD on a row that they reach. -/
def Obligations.AccumulatorRows : Prop :=
  ((∀ l st res par (s : State) (h : SHere), h.onTiles s l [st, res, par] = true →
    let p := (h.get par).toNat
    let free := (List.range 8).filter fun z => !h.b.zheld.getLsbD z
    (p = 0 ∨ 8 < p → exec (.saalloc l true st res par) s = .next (s.seqIllegal h)) ∧
    (1 ≤ p → p ≤ 8 → s.freeTiles h.b < p ∨ free.length < p →
      exec (.saalloc l true st res par) s = .next (s.seqIssued h l [(res.val, 0), (st.val, 8)])) ∧
    (1 ≤ p → p ≤ 8 → p ≤ s.freeTiles h.b → p ≤ free.length → ∃ m : BitVec 8, (∀ z, m.getLsbD z = (free.take p).contains z) ∧
      exec (.saalloc l true st res par) s =
        .next ((s.modBlock h.uid fun b => { b with zheld := b.zheld ||| m, zgranted := b.zgranted ||| m }).seqIssued h l
          [(res.val, m.zeroExtend 64), (st.val, 0)]))) ∧
  (∀ l st res par (s : State) (h : SHere), h.onTiles s l [st, res, par] = true →
    let p := (h.get par).toNat
    let nrows := p % 2 ^ 20
    let len := p / 2 ^ 20 % 2 ^ 16
    let a := ((h.get par).extractLsb' 36 12).toInt
    let dies := s.maskDies (p / 2 ^ 48 % 256) h.b.die
    let good := p < 2 ^ 56 ∧ 1 ≤ nrows ∧ nrows ≤ 524288 ∧ 1 ≤ len ∧ len ≤ 32768 ∧ dies ≠ []
    (¬ good → exec (.saalloc l false st res par) s = .next (s.seqIllegal h)) ∧
    (good → s.allocRows h.b.ctx dies nrows len a none = none →
      exec (.saalloc l false st res par) s = .next (s.seqIssued h l [(res.val, 0), (st.val, 8)])) ∧
    (good → ∀ hd t, s.allocRows h.b.ctx dies nrows len a none = some (hd, t) →
      exec (.saalloc l false st res par) s = .next (t.seqIssued h l [(res.val, hd), (st.val, 0)]))) ∧
  (∀ l st hr (s : State) (h : SHere), h.onRows s l [st, hr] = true → let x := h.get hr
    (256 ≤ x.toNat ∨ (x.truncate 8 : BitVec 8) &&& ~~~h.b.zgranted ≠ 0 → exec (.safree l true st hr) s = .next (s.seqIllegal h)) ∧
    (x.toNat < 256 → (x.truncate 8 : BitVec 8) &&& ~~~h.b.zgranted = 0 → exec (.safree l true st hr) s =
      .next ((s.modBlock h.uid fun b => b.dropTiles (x.truncate 8)).seqIssued h l [(st.val, 0)])) ∧
    (x.toNat / 2 ^ 42 % 8 = 7 → exec (.safree l false st hr) s = .next (s.seqIssued h l [(st.val, 7)])) ∧
    (∀ rs, x.toNat / 2 ^ 42 % 8 ≠ 7 → tget? s.rowSets (x.toNat % 2 ^ 42) = some rs → rs.handle = x → rs.ctx = h.b.ctx →
      (rs.grid = none → s.under h.uid (Fin'.onSet (x.toNat % 2 ^ 42) (rs.nrows * rs.pitch)) = false →
        exec (.safree l false st hr) s = .next ((s.freeRows (x.toNat % 2 ^ 42)).seqIssued h l [(st.val, 0)])) ∧
      (rs.grid = none → s.under h.uid (Fin'.onSet (x.toNat % 2 ^ 42) (rs.nrows * rs.pitch)) = true →
        exec (.safree l false st hr) s = .next s.waits) ∧
      (rs.grid ≠ none → exec (.safree l false st hr) s = .next (s.seqIssued h l [(st.val, 7)]))) ∧
    (x.toNat / 2 ^ 42 % 8 ≠ 7 → tget? s.rowSets (x.toNat % 2 ^ 42) = none →
      exec (.safree l false st hr) s = .next (s.rowGone h 2 (x.toNat % 2 ^ 42 * 2 ^ 14)))) ∧
  (∀ (s : State) (base page : Nat) (rs : RowSet), tget? s.rowSets base = some rs → let t := s.freeRows base
    tget? t.rowSets base = none ∧ (base ≤ page → page < base + rs.nrows * rs.pitch → tget? t.rows page = none) ∧
      (page < base ∨ base + rs.nrows * rs.pitch ≤ page → tget? t.rows page = tget? s.rows page)) ∧
  (∀ nrows logp base : Nat, 1 ≤ nrows → nrows ≤ 524288 → logp < 7 → base < 2 ^ 42 → let x := handleOf nrows logp base
    x.toNat / 2 ^ 45 + 1 = nrows ∧ x.toNat / 2 ^ 42 % 8 = logp ∧ x.toNat % 2 ^ 42 = base)) ∧
  ((∀ x : W64, rowOpd x = if x.getLsbD 63 = true ∨ x.getLsbD 47 = true ∨ x.toNat / 2 ^ 19 % 2 ^ 13 ≠ 0 then none
    else some ⟨x.toNat % 2 ^ 19, x.toNat / 2 ^ 32 % 2 ^ 15, x.toNat / 2 ^ 48 % 2 ^ 15 + 1⟩) ∧
  (∀ l fmt rel sc st hr r src (s : State) (h : SHere) (o : RowOpd) (page : Nat) (rw : Row), rowOpd (h.get r) = some o →
    h.atRow s l [st, hr, r, src] (h.get hr) o.row page rw → let n := (sourceSize fmt o.n).1
    let a := (h.get src).toNat
    let fin := Fin'.rowAdd page fmt o.first o.n
    (o.first + o.n ≤ rw.len → a % (sourceSize fmt o.n).2 = 0 →
      (∀ k, s.padKey h.b .core (a : Int) n = some k → s.rowsPoison [k] n = none →
        HasSeq (.saadd l fmt true rel sc st hr r src) s s h l fin [(st.val, 0)] (s.rdN h.b.ctx k n) rel sc) ∧
      (a < 2 ^ 57 → a + n - 1 < 2 ^ 57 → ReadsSeq (.saadd l fmt false rel sc st hr r src) s h l fin [(st.val, 0)] a n rel sc false)) ∧
    (rw.len < o.first + o.n ∨ a % (sourceSize fmt o.n).2 ≠ 0 → ∀ pad, exec (.saadd l fmt pad rel sc st hr r src) s = .next (s.seqIllegal h))) ∧
  (∀ (s : State) (page first : Nat) (vs : List Fp) (w : Who) (core : Option Nat) (r : Row), tget? s.rows page = some r → r.poison = false →
    mkHolder s.pkg.device r.die 3 ∉ s.badAdders → let q := r.as (s.rowTag w.ctx)
    (q.st = .live → let c := s.countSent core
      s.rowAddAt page first vs w core =
        (some 0, (c.2.decideRow page (q.add first vs)).countLanded core c.1 (mkHolder s.pkg.device r.die 3))) ∧
    (q.st = .sealed → s.rowAddAt page first vs w core = (some 2, s)) ∧ (q.st = .evicted → s.rowAddAt page first vs w core = (some 1, s))) ∧
  (∀ (s : State) (page uid : Nat) (rw : Row) (b : Block), tget? s.blocks uid = some b → let t := s.decideRow page rw
    let b' := { b with seq := { b.seq with run := b.seq.run.map (Run.decided page rw), saved := b.seq.saved.map (Run.decided page rw) } }
    tget? t.rows page = some rw ∧ tget? t.blocks uid = some b' ∧ (b'.seq.inSawait = true → Instr.sawaitRelease uid ∈ t.agenda)) ∧
  (∀ (page p st want : Nat) (ctr : Option (Fin 8)) (rw : Row) (r : Run), r.blk = some (.sawait p st want ctr none) →
    (p ≠ page ∨ (rw.st ≠ .evicted ∧ rw.count < want) → r.decided page rw = r) ∧
    (p = page → rw.st = .evicted → r.decided page rw = { r with blk := some (.sawait p st want ctr (some 1)) }) ∧
    (p = page → rw.st ≠ .evicted → want ≤ rw.count → r.decided page rw = { r with blk := some (.sawait p st want ctr (some 0)) })) ∧
  (∀ l st hr r (s : State) (h : SHere), h.onRows s l [st, hr, r] = true → (h.get r).toNat < 2 ^ 19 → let row := (h.get r).toNat
    (s.rowRef h.b.die (h.get hr) row = .bad → exec (.saseal l st hr r) s = .next (s.seqIssued h l [(st.val, 7)])) ∧
    (∀ ra, s.rowRef h.b.die (h.get hr) row = .gone ra → exec (.saseal l st hr r) s = .next (s.rowGone h 2 ra)) ∧
    (∀ ra, s.rowRef h.b.die (h.get hr) row = .lost ra → exec (.saseal l st hr r) s = .next (s.rowLost h 2 ra)) ∧
    (∀ ra w, s.rowRef h.b.die (h.get hr) row = .wait ra w → exec (.saseal l st hr r) s = .next (s.rowWaits h ra w))) ∧
  (∀ l layer (fmt : RowFmt) acq sc (e hr r dst : SReg) (s : State) (h : SHere) (o : RowOpd) (page : Nat) (rw : Row), rowOpd (h.get r) = some o →
    e.val < 63 → tget? h.b.seq.pend (e.val + 1) = none → (acq = true → s.loading h.uid .seq = false) →
    h.atRow s l [e, hr, r, dst] (h.get hr) o.row page rw → o.first + o.n ≤ rw.len → let a := (h.get dst).toNat
    let n := match fmt with | .f32 => 4 * o.n | .bf16 => 2 * o.n | .e4m3 => (o.n + 15) / 16 * 16 + 16
    let al := match fmt with | .f32 => 4 | .bf16 => 2 | .e4m3 => 16
    let sc' := rw.scale layer ((h.get e).toNat % 2 ^ 32)
    ∀ gain, s.gains h.b ((h.get e).toNat / 2 ^ 32) (if fmt = .e4m3 then 0 else o.first) (if fmt = .e4m3 then rw.len else o.n) = .ok (some gain) →
    let out := match fmt with
      | .f32 => rw.plainOut .f32 layer sc'.1 gain o.first o.n
      | .bf16 => rw.plainOut .bf16 layer sc'.1 gain o.first o.n
      | .e4m3 => rw.quantOut layer sc'.1 gain o.first o.n
    let after := fun (s : State) =>
      let s := s.modSeq h.uid fun q => q.orFlags (sc'.2 ||| out.2)
      if acq && isWide sc then s.dropShared h.b.coreNo else s
    a % al = 0 →
    (∀ k, s.padKey h.b .core (a : Int) n = some k →
      (rw.st = .evicted → exec (.saread l layer fmt true acq sc e hr r dst) s = .next (s.seqIssued h l [(e.val + 1, 1)])) ∧
      (rw.st ≠ .evicted → rw.poison = false →
        exec (.saread l layer fmt true acq sc e hr r dst) s = .next (((((after s).putBytes h.b.ctx (bytesAt k out.1)).setFull true
          (granules k n)).wakeFull).seqIssued h l [(e.val + 1, 0)]))) ∧
    (a < 2 ^ 57 → a + n - 1 < 2 ^ 57 → rw.st ≠ .evicted → rw.poison = false →
      exec (.saread l layer fmt false acq sc e hr r dst) s = .next (s.tileOut h l (h.b.engineWho h.uid 5 h.run.va) .engineWrite true
        (outPieces a out.1) [(e.val + 1, 0)] after (fin := .rowOut page)))) ∧
  (∀ l layer fmt pad sc (e hr r dst : SReg) (s : State) (h : SHere), h.onRows s l [e, hr, r, dst] = true → e.val < 63 →
    tget? h.b.seq.pend (e.val + 1) = none → s.loading h.uid .seq = true → exec (.saread l layer fmt pad true sc e hr r dst) s = .next s.waits) ∧
  (∀ l st hr r (s : State) (h : SHere) (page : Nat) (rw : Row), let x := (h.get r).toNat
    x < 2 ^ 63 → x / 2 ^ 19 % 2 ^ 13 = 0 → h.atRow s l [st, hr, r] (h.get hr) (x % 2 ^ 19) page rw → rw.poison = false →
    (rw.st = .evicted → exec (.sawait l st hr r) s = .next (s.seqIssued h l [(st.val, 1)])) ∧
    (rw.st ≠ .evicted → x / 2 ^ 32 ≤ rw.count → exec (.sawait l st hr r) s = .next (s.seqIssued h l [(st.val, 0)])) ∧
    (rw.st ≠ .evicted → rw.count < x / 2 ^ 32 → exec (.sawait l st hr r) s =
      .next (s.seqBlock h (.sawait page st.val (x / 2 ^ 32) l.ctr none)))) ∧
  (∀ l st hr r (s : State) (h : SHere) (page : Nat) (rw : Row), (h.get r).toNat < 2 ^ 19 →
    h.atRow s l [st, hr, r] (h.get hr) (h.get r).toNat page rw → exec (.saseal l st hr r) s = .next (match rw.st with
      | .evicted => s.seqIssued h l [(st.val, 1)]
      | .sealed => s.seqIssued h l [(st.val, 0)]
      | .live => (s.setRow page { rw with st := .sealed }).seqIssued h l [(st.val, 0)])) ∧
  (∀ l narrow st hr r img (s : State) (h : SHere) (page : Nat) (rw : Row), (h.get r).toNat < 2 ^ 19 →
    h.atRow s l [st, hr, r, img] (h.get hr) (h.get r).toNat page rw → let a := (h.get img).toNat
    let bs := rw.image narrow
    a % 64 = 0 → a < 2 ^ 57 → a + bs.length - 1 < 2 ^ 57 → rw.poison = false →
    let ends := fun (n : W64) => exec (.saevict l narrow st hr r img) s = .next (s.seqIssued h l [(st.val, n)])
    (rw.st = .evicted → ends 1) ∧ (narrow = true → rw.st = .live → ends 3) ∧
    (narrow = false → rw.st ≠ .evicted → rw.ovf = true → ends 4) ∧
    (rw.st ≠ .evicted → (narrow = true → rw.st = .sealed) → (narrow = false → rw.ovf = false) → exec (.saevict l narrow st hr r img) s =
      .next (s.tileOut h l (h.b.engineWho h.uid 5 h.run.va) .engineWrite true (outPieces a bs) [(st.val, 0)] (fin := .rowOut page) fun s =>
        s.decideRow page { rw with st := .evicted, w := [], flag := [] }))) ∧
  (∀ l st hr r img (s : State) (h : SHere) (page : Nat) (rw : Row), (h.get r).toNat < 2 ^ 19 →
    h.atRow s l [st, hr, r, img] (h.get hr) (h.get r).toNat page rw → (h.get img).toNat % 64 = 0 → (h.get img).toNat < 2 ^ 57 →
    ∀ (s1 : State) (ras : List Nat), let va := (h.get img).toNat
      let rs := h.reads false .own ((seqTouches va 64).map fun t => (t, t.va - va)) ras
      s.translate h.b.coreNo (h.reader false) permRd (seqTouches va 64) = .ok ras → s.prepare h.b.coreNo false rs = (s1, false) →
      let o := s1.newSeqOp h l (.rowLoad page va true) [(st.val, 0)] rs.length
      exec (.saload l st hr r img) s =
        .next (rs.foldl (fun s r => s.loadPiece h.b.coreNo { r with op := some o.1 }) (o.2.seqBlock h (.fence o.1)))) ∧
  (∀ (s : State) (id page va : Nat) (o : Op) (b : Block) (r : Row), tget? s.ops id = some o → o.left = 0 → o.fin = .rowLoad page va false →
    s.block? o.uid = some b → b.active = true → tget? s.rows page = some r → let q := r.as (s.rowTag b.ctx)
    (q.st ≠ .evicted → exec (.longLatencyCompletion id) s = .next (s.loadEnd id o 6)) ∧
    (q.st = .evicted → s.fitRow q.die (rowBytes q.len) = none → exec (.longLatencyCompletion id) s = .next (s.loadEnd id o 8)) ∧
    (q.st = .evicted → ∀ seg off, s.fitRow q.die (rowBytes q.len) = some (seg, off) → exec (.longLatencyCompletion id) s =
      .next ((s.setRow page (q.install ((List.range (64 + 16 * q.len)).map fun i => tgetD o.got i 0) seg off)).loadEnd id o 0))) ∧
  (∀ (r : Row) (seg off : Nat), r.len ≤ 32768 → 0 < r.len → r.st ≠ .evicted → (∀ i, r.flagged i = false) → r.count < 2 ^ 32 → r.ovf = false →
    let q := r.install (r.image false) seg off
    r.fits (r.image false) = true ∧ (∀ i, i < r.len → q.at' i = r.at' i) ∧ q.sum = r.sum ∧ q.ssq = r.ssq ∧ q.count = r.count ∧ q.st = r.st ∧
      q.restored = r.restored ∧ q.ovf = r.ovf))

/-- R371: ZDRAIN: into a scratchpad or routed memory, and its adding forms, which wait for their release. -/
def Obligations.TileDrains : Prop :=
  (∀ l (m : Drain) zd a b c (s : State) (h : SHere), h.onRows s l [a, b] = true → h.b.holdsTile zd.val = true →
    h.b.tileBad.getLsbD zd.val = false → m.space ≠ .row → let sA := (h.get a).toNat
    let sB := (h.get b).toNat
    let eb := if m.fmt = .f32 then 4 else 2
    let al := if m.space = .mem then (if m.add then 4 else 1) else 16
    (¬ (sA % al = 0 ∧ sB % al = 0 ∧ 128 * eb ≤ sB) → exec (.zdrain l m zd a b c) s = .next (s.seqIllegal h)) ∧
    (sA % al = 0 → sB % al = 0 → 128 * eb ≤ sB →
    let rows := h.b.tileBytes zd.val 4 BitVec.toNat
    let outs := h.b.tileBytes zd.val eb fun x => (drainElem m.fmt x).1
    let fl := (trange h.b.tiles (tileKey zd.val 0 0) (tileKey (zd.val + 1) 0 0)).foldl (fun f kv => f ||| (drainElem m.fmt kv.2).2) 0
    let clear := fun (s : State) => if m.clr then s.modBlock h.uid fun b => b.clearTile zd.val else s
    (∀ p ks, spacePad m.space = some p → s.padRows h.b p sA sB (128 * eb) = some ks →
      (m.add = false → exec (.zdrain l m zd a b c) s = .next (((clear (((s.putRows h.b.ctx ks outs).setFull true
        (ks.flatMap fun k => granules k (128 * eb))).wakeFull)).modSeq h.uid fun q => q.orFlags fl).seqIssued h l [])) ∧
      (m.add = true → s.rowsPoison ks (128 * eb) = none →
        HasSeq (.zdrain l m zd a b c) s s h l (.drainPad ks) [] rows.flatten m.rel m.scope clear)) ∧
    (spacePad m.space = none → (∀ v ∈ rowVas (h.get a) (h.get b), v + 128 * eb - 1 < 2 ^ 57) →
      (m.add = false → exec (.zdrain l m zd a b c) s = .next (s.tileOut h l (h.b.engineWho h.uid 5 h.run.va) .engineWrite (isWide m.scope)
        (((rowVas (h.get a) (h.get b)).zip outs).flatMap fun x => outPieces x.1 x.2) [] fun s => (clear s).modSeq h.uid fun q => q.orFlags fl)) ∧
      (m.add = true → let ts := (rowVas (h.get a) (h.get b)).flatMap fun v => seqTouches v (128 * eb)
        ∀ ras, s.translate h.b.coreNo (h.b.engineWho h.uid 2 h.run.va) (permRd ||| permWr ||| permAt) ts = .ok ras →
        HasSeq (.zdrain l m zd a b c) s s h l
          (.drainMem ((ts.zip ras).flatMap fun x => (List.range (x.1.len / 4)).map fun j => (x.1.va + 4 * j, x.2 + 4 * j)))
          [] rows.flatten m.rel m.scope clear)))) ∧
  (∀ l (m : Drain) zd a b c (s : State) (h : SHere) (o : RowOpd) (pages : List Nat) (r : Row), m.space = .row →
    h.onRows s l [a, b, c] = true → h.b.holdsTile zd.val = true → h.b.tileBad.getLsbD zd.val = false → rowOpd (h.get b) = some o → o.n = 1 →
    (h.get a).toNat / 2 ^ 42 % 8 ≠ 7 → o.row + 127 < (h.get a).toNat / 2 ^ 45 + 1 →
    ((List.range 128).map fun i => s.rowRef h.b.die (h.get a) (o.row + i)) = pages.map .row → tget? s.rows (pages.headD 0) = some r →
    o.first + 128 ≤ r.len →
    HasSeq (.zdrain l m zd a b c) s s h l (.drainRow pages o.first) [(c.val, 0)] (h.b.tileBytes zd.val 4 BitVec.toNat).flatten m.rel m.scope
      fun s => if m.clr then s.modBlock h.uid fun b => b.clearTile zd.val else s) ∧
  (∀ l (m : Drain) zd a b c (s : State) (h : SHere) (o : RowOpd), m.space = .row → h.onRows s l [a, b, c] = true →
    h.b.holdsTile zd.val = true → h.b.tileBad.getLsbD zd.val = false → rowOpd (h.get b) = some o → o.n = 1 →
    (h.get a).toNat / 2 ^ 42 % 8 = 7 → exec (.zdrain l m zd a b c) s =
      .next ((if m.clr then s.modBlock h.uid fun b => b.clearTile zd.val else s).seqIssued h l [(c.val, 7)])) ∧
  (∀ l m zd a b c (s : State) (h : SHere), h.onRows s l (if m.space = .row then [a, b, c] else [a, b]) = true → h.b.holdsTile zd.val = true →
    h.b.tileBad.getLsbD zd.val = true → exec (.zdrain l m zd a b c) s = .next (s.badTile h zd.val)) ∧
  (∀ l m zd a b c (s : State) (h : SHere), h.onRows s l (if m.space = .row then [a, b, c] else [a, b]) = true → h.b.holdsTile zd.val = false →
    exec (.zdrain l m zd a b c) s = .next (s.seqIllegal h)) ∧
  (∀ x : W32, (drainElem .f32 x).1 = if (Fmt.decode .f32 x.toNat).isNan then x.toNat ||| 2 ^ 22 else x.toNat)

/-- R136, R143, R144, R150, R160, R212, R243 to R245: clauses fetched and started, and the events that end a stream's waits. R124, R126,
R309, R312: the traps that a stream takes at a boundary: pre-emption, a sequencer's trap delivered to the lowest warp that has not exited,
and the block-stall trap of every such warp. That groups form at every choice and that a regroup changes nothing, and which stream goes on
first, are the model's choice (log entries 69 and 82). -/
def Obligations.ClauseEvents : Prop :=
  ((∀ (s t : State) (uid w l : Nat) (b : Block) (x : Warp) (ws : Option Ahead), s.block? uid = some b → b.home.isSome = true →
    tget? b.warps w = some x → s.fetchClause b (.stream uid (.warp w)) false (b.slots.getD w 0xFF) (x.pcOf l) = (ws, t) →
    exec (.clauseFetch uid (.warp w) l) s = .next (match ws with
      | some ws => t.modWarp uid w fun y => y.setAhead (x.pcOf l) ws
      | none => t)) ∧
  (∀ (s t : State) (uid l : Nat) (b : Block) (ws : Option Ahead), s.block? uid = some b → b.home.isSome = true →
    s.fetchClause b (.stream uid .seq) true 0xFE b.seq.pc = (ws, t) →
    exec (.clauseFetch uid .seq l) s = .next (match ws with
      | some ws => t.modSeq uid fun y => y.setAhead b.seq.pc ws
      | none => t)) ∧
  (∀ (s t u : State) (b : Block) a sq slot (pc : W64) (hd : Header) (w : W64) (bad : Option (Nat × Nat)) (x : Ahead), pc.toNat < 2 ^ 57 →
    pc.toNat % 8 = 0 → s.fetchWords b a slot pc 1 = (some ⟨[w], bad⟩, t) → decodeHeader sq w = .ok hd →
    t.fetchWords b a slot (pc + 8) hd.count = (some x, u) →
    s.fetchClause b a sq slot pc = (some ⟨w :: x.words, if bad.isSome then bad else x.bad⟩, u)) ∧
  (∀ (s : State) (uid wn l : Nat) (b : Block) (x : Warp) (ws : List W64) (h : Header), s.block? uid = some b → b.home.isSome = true →
    tget? b.warps wn = some x → tget? x.ahead (x.pcOf l).toNat = some ws → decodeHeader false (ws.headD 0) = .ok h → h.bar = none →
    let pc := x.pcOf l
    let m := s.groupAt x pc
    m ≠ 0 →
    (b.laneWaits wn x h = true → tget? x.badAhead pc.toNat = none → exec (.clauseStart uid (.warp wn) l) s =
      .next ((s.modWarp uid wn fun w => w.begin m pc h (ws.drop 1) (s.clauseClear w)).started uid b (.warp wn))) ∧
    (∀ p, b.laneWaits wn x h = true → tget? x.badAhead pc.toNat = some p → exec (.clauseStart uid (.warp wn) l) s =
      .next (s.poisoned (b.startWho uid (.warp wn) pc) p.1 p.2)) ∧
    (b.laneWaits wn x h = false → exec (.clauseStart uid (.warp wn) l) s = .next s)) ∧
  (∀ (s : State) (uid wn l k : Nat) (b : Block) (x : Warp) (ws : List W64) (h : Header), s.block? uid = some b → b.home.isSome = true →
    tget? b.warps wn = some x → tget? x.ahead (x.pcOf l).toNat = some ws → decodeHeader false (ws.headD 0) = .ok h → h.bar.map Fin.val = some k →
    let pc := x.pcOf l
    let m := s.groupAt x pc
    (∀ go, m ≠ 0 → s.canStart uid b wn x m pc h = go → go ≠ 0 → tget? x.badAhead pc.toNat = none → exec (.clauseStart uid (.warp wn) l) s =
      .next ((s.modWarp uid wn fun w => w.begin go pc h (ws.drop 1) (s.clauseClear w)).started uid b (.warp wn))) ∧
    (s.loading uid (.warp wn) = true → s.canStart uid b wn x m pc h = 0) ∧
    (s.loading uid (.warp wn) = false → b.laneWaits wn x h = true → ∀ j, (s.canStart uid b wn x m pc h).getLsbD j = true ↔
      m.getLsbD j = true ∧ ∃ a, tget? x.arr (j * 16 + k) = some a ∧ a.released = true ∧ a.hdr = pc) ∧
    (m ≠ 0 → s.canStart uid b wn x m pc h = 0 →
    (s.canArrive uid b wn x m pc h = true →
      exec (.clauseStart uid (.warp wn) l) s = .next (s.modBlock uid fun b => b.groupArrives wn x m pc k)) ∧
    (s.canArrive uid b wn x m pc h = false → exec (.clauseStart uid (.warp wn) l) s = .next s))) ∧
  (∀ (s : State) (uid wn l : Nat) (b : Block) (x : Warp) (ws : List W64) (e : Reject), s.block? uid = some b → b.home.isSome = true →
    tget? b.warps wn = some x → tget? x.ahead (x.pcOf l).toNat = some ws → decodeHeader false (ws.headD 0) = .error e →
    let m := s.groupAt x (x.pcOf l)
    m ≠ 0 → tget? x.badAhead (x.pcOf l).toNat = none → exec (.clauseStart uid (.warp wn) l) s = .next
      ((s.modWarp uid wn fun y => { y with ahead := tdel y.ahead (x.pcOf l).toNat }).takeTrap uid wn
        { cause := 7, enter := m, tmask := m, tdst := 0, resumeAt := true, seq := false } fun _ => x.pcOf l)) ∧
  (∀ (s : State) (uid l : Nat) (b : Block) (ws : List W64), s.block? uid = some b → b.home.isSome = true →
    tget? b.seq.ahead b.seq.pc.toNat = some ws →
    (∀ h p, decodeHeader true (ws.headD 0) = .ok h → b.seqWaits h = true → tget? b.seq.badAhead b.seq.pc.toNat = some p →
      exec (.clauseStart uid .seq l) s = .next (s.poisoned (b.startWho uid .seq b.seq.pc) p.1 p.2)) ∧
    (tget? b.seq.badAhead b.seq.pc.toNat = none →
    (∀ h, decodeHeader true (ws.headD 0) = .ok h → b.seqWaits h = true → exec (.clauseStart uid .seq l) s =
      .next ((s.modSeq uid fun q => { q with
        run := some ⟨0, b.seq.pc, h.cls, ws.drop 1, 0, h.yieldBit, none, none, false, false⟩, ahead := tdel q.ahead b.seq.pc.toNat }).started
          uid b .seq)) ∧
    (∀ e, decodeHeader true (ws.headD 0) = .error e → exec (.clauseStart uid .seq l) s =
      .next ((s.modSeq uid fun q => { q with ahead := tdel q.ahead b.seq.pc.toNat }).seqTrap uid 7 true b.seq.pc 0)))) ∧
  (∀ (s : State) (uid : Nat) (b : Block) (st : Stream), s.started uid b st =
    { s.unyield (b.unit st) with cur := some (uid, st), lastStarts := tset s.lastStarts (b.unit st) (b.slot st) }) ∧
  (∀ (b : Block) (wn : Nat) (w : Warp) (h : Header), b.laneWaits wn w h = true ↔ ∀ k, k < 8 →
    (h.dwait.getLsbD k = true → w.ctrOf k = 0) ∧
    (h.qwait.getLsbD k = true → ∃ e ∈ tgetD b.queues k [], e.ready = true ∧ (e.tag = wn ∨ e.tag = 63 ∧ e.popped.getLsbD wn = false))) ∧
  (∀ d c q (s : State), exec (.issueGroupRegroup d c q) s = .next s) ∧
  (∀ (s : State) (uid w : Nat) (b : Block) (x : Warp), s.block? uid = some b → tget? b.warps w = some x →
    let goes := fun (p : Wait → Bool) (rs : List Run) =>
      letRunsGo (fun r => match r.blk with | some z => p z | none => false) (fun r => { r with blk := none }) rs
    let free := fun (p : Wait → Bool) => s.modWarp uid w fun y => { y with runs := goes p y.runs }
    exec (.queueWaitRelease uid (.warp w)) s = .next (free fun z => match z with | .queue _ => true | _ => false) ∧
    exec (.fullEmptyRelease uid (.warp w)) s = .next (free fun z => z == .fullEmpty)) ∧
  (∀ (s : State) (uid : Nat) (b : Block), s.block? uid = some b →
    let free := fun (p : Wait → Bool) => s.modSeq uid fun y => { y with run := y.run.map fun r =>
      match r.blk with | some z => if p z then { r with blk := none } else r | none => r }
    exec (.queueWaitRelease uid .seq) s = .next (free fun z => match z with | .queue _ => true | _ => false) ∧
    exec (.fullEmptyRelease uid .seq) s = .next (free fun z => z == .fullEmpty) ∧
    (∀ r page st want ctr, b.active = true → b.seq.run = some r →
      (∀ n, r.blk = some (.sawait page st want ctr (some n)) →
        exec (.sawaitRelease uid) s = .next (s.seqIssued ⟨uid, b, r⟩ ⟨0, ctr⟩ [(st, BitVec.ofNat 64 n)])) ∧
      (r.blk = some (.sawait page st want ctr none) → exec (.sawaitRelease uid) s = .next s))) ∧
  (∀ (s : State) (die core round : Nat) (c : Core), tget? s.cores (coreNo die core) = some c →
    (c.landed round = false → exec (.releaseQueryReply die core round) s = .next s) ∧
    (∀ r, c.landed round = true → (c.rels.filter fun r => r.round == round) = [r] →
      exec (.releaseQueryReply die core round) s =
        .next ((s.endRelease (coreNo die core) r).modCore (coreNo die core) fun c => c.forgetRounds round))) ∧
  (∀ (s : State) (die core line : Nat) (c : Core), tget? s.cores (coreNo die core) = some c →
    ∃ t, exec (.l1Eviction die core line) s = .next t ∧ t = s.dropLine (coreNo die core) line none ∧ t.line? (coreNo die core) line = none)) ∧
  ((∀ (s : State) (uid wn : Nat) (b : Block) (x : Warp), s.block? uid = some b → b.preempt = true → b.active = true →
    tget? b.warps wn = some x →
    (s.warpPreempts uid wn x = true → exec (.preemptionTrap uid (.warp wn)) s = .next ((s.takeTrap uid wn
      { cause := 11, enter := ~~~x.exited, tmask := ~~~x.exited, tdst := 0, resumeAt := true, seq := false } x.resumePoint).modWarp uid wn
        fun y => { y with preTaken := true })) ∧
    (s.warpPreempts uid wn x = false → exec (.preemptionTrap uid (.warp wn)) s = .next s)) ∧
  (∀ (s : State) (uid : Nat) (b : Block), s.block? uid = some b → b.preempt = true → b.active = true → b.seq.preempts = true →
    ∃ t q, exec (.preemptionTrap uid .seq) s = .next t ∧ t = s.modSeq uid (fun _ => q) ∧ q.inPre = true ∧ q.preTaken = true ∧
      q.pc = b.rcd.preSeq ∧ q.run = none ∧ q.s = b.seq.s ∧ q.gens = b.seq.gens ∧
      (∀ r, b.seq.run = some r → r.done = false → q.tpc = r.va ∧ q.saved = some r.again) ∧
      ((∀ r, b.seq.run = some r → r.done = true) → q.tpc = b.seq.pc ∧ q.saved = none)) ∧
  (∀ (s : State) (uid wn : Nat) (b : Block) (x : Warp) (t : SeqTrap), s.block? uid = some b → b.delivers = true → b.seq.trap = some t →
    b.firstWarp = some (wn, x) → exec (.sequencerTrapDelivery uid) s = .next ((s.takeTrap uid wn
      { cause := t.cause, enter := ~~~x.exited, tmask := 0, tdst := t.code, resumeAt := t.header, seq := true } fun _ => b.seq.tpc).modSeq uid
        fun q => { q with trap := some { t with delivered := true } })) ∧
  (∀ (s : State) (uid : Nat) (b : Block), s.block? uid = some b → b.delivers = false → exec (.sequencerTrapDelivery uid) s = .next s) ∧
  (∀ (s : State) (uid wn : Nat) (b : Block) (x : Warp), s.block? uid = some b → s.stalled uid b = true → b.warps = [(wn, x)] →
    exec (.blockStall uid) s = .next (s.takeTrap uid wn
      { cause := 8, enter := ~~~x.exited, tmask := ~~~x.exited, tdst := 0, resumeAt := true, seq := false } x.resumePoint)) ∧
  (∀ (s : State) (uid : Nat) (b : Block), s.block? uid = some b → s.stalled uid b = false → exec (.blockStall uid) s = .next s) ∧
  (∀ (w : Warp) (l : Nat), (∀ r ∈ w.runs, r.mask.getLsbD l = false ∨ r.done = true) → w.resumePoint l = w.pcOf l))

/-- R115, R117 to R119, R121 to R130: a decision of the dispatcher, suspension, the deadline, restoring, completion, records counted and
the flush timer. R128, R129, R143: a save frame's size and header, and a barrier's word. What a frame's sections count, when a completed
block releases and the order of events are the model's choice (log entries 81, 38 and 5). -/
def Obligations.SchedulerEvents : Prop :=
  (∀ s : State, s.saveDue = none → s.cands = [] → exec .dispatchDecision s = .next s) ∧
  (∀ s : State, s.saveDue = none → s.cands ≠ [] → (∀ t, s.makeRoom s.cands = some t → exec .dispatchDecision s = .next t) ∧
    (s.makeRoom s.cands = none → ∀ t, s.placeOne s.cands = some t → exec .dispatchDecision s = .next t)) ∧
  (∀ s : State, let forced := s.clusters.find? fun kv =>
      kv.2.resident && (kv.2.blocks.any fun u => ((s.block? u).bind Block.saving).isSome) && s.mayLeave kv.2
    let quiet := s.clusters.find? fun kv => s.quiet kv.2
    (∀ kv, forced = some kv → exec .dispatchDecision s = .next (s.saveSoon kv.1 fun _ => 4)) ∧
    (∀ kv, forced = none → quiet = some kv → exec .dispatchDecision s = .next (s.saveCluster kv.1 fun _ => 5)) ∧
    (∀ cl rest, forced = none → quiet = none → s.stranded = cl :: rest → ∃ f, exec .dispatchDecision s = .next (s.saveSoon cl f)) ∧
    (forced = none → quiet = none → s.stranded = [] → s.saveDue = none)) ∧
  (∀ (s : State) (c : Cluster), s.quiet c = true ↔ c.resident = true ∧
    (∃ u ∈ c.blocks, ∃ b, s.block? u = some b ∧ b.preempt = true) ∧ (∃ u ∈ c.blocks, ∃ b, s.block? u = some b ∧ b.finished = false) ∧
    (∀ u ∈ c.blocks, ∀ b, s.block? u = some b → b.quiesced = true) ∧ s.roundsLeft c = true) ∧
  (∀ (s : State) (q gid die : Nat) (g : Grid) (core : Nat), g.rcd.cblocks = 1 → g.rcd.clusters ≤ g.nextCluster + 1 → ∃ uid b t,
    t = s.placeNew q gid g die [core] ∧ t.block? uid = some b ∧ b.home = some (die, core) ∧ b.ctx = g.ctx ∧ b.grid = gid ∧
      b.blockid = g.nextCluster ∧ b.rank = 0 ∧ b.rcd = g.rcd ∧ b.queues = [] ∧ b.bars = [] ∧ b.tiles = [] ∧
      (∀ w, w < g.rcd.warps → ∃ x, tget? b.warps w = some x ∧ x.regs = [] ∧ x.preds = [] ∧ x.exited = 0 ∧ x.handler = none ∧
        x.stklim = BitVec.ofNat 32 g.rcd.privWords ∧ ∀ l, l < 32 → x.pcOf l = g.rcd.lanePc) ∧
      b.seq.pc = g.rcd.seqPc ∧ b.seq.get 1 = g.rcd.param ∧ b.seq.get 2 = BitVec.ofNat 64 g.nextCluster ∧
      ∃ g', tget? t.grids gid = some g' ∧ g'.nextCluster = g.nextCluster + 1) ∧
  (∀ (s : State) (uid w : Nat) (b : Block) (x : Warp) (c : Cluster), s.block? uid = some b → tget? b.warps w = some x → x.pdone.isSome = true →
    s.busy uid (.warp w) = false → b.home.isSome = true → tget? s.clusters b.cluster = some c →
    let t := s.modWarp uid w fun y => { y with suspended := true, pdone := none }
    (t.quiet c = false → exec (.streamSuspend uid (.warp w)) s = .next t) ∧
    (t.quiet c = true → exec (.streamSuspend uid (.warp w)) s = .next (t.saveCluster b.cluster fun _ => 5))) ∧
  (∀ (s : State) (uid : Nat) (b : Block) (c : Cluster), s.block? uid = some b → b.seq.pdone = true → s.busy uid .seq = false → b.home.isSome = true →
    tget? s.clusters b.cluster = some c → let t := s.modSeq uid fun y => { y with suspended := true, pdone := false }
    (t.quiet c = false → exec (.streamSuspend uid .seq) s = .next t) ∧
    (t.quiet c = true → exec (.streamSuspend uid .seq) s = .next (t.saveCluster b.cluster fun _ => 5))) ∧
  (∀ (s : State) (cl : Nat) (c : Cluster), tget? s.clusters cl = some c →
    ((∃ u ∈ c.blocks, ∃ b, s.block? u = some b ∧ b.preempt = true) → exec (.deadlineExpiry cl) s = .next (s.saveSoon cl fun _ => 2)) ∧
    ((∀ u ∈ c.blocks, ∀ b, s.block? u = some b → b.preempt = false) → exec (.deadlineExpiry cl) s = .next s)) ∧
  (∀ (s : State) (cl uid : Nat) (c : Cluster) (b : Block) (f : Frame), tget? s.clusters cl = some c → c.resident = true → c.blocks = [uid] →
    s.block? uid = some b → b.frame = some f → ∃ t b', exec (.blockRestore cl) s = .next t ∧ t.block? uid = some b' ∧ b'.frame = none ∧
      b'.seq.suspended = false ∧ b'.seq.s = b.seq.s ∧ b'.seq.pc = b.seq.pc ∧ b'.queues = b.queues ∧ b'.bars = b.bars ∧
      ∀ w x, tget? b.warps w = some x → ∃ y, tget? b'.warps w = some y ∧ y.suspended = false ∧ y.regs = x.regs ∧ y.pc = x.pc) ∧
  (∀ (s : State) (uid : Nat) (b : Block), s.block? uid = some b → b.active = true →
    (s.blockDone uid b = false → exec (.blockCompletion uid) s = .next s) ∧
    (s.blockDone uid b = true → b.released = true →
      (s.doneSigWaits b = none → exec (.blockCompletion uid) s = .next (s.blockOver uid b)) ∧
      (∀ t, s.doneSigWaits b = some t → exec (.blockCompletion uid) s = .next t)) ∧
    (s.blockDone uid b = true → b.released = false →
      let set := fun (t : State) => t.modBlock uid fun x => { x with released := true }
      (s.beginFence b.coreNo uid .seq .rel .sys = none → exec (.blockCompletion uid) s = .next s) ∧
      (∀ t, s.beginFence b.coreNo uid .seq .rel .sys = some (none, t) → exec (.blockCompletion uid) s = .next (set t)) ∧
      (∀ t k, s.beginFence b.coreNo uid .seq .rel .sys = some (some k, t) →
        exec (.blockCompletion uid) s = .next (set (t.openRound b.coreNo uid .seq .plain 0 0 none k).2)))) ∧
  (∀ (s : State) (b : Block) (g : Grid), tget? s.grids b.grid = some g → g.rcd.doneSig = 0 ∨ g.doneBlocks + 1 < g.rcd.blocks →
    s.doneSigWaits b = none) ∧
  (∀ (s : State) (uid : Nat) (b : Block) (c : Cluster) (g : Grid), s.block? uid = some b → b.consumer = none → tget? s.clusters b.cluster = some c →
    uid ∈ c.blocks → tget? s.grids b.grid = some g → let t := s.blockOver uid b
    let last := ∀ u ∈ c.blocks, u ≠ uid → ∀ z, s.block? u = some z → z.gone = true
    (g.doneBlocks + 1 < g.rcd.blocks → (last → t.block? uid = none) ∧
      (¬ last → ∃ z, t.block? uid = some z ∧ z.gone = true ∧ z.home = b.home ∧ z.warps = b.warps) ∧
      ∃ g', tget? t.grids b.grid = some g' ∧ g'.doneBlocks = g.doneBlocks + 1) ∧
    (g.rcd.blocks ≤ g.doneBlocks + 1 → (∃ q i, g.owner = .packet q i) → g.hasRows = false → g.rcd.doneSig = 0 →
      (last → t.block? uid = none) ∧ tget? t.grids b.grid = none)) ∧
  (∀ (s : State) (node slot : Nat), let t := s.reserveAll
    t.node? (node / 4096) (node % 4096) = none →
    (∀ p ∈ t.pushes, ¬ (p.graph = node / 4096 ∧ p.node = node % 4096 ∧ p.slot = some slot)) →
    exec (.recordCountedFilled node slot) s = .next t) ∧
  (∀ (s : State) (node slot g k : Nat) (gr : Graph) (n : Node), let t := s.reserveAll
    g = node / 4096 → k = node % 4096 → t.node? g k = some (gr, n) →
    let ours := t.pushes.any fun p => p.graph == g && p.node == k && p.slot == some slot && match p.copy with
      | some id => (tget? t.ops id).isNone
      | none => false
    let u := if ours then t.modNode g k fun x => { x with slots := x.slots.set (slot - (n.head + n.filled)) true } else t
    let v := if n.ctlWant then u.writeControl g k else u
    exec (.recordCountedFilled node slot) s = .next (((v.countFilled g k).prefetch g k).settleGraph g)) ∧
  (∀ s : State, s.findPush [] s.pushes = none → s.reserveAll = s) ∧
  (∀ (s : State) (g k : Nat) (gr : Graph) (n : Node), s.node? g k = some (gr, n) → n.slots.headD false = false → s.countFilled g k = s) ∧
  (∀ (s : State) (node g k : Nat) (gr : Graph) (n : Node), g = node / 4096 → k = node % 4096 → s.node? g k = some (gr, n) → n.kind = 2 →
    n.done = false → n.armed = true → let t := s.modNode g k fun x => { x with armed := false }
    (n.filled = 0 → exec (.flushTimerExpiry node) s = .next t) ∧ (n.filled ≠ 0 → exec (.flushTimerExpiry node) s = .next (t.consume g k n.filled))) ∧
  (∀ (s : State) (uid : Nat) (b : Block) (f : Frame) (c : Cluster), s.block? uid = some b → b.frame = some f → tget? s.clusters b.cluster = some c →
    c.chipSize = b.rcd.cscratch → (∀ w, w < b.rcd.warps → (tget? b.warps w).isSome = true) → (∀ k, k < 8 → (tgetD b.queues k []).length ≤ 16) →
    ∃ bs, s.frameImage uid = some bs ∧
      bs.length = frameBytes b.rcd b.rank ((List.range 8).filter fun z => bit b.zheld z).length (s.heldOf uid).length ∧
      bs.take 16 = natLe 4 0x53460001 ++ natLe 2 b.ctx ++ natLe 1 f.reason ++ natLe 1 b.rcd.warps ++ natLe 1 b.rcd.vregs ++ natLe 1 b.rcd.ztiles ++
        natLe 1 b.rcd.cblocks ++ natLe 1 0 ++ natLe 4 b.rcd.scratch) ∧
  (∀ x : Bar, x.expect < 2 ^ 11 → x.arrived < 2 ^ 11 → x.word.getLsbD 31 = x.phase ∧ (x.word.extractLsb' 11 11).toNat = x.expect ∧
    (x.word.extractLsb' 0 11).toNat = x.arrived ∧ x.word.extractLsb' 22 9 = 0)

/-- R63 to R67, R77, R79, R84, R93: the mailbox requests: each answers once, with what it did; one that is refused changes nothing. Where
ranges lie, fields that their numbers do not fit and what peers are told are the model's choice (log entries 62, 76 and 77). -/
def Obligations.MailboxCommands : Prop :=
  (∀ (s : State) fn (rq : BitVec 512) st res, st < 256 → res.length ≤ 56 → let t := s.respond fn rq st res
    (t.fnOf fn).done = (s.fnOf fn).done + 1 ∧ (t.fnOf fn).cur = none ∧ t.out = s.out ++ [.msix fn ((s.fnOf fn).vec.toNat % 2048)] ∧
    t.ctxs = s.ctxs ∧ t.queues = s.queues ∧
    t.hostRd ((s.fnOf fn).rspHi.toNat * 2 ^ 32 + (s.fnOf fn).rspLo.toNat + 64 * ((s.fnOf fn).done.toNat % 256)) 64 =
      natLe 1 rq.toNat ++ natLe 1 st ++ [0, 0] ++ natLe 4 (rqField rq 4 4) ++ res ++ List.replicate (56 - res.length) 0) ∧
  (∀ fn idx rq (s : State), s.asks fn idx rq 1 [(8, 1), (9, 1), (10, 2), (12, 2), (16, 8), (24, 4), (28, 2), (30, 2)] →
    let t := s.took fn rq
    rqField rq 28 2 = 0 → rqField rq 30 2 = 0 → rqField rq 16 8 % 64 = 0 → 64 ≤ rqField rq 24 4 → rqField rq 24 4 ≤ 65536 →
    rqField rq 9 1 < 4 → rqField rq 8 1 ≤ t.ceilOf fn →
    (t.ctxsHeld fn < t.maxCtxOf fn → t.quotasHeld fn + rqField rq 10 2 ≤ t.maxQOf fn →
      sumOf Ctx.rquota (tvals t.ctxs) + rqField rq 12 2 ≤ 15872 →
      ∀ c u, t.takeFresh.2.makeCtx fn (rqField rq 8 1) (rqField rq 9 1) (rqField rq 10 2) (rqField rq 12 2) (rqField rq 16 8) (rqField rq 24 4) none =
        some (c, u) → exec (.ctxnew fn idx rq) s = .next (u.respond fn rq 0 (natLe 2 c))) ∧
    (t.maxCtxOf fn ≤ t.ctxsHeld fn ∨ t.maxQOf fn < t.quotasHeld fn + rqField rq 10 2 →
      exec (.ctxnew fn idx rq) s = .next (t.respond fn rq 3 []))) ∧
  (∀ (s : State) fn ceil modes qq rqu eqb eqn c u, s.makeCtx fn ceil modes qq rqu eqb eqn none = some (c, u) → c < 1024 ∧ tget? s.ctxs c = none ∧
    (∀ d, d < c → (tget? s.ctxs d).isSome = true) ∧ (∀ d, d ≠ c → tget? u.ctxs d = tget? s.ctxs d) ∧
    ∃ x, tget? u.ctxs c = some x ∧ x.fn = fn ∧ x.ceil = ceil ∧ x.redun = modes.testBit 0 ∧ x.dlaunch = modes.testBit 1 ∧
      x.devrec = modes.testBit 2 ∧ x.rquota = rqu ∧ x.qquota = qq ∧ x.eqBase = BitVec.ofNat 64 eqb ∧ x.eqN = eqn ∧ x.eqSeq = 0 ∧
      x.eqDrops = 0 ∧ x.grants = [] ∧ x.lost = none ∧ x.freeing = none) ∧
  (∀ (s : State) fn, (∃ idx rq, s.pendingRequest fn = some (idx, rq)) ∧ (s.fnOf fn).cur = none ↔
    (s.fnOf fn).cur = none ∧ following id s.lastFn ((s.fns.filter fun kv => kv.2.asks).map Prod.fst) = some fn) ∧
  (∀ fn rq (s : State) (x : Ctx) o, tget? s.ctxs (rqField rq 8 2) = some x → x.origin = some o → x.freeing = none →
    exec (.ctxfree fn peerIdx rq) s = .next ((s.eraseKey o x.keyNo).beginFree (rqField rq 8 2) x.fn resetIdx)) ∧
  (∀ fn idx rq (s : State) (x : Ctx), s.asks fn idx rq 2 [(8, 2)] → idx ≠ resetIdx → idx ≠ peerIdx → let t := s.took fn rq
    let c := rqField rq 8 2
    t.owns fn c x true →
    (∀ u, (t.beginFree c fn idx).goFree c = (true, u) → exec (.ctxfree fn idx rq) s = .next (u.respond fn rq 0 [])) ∧
    (∀ u, (t.beginFree c fn idx).goFree c = (false, u) → exec (.ctxfree fn idx rq) s = .next u)) ∧
  (∀ (s : State) (c : Nat), tget? (s.endFree c).ctxs c = none ∧ (∀ d, d ≠ c → tget? (s.endFree c).ctxs d = tget? s.ctxs d)) ∧
  (∀ fn idx rq (s : State) (x : Ctx), s.asks fn idx rq 3 [(8, 2), (10, 1), (11, 1), (16, 8), (24, 8), (32, 8), (40, 8), (48, 1)] →
    let t := s.took fn rq
    let c := rqField rq 8 2
    let va := rqField rq 16 8
    let len := rqField rq 24 8
    t.owns fn c x false →
    (grantOk (rqField rq 10 1) (rqField rq 11 1) va len (rqField rq 32 8) (rqField rq 40 8) (rqField rq 48 1) = false ∨
      x.overlapsGrant va len = true → exec (.grant fn idx rq) s = .next (t.respond fn rq 4 [])) ∧
    (grantOk (rqField rq 10 1) (rqField rq 11 1) va len (rqField rq 32 8) (rqField rq 40 8) (rqField rq 48 1) = true →
      x.overlapsGrant va len = false → rqField rq 11 1 < 3 → ∀ bs w ra u, t.grantRecord c (rqField rq 11 1) (rqField rq 32 8) = (.bytes bs, w) →
      w.takeFresh.2.makeGrant c (rqField rq 10 1) (rqField rq 11 1) va len (rqField rq 32 8) (rqField rq 40 8) (rqField rq 48 1) bs = some (ra, u) →
      let v := (u.shoot c va len).2
      (v.shootsDone c = false → exec (.grant fn idx rq) s = .next v) ∧
      (v.shootsDone c = true → exec (.grant fn idx rq) s = .next (v.respond fn rq 0 (natLe 8 (v.grantBase c va)))))) ∧
  (∀ (s : State) c perm va (u : State) ra (x : Ctx), tget? s.ctxs c = some x → s.ptes = [] → x.rootRa % 2 ^ 14 = 0 → x.rootLog = 22 →
    x.rootRa / 2 ^ 14 + 2048 ≤ s.pkg.device * 2 ^ 32 + s.raNext → s.raNext + 64 ≤ 2 ^ 32 → s.pkg.device < 1024 → s.domainDev c < 1024 → perm < 32 → va % 2 ^ 14 = 0 → va < 2 ^ 57 →
    s.makeGrant c perm 0 va (2 ^ 14) 0 0 0 [] = some (ra, u) → ra % 2 ^ 14 = 0 ∧
      ∀ i, i < 2 ^ 14 → u.walk c (va + i) = some (ra + i, leafOfPerm perm, 1)) ∧
  (∀ fn idx rq (s : State) (x : Ctx) (g : Grant), s.asks fn idx rq 4 [(8, 2), (16, 8)] → let t := s.took fn rq
    let c := rqField rq 8 2
    t.owns fn c x true → rqField rq 16 8 < 2 ^ 57 → x.grants.find? (fun g => g.va == rqField rq 16 8) = some g → t.grantBusy c g = false →
    let v := t.revoke c g
    (v.shootsDone c = false ∨ v.withdrawing c = true → exec (.revoke fn idx rq) s = .next v) ∧
    (v.shootsDone c = true → v.withdrawing c = false → exec (.revoke fn idx rq) s = .next (v.respond fn rq 0 []))) ∧
  (∀ (s : State) c (g : Grant) (x : Ctx), tget? s.ctxs c = some x → g.va % 2 ^ 14 = 0 → g.len % 2 ^ 14 = 0 → ∀ i, i < g.len → (s.revoke c g).walk c (g.va + i) = none) ∧
  (∀ fn idx rq (s : State) (x : Ctx), s.asks fn idx rq 5 [(8, 2), (16, 8)] → let t := s.took fn rq
    let c := rqField rq 8 2
    t.owns fn c x false →
    (∀ ra p lv, rqField rq 16 8 < 2 ^ 57 → t.walk c (rqField rq 16 8) = some (ra, p, lv) → exec (.xlate fn idx rq) s = .next
      (t.respond fn rq 0 (natLe 8 ra ++ natLe 1 (permOfLeaf p) ++ natLe 1 lv ++ natLe 1 (if hasPerm p permCow then 1 else 0)))) ∧
    (rqField rq 16 8 < 2 ^ 57 → t.walk c (rqField rq 16 8) = none → exec (.xlate fn idx rq) s = .next (t.respond fn rq 4 []))) ∧
  (∀ fn idx rq (s : State) (x : Ctx), s.asks fn idx rq 6 [(8, 2), (10, 2), (16, 8)] → let t := s.took fn rq
    let w := rqField rq 8 2
    t.owns fn (rqField rq 10 2) x false →
    (w < t.maxWinOf fn → rqField rq 16 8 % 2 ^ 28 = 0 → rqField rq 16 8 < 2 ^ 56 → tget? (t.fnOf fn).wins w = none →
      exec (.winmap fn idx rq) s = .next ((t.setFn fn { t.fnOf fn with
        wins := tset (t.fnOf fn).wins w ⟨rqField rq 10 2, rqField rq 16 8⟩ }).respond fn rq 0 [])) ∧
    ((tget? (t.fnOf fn).wins w).isSome = true → exec (.winmap fn idx rq) s = .next (t.respond fn rq 4 []))) ∧
  (∀ fn idx rq (s : State), s.asks fn idx rq 7 [(8, 2)] → let t := s.took fn rq
    let w := rqField rq 8 2
    let u := t.setFn fn { t.fnOf fn with wins := tdel (t.fnOf fn).wins w }
    (tget? (t.fnOf fn).wins w = none → exec (.winunmap fn idx rq) s = .next (t.respond fn rq 4 [])) ∧
    ((tget? (t.fnOf fn).wins w).isSome = true → u.hostBusy fn = false → exec (.winunmap fn idx rq) s = .next (u.respond fn rq 0 [])) ∧
    ((tget? (t.fnOf fn).wins w).isSome = true → u.hostBusy fn = true → exec (.winunmap fn idx rq) s = .next u)) ∧
  (∀ idx rq (s : State) (x : Ctx) (q : Nat), s.asks 0 idx rq 8 [(8, 2), (10, 1), (11, 1), (12, 2), (16, 8)] → let t := s.took 0 rq
    let c := rqField rq 8 2
    t.owns 0 c x false → rqField rq 10 1 ≤ 16 → rqField rq 11 1 ≤ x.ceil → rqField rq 12 2 < t.maxVecOf 0 → rqField rq 16 8 % 64 = 0 →
    rqField rq 16 8 < 2 ^ 57 → (t.queues.filter fun kv => decide (kv.1 < 131072) && kv.2.ctx == c && kv.2.st != QState.free).length < x.qquota →
    t.queuesHeld 0 < t.maxQOf 0 → q < 131072 → (∀ y, tget? t.queues q = some y → y.st = .free) →
    (∀ n, n < q → ∃ y, tget? t.queues n = some y ∧ y.st ≠ .free) → ∃ (u : State) (y : Queue), exec (.qnew 0 idx rq) s = .next (u.respond 0 rq 0 (natLe 4 q ++ natLe 2 q)) ∧
      tget? u.queues q = some y ∧ y.st = .active ∧ y.ctx = c ∧ y.ring = BitVec.ofNat 64 (rqField rq 16 8) ∧ y.logN = rqField rq 10 1 ∧
      y.prio = rqField rq 11 1 ∧ y.vec = rqField rq 12 2 ∧ y.head = 0 ∧ y.tail = 0 ∧ y.done = 0 ∧ y.pkts = [] ∧
      ∀ n, n ≠ q → tget? u.queues n = tget? t.queues n) ∧
  (∀ fn idx rq (s : State) q (x : Queue), s.asks fn idx rq 9 [(8, 4)] → let t := s.took fn rq
    t.namedQueue fn (rqField rq 8 4) = .ok (q, x) → let u := t.modQueue q fun y => { y with st := .closing, closer := some (fn, idx, rq) }
    (t.tailPosted fn q = true → exec (.qdestroy fn idx rq) s = .next t) ∧
    (t.tailPosted fn q = false → (∃ kv ∈ x.pkts, kv.2.live = true) → exec (.qdestroy fn idx rq) s = .next u) ∧
    (t.tailPosted fn q = false → (∀ kv ∈ x.pkts, kv.2.live = false) → exec (.qdestroy fn idx rq) s = .next (u.freeQueue q))) ∧
  (∀ fn idx rq (s : State) q (x : Queue), s.asks fn idx rq 10 [(8, 4)] → let t := s.took fn rq
    t.namedQueue fn (rqField rq 8 4) = .ok (q, x) → t.tailPosted fn q = false →
    exec (.qabort fn idx rq) s = .next (((t.abortQueue q x).modQueue q fun y => { y with closer := some (fn, idx, rq) }).freeQueue q)) ∧
  (∀ (s : State) q (x : Queue), tget? s.queues q = some x → ∃ y, tget? (s.freeQueue q).queues q = some y ∧ y.st = .free ∧ y.pkts = [] ∧
    (x.closer = none → s.freeQueue q = { s with queues := tset s.queues q y })) ∧
  (∀ fn idx rq (s : State), s.asks fn idx rq 11 [(8, 1), (9, 1), (10, 2), (12, 2), (14, 2), (16, 2)] → let t := s.took fn rq
    let vf := rqField rq 8 1
    (fn ≠ 0 → exec (.vfcfg fn idx rq) s = .next (t.respond fn rq 2 [])) ∧
    (fn = 0 → 1 ≤ vf → vf ≤ 63 → rqField rq 9 1 ≤ 63 → rqField rq 12 2 ≤ 16384 → rqField rq 16 2 ≤ 64 →
      (∀ v, (t.fnOf v).maxCtx = 0 ∧ (t.fnOf v).maxQ = 0 ∧ (t.fnOf v).maxVec = 0) → t.ctxs = [] → t.queues = [] →
      (t.fnOf 0).vec = 0 → (t.fnOf 0).errvec = 0 → (t.fnOf vf).vec = 0 → (t.fnOf vf).errvec = 0 → (t.fnOf vf).wins = [] →
      rqField rq 10 2 ≤ 1024 → rqField rq 14 2 + 64 ≤ 2048 → exec (.vfcfg fn idx rq) s = .next ((t.setFn vf { t.fnOf vf with
        maxCtx := rqField rq 10 2, maxQ := rqField rq 12 2, maxVec := rqField rq 14 2, maxWin := rqField rq 16 2, ceil := rqField rq 9 1 }).respond
          fn rq 0 []))) ∧
  (∀ fn idx rq (s : State), s.asks fn idx rq 12 [(8, 2)] → let t := s.took fn rq
    let w := rqField rq 8 2
    (fn ≠ 0 → exec (.pwrlim fn idx rq) s = .next (t.respond fn rq 2 [])) ∧
    (fn = 0 → w < 1200 ∨ 3200 < w → exec (.pwrlim fn idx rq) s = .next (t.respond fn rq 4 [])) ∧
    (fn = 0 → 1200 ≤ w → w ≤ 3200 → let v := if t.pkg.capped = true then min w 2400 else w
      exec (.pwrlim fn idx rq) s = .next (({ t with pkg := { t.pkg with limit := w } } : State).respond fn rq 0 (natLe 2 v)))) ∧
  (∀ p : Pkg, p.capped = true ↔ ∃ e ∈ p.sticky, bootWhole e = true ∧ bootNext e = 5) ∧
  (∀ fn idx rq (s : State), s.pendingRequest fn = some (idx, rq) → (s.fnOf fn).cur = none →
    rqField rq 0 1 = 0 ∨ 12 < rqField rq 0 1 ∨ rqField rq 1 3 ≠ 0 → exec (.badop fn idx rq) s = .next ((s.took fn rq).respond fn rq 1 []))

/-- R70 to R78: the packets of a queue: read, started, held back, signalled and completed in the order that the rules give. When a
packet's block acquires, and which error a packet gets, are the model's reading (log entries 39 and 40). -/
def Obligations.PacketEvents : Prop :=
  (∀ (s s1 : State) q (x : Queue) (bs : List Byte), tget? s.queues q = some x → x.takes = true → x.reading = none →
    s.pkgRead x.ctx 8 (x.ring.toNat + 64 * (x.head.toNat % 2 ^ x.logN)) 64 = (.bytes bs, s1) →
    let t := s1.modQueue q fun y => { y with head := y.head + 1 }
    ((pktOf bs).valid = true → (∀ v ∈ (pktOf bs).vas, t.named x.ctx v = true) → exec (.packetRead q) s =
      .next (t.modQueue q fun y => { y with pkts := tset y.pkts x.head.toNat (pktOf bs) })) ∧
    ((pktOf bs).valid = false → exec (.packetRead q) s = .next (t.packetError q x.head.toNat 2 (pktOf bs))) ∧
    ((pktOf bs).valid = true → (∃ v ∈ (pktOf bs).vas, t.named x.ctx v = false) → exec (.packetRead q) s =
      .next (t.packetError q x.head.toNat 4 (pktOf bs)))) ∧
  (∀ (s s1 : State) q (x : Queue), tget? s.queues q = some x → x.takes = true → x.reading = none →
    let got := s.pkgRead x.ctx 8 (x.ring.toNat + 64 * (x.head.toNat % 2 ^ x.logN)) 64
    (got = (.denied, s1) → exec (.packetRead q) s = .next (s1.queueError q 3 x.head 0)) ∧
    (got = (.lost, s1) → exec (.packetRead q) s = .next s1) ∧
    (got = (.wait, s1) → exec (.packetRead q) s =
      .next (s1.modQueue q fun y => { y with head := y.head + 1, pkts := tset y.pkts x.head.toNat Pkt.inFlight }))) ∧
  (∀ (s s1 : State) q i (x : Queue) (bs : List Byte), tget? s.queues q = some x → x.reading = some i →
    let got := s.pkgRead x.ctx 8 (x.ring.toNat + 64 * (i % 2 ^ x.logN)) 64
    (got = (.bytes bs, s1) → exec (.packetRead q) s = .next (s1.judgePacket x.ctx q i bs)) ∧
    (got = (.wait, s1) ∨ got = (.lost, s1) → exec (.packetRead q) s = .next s1) ∧
    (got = (.denied, s1) → exec (.packetRead q) s = .next (s1.packetError q i 3 Pkt.inFlight))) ∧
  (∀ (x : Queue), x.takes = true ↔ x.st = .active ∧ x.head ≠ x.tail ∧ x.hold = none ∧ ∀ kv ∈ x.pkts, kv.2.started = true) ∧
  (∀ (p : Pkt), (p.valid = true → 1 ≤ p.kind ∧ p.kind ≤ 5 ∧ p.sop ≠ 3 ∧ (p.kind = 3 → (p.word 4).toNat % 16 ≤ 3) ∧
    (p.kind = 3 ∨ p.kind = 5 → p.sop = 0) ∧ (p.kind = 4 → p.sop ≠ 0))) ∧
  (∀ (s s1 : State) q idx (x : Queue) (p : Pkt) (r : Rec), s.packet? q idx 1 = some (x, p) → x.free idx p = true →
    (∀ v ∈ p.vas, s.named x.ctx v = true) → s.readRecord x.ctx 8 (p.word 1).toNat = (.ok r, s1) → ∃ t id g, exec (.launchPacket q idx) s = .next t ∧
      t = (s1.enterGrid x.ctx q r (.packet q idx) (some (q, idx)) 0 0).2.setPkt q idx { p with started := true } ∧ id = s1.next ∧
      tget? t.grids id = some g ∧ g.rcd = r ∧ g.ctx = x.ctx ∧ g.nextCluster = 0 ∧ g.doneBlocks = 0 ∧ g.owner = .packet q idx) ∧
  (∀ (s s1 : State) q idx (x : Queue) (p : Pkt), s.packet? q idx 1 = some (x, p) → x.free idx p = true →
    (∀ v ∈ p.vas, s.named x.ctx v = true) → s.readRecord x.ctx 8 (p.word 1).toNat = (.bad, s1) →
    exec (.launchPacket q idx) s = .next (s1.packetError q idx 2 p)) ∧
  (∀ (x : Queue) idx (p : Pkt), x.free idx p = true ↔ p.started = false ∧ (p.bar = true ∨ p.kind = 4 → x.done.toNat = idx)) ∧
  (∀ (s s1 : State) q idx (x : Queue) (p : Pkt) (ns : Tab Node), s.packet? q idx 2 = some (x, p) → x.free idx p = true → p.op = none →
    (∀ v ∈ p.vas, s.named x.ctx v = true) → s.readGraph x.ctx (p.word 1).toNat = (.ok ns, s1) →
    exec (.graphPacket q idx) s = .next (s1.makeGraph x.ctx q idx p ns)) ∧
  (∀ (s : State) c q idx (p : Pkt) (ns : Tab Node), let at' := s.reachControls c ((ns.map Prod.snd).filter fun n => n.kind == 2) []
    (∀ t, at' = (none, t) → s.makeGraph c q idx p ns = t) ∧
    (∀ t xs, at' = (some xs, t) →
      let k := { t with next := t.next + 1, graphs := tset t.graphs t.next { ctx := c, q := q, idx := idx, nodes := ns } : State }.openPkgOp
      s.makeGraph c q idx p ns = ((xs.foldl (fun (s : State) y =>
        s.pkgWrite (.mp c) c 8 y.1.ctlVa.toNat y.2 y.1.control (some k.1)) k.2).opDone (some k.1)).setPkt q idx { p with op := some k.1 })) ∧
  (∀ (s : State) c (n : Node) ns acc t, let got := s.reachVa (.mp c) c 8 n.ctlVa.toNat 64 permWr false true
    (∀ ps, got = (.ok ps, t) → s.reachControls c (n :: ns) acc = t.reachControls c ns ((n, ps) :: acc)) ∧
    (got = (.denied, t) → s.reachControls c (n :: ns) acc = (none, t.pkgFault c 8 n.ctlVa.toNat 5)) ∧
    (got = (.wait, t) → s.reachControls c (n :: ns) acc = (none, t))) ∧
  (∀ (s : State) q idx (x : Queue) (p : Pkt) op g (gr : Graph), s.packet? q idx 2 = some (x, p) → x.free idx p = true → p.op = some op →
    tget? s.ops op = none → s.graphs = [(g, gr)] → gr.q = q → gr.idx = idx →
    exec (.graphPacket q idx) s = .next ((s.setPkt q idx { p with started := true, op := none }).settleGraph g)) ∧
  (∀ (s s1 : State) q idx (x : Queue) (p : Pkt) (w : W64), s.packet? q idx 3 = some (x, p) → x.free idx p = true →
    ((s.setPkt q idx { p with started := true }).modQueue q fun y => { y with hold := some idx }).readWords x.ctx [(p.word 1).toNat] [] = (.ok [w], s1) →
    let p1 := { p with started := true }
    let on := (w &&& p.word 3, p.word 2 &&& p.word 3)
    let met := match (p.word 4).toNat % 16 with
      | 0 => decide (on.1 = on.2)
      | 1 => decide (on.1 ≠ on.2)
      | 2 => decide (on.2 ≤ on.1)
      | _ => decide (on.1 < on.2)
    (met = true → exec (.waitValuePacket q idx) s =
      .next ((s1.setPkt q idx { p1 with due := false, finished := true }).modQueue q fun y => { y with hold := none })) ∧
    (met = false → exec (.waitValuePacket q idx) s = .next (s1.setPkt q idx { p1 with due := false }))) ∧
  (∀ (s s1 : State) q idx (x : Queue) (p : Pkt) (ws : List W64), s.packet? q idx 5 = some (x, p) → x.free idx p = true →
    ((s.setPkt q idx { p with started := true }).modQueue q fun y => { y with hold := some idx }).readWords x.ctx (p.vas.map Prod.fst) [] = (.ok ws, s1) →
    let p1 := { p with started := true }
    ((∀ w ∈ ws, w = 0) → exec (.barrierAndPacket q idx) s =
      .next ((s1.setPkt q idx { p1 with due := false, finished := true }).modQueue q fun y => { y with hold := none })) ∧
    ((∃ w ∈ ws, w ≠ 0) → exec (.barrierAndPacket q idx) s = .next (s1.setPkt q idx { p1 with due := false }))) ∧
  (∀ (s : State) q idx (x : Queue) (p : Pkt), tget? s.queues q = some x → x.hold = some idx → tget? x.pkts idx = some p →
    (p.finished = false → exec (.waitValueReevaluate q) s = .next (s.evaluate q idx x p)) ∧
    (p.kind = 3 → p.finished = false → 2 ^ 32 ≤ (p.word 4).toNat → exec (.waitto q) s = .next (s.packetError q idx 5 p)) ∧
    ((p.word 4).toNat < 2 ^ 32 → exec (.waitto q) s = .next s)) ∧
  (∀ (s s1 : State) q idx (x : Queue) (p : Pkt) o ra n e, s.packet? q idx 4 = some (x, p) → x.free idx p = true →
    s.reachVa (.mp x.ctx) x.ctx 8 (p.word 1).toNat 8 (permRd ||| permWr ||| permAt) true true = (.ok [(o, ra, n, e)], s1) →
    let k := s1.openPkgOp
    exec (.signalPacket q idx) s = .next (((k.2.pkgAtomic x.ctx 8 (p.word 1).toNat ra (if p.sop = 1 then .exch else .add) (p.word 2).toNat
      (some k.1)).opDone (some k.1)).setPkt q idx { p with started := true, finished := true, op := some k.1 })) ∧
  (∀ (s : State) q idx (x : Queue) (p : Pkt), tget? s.queues q = some x → tget? x.pkts idx = some p → p.kind ≠ 0 → p.started = true →
    (p.finished = true → s.signalled p = true → exec (.packetCompletion q idx) s = .next (s.completePacket q idx x p)) ∧
    (p.finished = true → s.signalled p = false → exec (.packetCompletion q idx) s = .next s) ∧
    (p.finished = false → p.kind = 1 ∨ p.kind = 2 → s.workDone q idx = true → p.sop = 0 →
      exec (.packetCompletion q idx) s = .next (s.setPkt q idx { p with finished := true })) ∧
    (p.finished = false → p.kind = 1 ∨ p.kind = 2 → s.workDone q idx = false → exec (.packetCompletion q idx) s = .next s)) ∧
  (∀ (s : State) q idx (x : Queue) (p : Pkt), tget? s.queues q = some x → tget? x.pkts idx = some p → x.st = .active → p.kind ≠ 4 →
    let t := s.completePacket q idx x p
    t.out = s.out ++ (if p.irq then [.msix x.fn x.vec] else []) ∧ ∃ y, tget? t.queues q = some y ∧ tget? y.pkts idx = none ∧
      (∀ k, k ≠ idx → tget? y.pkts k = tget? x.pkts k) ∧ y.head = x.head ∧ y.st = .active ∧
      (y.done - x.done).toNat ≤ (x.head - x.done).toNat ∧
      (∀ k, k ≠ idx → (tget? x.pkts k).isSome = true → (y.done - x.done).toNat ≤ (BitVec.ofNat 32 k - x.done).toNat) ∧
      (y.done = x.head ∨ ∃ kv ∈ x.pkts, kv.1 ≠ idx ∧ y.done = BitVec.ofNat 32 kv.1)) ∧
  (∀ (s : State) q code idx user (x : Queue), tget? s.queues q = some x → x.st = .active → ∃ y,
    tget? (s.queueError q code idx user).queues q = some y ∧ y.st = .error ∧ y.code = code ∧ y.pkts = x.pkts ∧ y.tail = x.tail)

/-- R24, R25, R60 to R63, R69, R70, R72, R79: what a host access of a register or a window does, before READY and after. The AER words are
presumed from PCIe (log entry 74), and what BOOTWIN shows where the spec is silent is the model's choice (75). -/
def Obligations.HostAccesses : Prop :=
  (∀ (s : State) w fn, s.isReady = false → s.pkg.powered = true →
    let t := { s with pkg := { s.pkg with nrdycnt := if s.pkg.nrdycnt = BitVec.allOnes 32 then s.pkg.nrdycnt else s.pkg.nrdycnt + 1 } }
    let u := if w then t else { t with out := t.out ++ [.data fn [0, 0, 0, 0]] }
    exec (.notReadyResponse ⟨fn, w⟩) s = .next u ∧ exec (.hostAccessDiscarded fn w) s = .next u ∧
    (∀ win off n, exec (.bar4Access fn win off (.read n)) s = .next { t with out := t.out ++ [.data fn [0, 0, 0, 0]] }) ∧
    (∀ win off bs, exec (.bar4Access fn win off (.write bs)) s = .next { s with pkg := t.pkg }) ∧
    (∀ off v, 0x200 ≤ off → exec (.registerWrite fn off v) s = .next { s with pkg := t.pkg }) ∧
    (∀ v, exec (.mbxtail fn v) s = .next { s with pkg := t.pkg } ∧ exec (.mbxvec fn v) s = .next { s with pkg := t.pkg } ∧
      exec (.errvec fn v) s = .next { s with pkg := t.pkg } ∧ exec (.hosterrWrite fn v) s = .next { s with pkg := t.pkg } ∧
      exec (.qtail fn v.toNat v) s = .next { s with pkg := t.pkg })) ∧
  (∀ (s : State) w, s.isReady = true → (∀ fn,
    let f := s.fnOf fn
    let t := s.setFn fn { f with hosterr := if f.hosterr = BitVec.allOnes 32 then f.hosterr else f.hosterr + 1 }
    exec (.hostAccessDiscarded fn w) s = .next (if w then t else { t with out := t.out ++ [.data fn [0, 0, 0, 0]] }) ∧
    (∀ off v, 0x200 ≤ off → (off % 4 ≠ 0 ∨ 0x4000 ≤ off) → exec (.registerWrite fn off v) s = .next t) ∧
    (∀ v, (256 < (v - f.done).toNat → s.hostWrites fn = false → exec (.mbxtail fn v) s = .next t) ∧
      ((v - f.done).toNat ≤ 256 → s.hostWrites fn = false → exec (.mbxtail fn v) s = .next (s.setFn fn { f with tail := v })) ∧
      (s.hostWrites fn = true → exec (.mbxtail fn v) s = .next (s.setFn fn { f with posted := f.posted ++ [.mailbox v] })) ∧
      (s.maxVecOf fn ≤ v.toNat % 2048 → exec (.mbxvec fn v) s = .next t ∧ exec (.errvec fn v) s = .next t) ∧
      (v.toNat % 2048 < s.maxVecOf fn → exec (.mbxvec fn v) s = .next (s.setFn fn { f with vec := v &&& 0x7FF }) ∧
        exec (.errvec fn v) s = .next (s.setFn fn { f with errvec := v &&& 0x7FF })) ∧
      exec (.hosterrWrite fn v) s = .next (if v = BitVec.allOnes 32 then s.setFn fn { f with hosterr := 0 } else s) ∧
      (f.head ≠ f.done → exec (.mbxRingBaseWrite fn 0x200 v) s = .next t ∧ exec (.mbxRingBaseWrite fn 0x20C v) s = .next t) ∧
      (v.toNat % 4096 ≠ 0 → exec (.mbxRingBaseWrite fn 0x200 v) s = .next t ∧ exec (.mbxRingBaseWrite fn 0x208 v) s = .next t) ∧
      (f.head = f.done → v.toNat % 4096 = 0 → exec (.mbxRingBaseWrite fn 0x200 v) s = .next (s.setFn fn { f with reqLo := v }) ∧
        exec (.mbxRingBaseWrite fn 0x208 v) s = .next (s.setFn fn { f with rspLo := v })) ∧
      (f.head = f.done → exec (.mbxRingBaseWrite fn 0x204 v) s = .next (s.setFn fn { f with reqHi := v }) ∧
        exec (.mbxRingBaseWrite fn 0x20C v) s = .next (s.setFn fn { f with rspHi := v }))))) ∧
  (∀ (s : State) fn (v : W32), exec (.nrdycntWrite fn v) s =
      .next (if fn = 0 ∧ v = BitVec.allOnes 32 then { s with pkg := { s.pkg with nrdycnt := 0 } } else s) ∧
    exec (.bootclrWrite fn v) s = .next (if fn = 0 ∧ v = 0xC1EA then { s with pkg := { s.pkg with sticky := [] } } else s)) ∧
  (∀ (s : State) fn off (v : W32), (off < 0x200 → off % 4 = 0 → off ≠ 0x20 → off ≠ 0x40 → exec (.registerWrite fn off v) s = .next s) ∧
    exec (.registerWrite fn 0x20 v) s = exec (.nrdycntWrite fn v) s ∧ exec (.registerWrite fn 0x40 v) s = exec (.bootclrWrite fn v) s ∧
    (s.isReady = true → (exec (.registerWrite fn 0x210 v) s = exec (.mbxtail fn v) s ∧ exec (.registerWrite fn 0x21C v) s = exec (.mbxvec fn v) s ∧
      exec (.registerWrite fn 0x220 v) s = exec (.hosterrWrite fn v) s ∧ exec (.registerWrite fn 0x228 v) s = exec (.errvec fn v) s) ∧
      (off = 0x214 ∨ off = 0x218 ∨ off = 0x224 ∨ (0x22C ≤ off ∧ off < 0x4000 ∧ off % 4 = 0) → exec (.registerWrite fn off v) s = .next s))) ∧
  (∀ (s : State) fn win (v : W32), s.isReady = true →
    (s.globalQ fn win = none → exec (.qtail fn win v) s = .next (s.countHostErr fn)) ∧
    (∀ q x, s.globalQ fn win = some q → tget? s.queues q = some x → x.fn = fn → s.hostWrites fn = false →
      (x.st ≠ .active → exec (.qtail fn win v) s = .next (s.countHostErr fn)) ∧
      (x.st = .active → v = x.tail → exec (.qtail fn win v) s = .next s) ∧
      (x.st = .active → v ≠ x.tail → (v - x.head).toNat ≤ 2 ^ x.logN →
        exec (.qtail fn win v) s = .next { s with queues := tset s.queues q { x with tail := v } }) ∧
      (x.st = .active → v ≠ x.tail → 2 ^ x.logN < (v - x.head).toNat → exec (.qtail fn win v) s = .next (s.queueError q 1 v 0)))) ∧
  (∀ (s : State) fn win off acc, s.isReady = true →
    (tget? (s.fnOf fn).wins win = none → exec (.bar4Access fn win off acc) s =
      .next (s.discardHost fn (match acc with | .write _ => true | .read _ => false))) ∧
    ∀ w, tget? (s.fnOf fn).wins win = some w →
      (∀ bs, acc = .write bs → (bs ≠ [] → tget? s.ctxs w.ctx = none → exec (.bar4Access fn win off acc) s = .next (s.abortHost fn)) ∧
        (∀ s1, s.hostPieces fn w.ctx true ((hostParts (w.base + off % 2 ^ 28) bs.length).map Prod.snd) = (.go, s1) →
          let o := s1.openHostOp w.ctx (.host fn)
          exec (.bar4Access fn win off acc) s = .next (((hostParts (w.base + off % 2 ^ 28) bs.length).foldl (fun (s : State) p =>
            (s.opMore (some o.1)).serve (pkgReq .engineWrite (.host fn) w.ctx 8 0 p.2.1 p.2.2 (bytesAt p.2.1 ((bs.drop p.1).take p.2.2)) (some o.1)))
            o.2).opDone (some o.1)))) ∧
      (∀ n, acc = .read n → (s.hostWrites fn = true → exec (.bar4Access fn win off acc) s =
          .next (s.setFn fn { s.fnOf fn with posted := (s.fnOf fn).posted ++ [.read w.ctx (w.base + off % 2 ^ 28) n] })) ∧
        (s.hostWrites fn = false → ∀ s1, s.hostPieces fn w.ctx false ((hostParts (w.base + off % 2 ^ 28) n).map Prod.snd) = (.go, s1) →
          let o := s1.openHostOp w.ctx (.hostRead fn n)
          exec (.bar4Access fn win off acc) s = .next (((hostParts (w.base + off % 2 ^ 28) n).foldl (fun (s : State) p =>
            (s.opMore (some o.1)).serve { pkgReq .engineUse (.host fn) w.ctx 8 0 p.2.1 p.2.2 [] (some o.1) with at' := p.1 }) o.2).opDone
              (some o.1))))) ∧
  (∀ (s : State) fn, let f := s.fnOf fn
    s.abortHost fn = { s.setFn fn { f with aerUncor := f.aerUncor ||| 0x8000 } with out := s.out ++ [.aer fn] }) ∧
  (∀ (s : State) id (o : Op) fn, tget? s.ops id = some o → o.left = 0 → o.sfu = 0 → o.fin = .host fn →
    let t : State := { s with ops := tdel s.ops id }
    exec (.longLatencyCompletion id) s = .next ((if o.bad = 0 then t else t.abortHost fn).postedGo fn)) ∧
  (∀ (s : State) fn, fn ≠ 0 → (∀ kv ∈ s.ctxs, kv.2.fn ≠ fn) → let f := s.fnOf fn
    exec (.functionLevelReset fn) s = .next (s.setFn fn { Fn.reset with
      maxCtx := f.maxCtx, maxQ := f.maxQ, maxVec := f.maxVec, maxWin := f.maxWin, ceil := f.ceil, locals := f.locals
      aerUncor := f.aerUncor, aerCor := f.aerCor })) ∧
  (∀ (s : State) fn, fn ≠ 0 → exec (.functionLevelReset fn) s = .next (s.resetFn fn)) ∧
  (∀ (s : State), exec (.functionLevelReset 0) s = .next ((0 :: vfs).foldl (fun s f => s.resetFn f) s)) ∧
  (∀ (s : State), s.bootRegister 0 = 0x58160001 ∧ s.bootRegister 0x10 = (s.pkg.bootstat ||| if s.pkg.decisions.isEmpty = true then 0 else 0x80) ∧ s.bootRegister 0x14 = s.pkg.booterr ∧
    s.bootRegister 0x18 = s.pkg.livemap ∧ s.bootRegister 0x20 = s.pkg.nrdycnt)

/-- R55, R83, R87 to R97, R398, R399: table walks, shoot-downs, and the faults that the memory processor serves. Which translations are
kept, the handles of a regeneration and how a leaf is split are the model's choice (log entries 48, 45 and 47). -/
def Obligations.PageFaults : Prop :=
  (∀ (s : State) die ctx va (w : Walk), s.walks = [w] → w.die = die → w.ctx = ctx → w.va = va →
    (w.marked = true → exec (.tableWalk die ctx va) s = .next
      (({ s with walks := [{ w with marked := false, gen := s.tgenOf ctx }] } : State).due (.tableWalk die ctx va))) ∧
    (∀ ra perm lv, w.marked = false → s.walk ctx va = some (ra, perm, lv) → exec (.tableWalk die ctx va) s = .next
      (({ s with walks := [] } : State).fillTlb (coreNo die w.who.core) die
        ⟨ctx, va / pageSize lv * pageSize lv, lv, ra / pageSize lv * pageSize lv, perm, w.gen⟩)) ∧
    (w.marked = false → s.walk ctx va = none → exec (.tableWalk die ctx va) s = .next
      (({ s with walks := [] } : State).faults w.who true (w.touches.filterMap fun t => match s.walk ctx t.va with
        | none => some ⟨t, 0x20, 0, 0, 1⟩
        | some (ra, perm, level) => (accessFault perm (accNeed w.who.acc)).map fun code => ⟨t, code, ra, level, 1⟩)))) ∧
  (∀ (s : State) core die (e : TlbEntry) (c : Core), tget? s.cores core = some c → ∃ k, tget? (s.fillTlb core die e).cores core = some k ∧
    k.tlb = (e :: c.tlb).take 256 ∧ tgetD (s.fillTlb core die e).tlb2 die [] = (e :: tgetD s.tlb2 die []).take 16384) ∧
  (∀ (s : State) die sd (x : Shoot), tget? s.shoots sd = some x →
    (die ∉ x.dies → exec (.shootDown die sd) s = .next s) ∧
    (die ∈ x.dies → ∃ t, exec (.shootDown die sd) s = .next t ∧
      (∀ c k, c / 128 = die → tget? t.cores c = some k → ∀ e ∈ k.tlb, e.overlaps x.ctx x.va x.len = false) ∧
      (∀ e ∈ tgetD t.tlb2 die [], e.overlaps x.ctx x.va x.len = false) ∧
      (∀ c, c / 128 ≠ die → tget? t.cores c = tget? s.cores c) ∧
      (∀ w ∈ t.walks, w.die = die → w.ctx = x.ctx → olderGen w.gen x.gen = true → w.marked = true) ∧
      (s.walks = [] → s.translated die x.ctx = [] → x.dies = [die] → tget? t.shoots sd = none) ∧
      ((∃ ra ∈ s.translated die x.ctx, (∃ e ∈ x.removed, e.1 = die ∧ e.2.1 ≤ ra ∧ ra < e.2.1 + e.2.2) ∨
        ∃ e ∈ tgetD s.tlb2 die [], e.overlaps x.ctx x.va x.len = true ∧ e.ra ≤ ra ∧ ra < e.ra + pageSize e.level) →
        ∃ y, tget? t.shoots sd = some y ∧ y.dies = x.dies ∧ y.gen = x.gen))) ∧
  (∀ (s : State) id (r : Req), tget? s.reqs id = some r →
    (s.resolved r = false → r.why = .unrouted ∨ r.why = .promote ∨ r.why = .regen →
      exec (.unrouted id) s = .next s ∧ exec (.promote id) s = .next s ∧ exec (.regenf id) s = .next s) ∧
    (s.resolved r = true →
    (r.why = .unrouted → s.hopeless r = false → exec (.unrouted id) s = .next ((s.note id r).serveUnrouted r)) ∧
    (r.why = .unrouted → s.hopeless r = true → exec (.unrouted id) s = .next { s.note id r with reqs := tdel (s.note id r).reqs id }) ∧
    (r.why = .promote → exec (.promote id) s = .next ((s.note id r).servePromote r)) ∧
    (r.why = .regen → s.hopeless r = true → exec (.regenf id) s = .next { s.note id r with reqs := tdel (s.note id r).reqs id }) ∧
    (∀ h x, r.why = .regen → s.hopeless r = false → (s.note id r).regenHandle r.die r.ra = some h → tget? (s.note id r).regens h = some x →
      (x.grid = none → exec (.regenf id) s = .next ((s.note id r).beginRegen id r h x)) ∧
      (x.grid.isSome = true → exec (.regenf id) s = .next (s.note id r)))) ∧
    (r.why = .cow → r.sd = none → (∃ c, r.agent = .mp c) → exec (.cowf id) s = .next (s.serveCow id r)) ∧
    (∀ uid, r.why = .cow → r.sd = none → r.agent = .chain uid → exec (.cowf id) s = .next (s.serveCow id r)) ∧
    (∀ uid st, r.why = .cow → r.sd = none → r.agent = .stream uid st → exec (.cowf id) s = .next ((s.saveFor uid 1).serveCow id r))) ∧
  (∀ (s : State) (r : Req) c (g : Grant), (∀ k, (s.engine k).longest r.ra = []) → s.grantOf r.ra = some (c, g) →
    (s.engine 8).entries.length < 16384 →
    let at' := fun (h : Nat) =>
      if s.createdElsewhere (r.ra / 2 ^ 14) 42 then { s with next := s.next + 1 }
      else s.announceHome h (r.ra / 2 ^ 14) 42 (s.routeCtx c) (g.flags / 2 % 2 == 1)
    (g.kind = 3 → s.serveUnrouted r = at' (mkHolder (g.backA.toNat % 1024) 0 0)) ∧
    (g.kind = 1 → s.serveUnrouted r = at' (mkHolder s.pkg.device 8 4)) ∧
    (∀ h, g.kind = 0 → s.firstTouch r.die 42 = some h → s.serveUnrouted r = at' h)) ∧
  (∀ (s : State) pfx len, s.createdElsewhere pfx len =
    (decide (pfx / 2 ^ 32 ≠ s.pkg.device) && (s.holdersOf pfx len).isEmpty && Config.peerCreated pfx len s.next)) ∧
  (∀ (s : State) id (r : Req), r.noted = true → s.hopeless r = false → s.note id r = s) ∧
  (∀ (s : State) id (r : Req) ra perm, s.walk r.ctx r.va = some (ra, perm, 1) → perm &&& permCow ≠ 0 → s.frameCount (ra / 2 ^ 14 * 2 ^ 14) < 2 →
    let va := r.va / 2 ^ 14 * 2 ^ 14
    let o := (s.setLeaf r.ctx va 1 (ra / 2 ^ 14 * 2 ^ 14) ((perm ||| permWr) &&& (0x3F ^^^ permCow))).shoot r.ctx va (2 ^ 14)
    s.serveCow id r = { o.2 with reqs := tmod o.2.reqs id fun x => { x with sd := some o.1 } }) ∧
  (∀ (s : State) (id : Nat) (r : Req) (h : Nat) (x : Regen) (rcd : Rec) (s1 : State) (holder : Nat),
    s.judge x.ctx 8 x.lrec.toNat x.copy = (.ok rcd, s1) →
    s1.findRoom [s1.touchDie r.die] x.len (s1.stackOf (s1.touchDie r.die) x.len) = .here holder → ∃ gid g y,
      tget? (s.beginRegen id r h x).regens h = some y ∧ y.grid = some gid ∧ y.holder = holder ∧ y.pfx = x.pfx ∧ y.len = x.len ∧
      tget? (s.beginRegen id r h x).grids gid = some g ∧ g.rcd = { rcd with param := x.param } ∧ g.owner = .regen h ∧ g.ctx = x.ctx ∧
      g.first = pfxBase x.pfx) ∧
  (∀ (s : State) pfx len h (x : Regen) gid, s.regens = [(h, x)] → x.pfx = pfx → x.len = len → x.grid = some gid →
    (tget? s.grids gid = none → exec (.regenerationComplete pfx len) s = .next
      (({ s with regens := [(h, { x with grid := none })] } : State).say 8
        (mkMsg mAnnounce pfx len x.holder (s.topVersion pfx len + 1) (s.routeCtx x.ctx) true x.lock))) ∧
    ((tget? s.grids gid).isSome = true → exec (.regenerationComplete pfx len) s = .next s))

/-- R71, R98 to R104, R108, R109: error records, corrected and uncorrectable errors, a channel's repair, and the loss of a context. How
error records are written, and the granules of poison, are the model's reading (log entries 50 and 28). -/
def Obligations.ErrorsAndContextLoss : Prop :=
  (∀ (s : State) c (x : Ctx) (r : ErrRec) rest, tget? s.ctxs c = some x → x.eqHeld = r :: rest →
    let y := { x with eqHeld := rest, eqSeq := (x.eqSeq + 1) % 2 ^ 32 }
    (s.hostRd x.eqSlot 1 = [0] → ∃ t, exec (.errorRecordWrite c) s = .next t ∧ tget? t.ctxs c = some { y with eqDrops := 0 } ∧
      t.out = s.out ++ [.msix x.fn ((s.fnOf x.fn).errvec.toNat % 2048)] ∧ (r.body.length = 32 → r.code ≠ 1 →
        t.hostRd x.eqSlot 64 = natLe 1 r.code ++ natLe 1 ((if r.exact then 1 else 0) + (if r.redun then 2 else 0)) ++ natLe 2 x.eqDrops ++
          natLe 4 x.eqSeq ++ natLe 2 r.ctx ++ natLe 1 r.die ++ natLe 1 r.core ++ natLe 1 r.warp ++ [0, 0, 0] ++ natLe 8 r.pc.toNat ++
          natLe 8 r.stamp ++ r.body)) ∧
    (s.hostRd x.eqSlot 1 ≠ [0] → r.keep = true → exec (.errorRecordWrite c) s = .next s) ∧
    (s.hostRd x.eqSlot 1 ≠ [0] → r.keep = false → exec (.errorRecordWrite c) s =
      .next { s with ctxs := tset s.ctxs c { y with eqDrops := min 0xFFFF (x.eqDrops + 1) } })) ∧
  (∀ (s : State) c cause (x : Ctx), tget? s.ctxs c = some x →
    (x.ended = true → exec (.contextLoss c cause) s = .next { s with ctxs := tset s.ctxs c { x with later := min 0xFFFF (x.later + 1) } }) ∧
    (x.ended = false → exec (.contextLoss c cause) s = .next (s.carryOut c cause x.redun))) ∧
  (∀ (s : State) c cause redun (x : Ctx), tget? s.ctxs c = some x → x.lost = none → s.poison = [] → s.pushes = [] → s.rowSets = [] →
    s.rows = [] → s.regens = [] → twf s.blocks = true → let t := s.carryOut c cause redun
    (∃ y r, tget? t.ctxs c = some y ∧ y.lost = some cause ∧ y.ended = true ∧ y.eqHeld = x.eqHeld ++ [r] ∧ r.code = 1 ∧ r.keep = true ∧
      r.body.head? = some (BitVec.ofNat 8 cause) ∧ y.grants = x.grants) ∧
    (∀ kv ∈ t.blocks, ∀ b, s.block? kv.1 = some b → ∀ g, tget? s.grids b.grid = some g → g.ctx ≠ c) ∧
    (∀ kv ∈ t.reqs, kv.2.ctx ≠ c) ∧ (∀ q x, tget? t.queues q = some x → x.ctx = c → x.st = .free)) ∧
  (∀ (s : State) (loc : ErrLoc), 2 ≤ loc.store →
    ((∀ m ∈ s.merges, m.loc ≠ loc) → exec (.eccCorrection loc) s =
      .next (({ s with merges := s.merges ++ [⟨loc, 0⟩] } : State).locRecord 0x11 loc 1)) ∧
    ((∃ m ∈ s.merges, m.loc = loc) → exec (.eccCorrection loc) s =
      .next { s with merges := s.merges.map fun m => if m.loc = loc then { m with count := m.count + 1 } else m })) ∧
  (∀ (s : State) (loc : ErrLoc) n, s.merges = [⟨loc, n⟩] →
    (n = 0 → exec (.correctionMergeFlush loc) s = .next { s with merges := [] }) ∧
    (n ≠ 0 → exec (.correctionMergeFlush loc) s = .next (({ s with merges := [] } : State).locRecord 0x11 loc n))) ∧
  (∀ (s : State) st ch (x : Chan), tget? s.chans (st * 64 + ch) = some x →
    (x.paused = false → exec (.channelResume st ch) s = .next s) ∧
    (x.paused = true → ∃ t y r, exec (.channelResume st ch) s = .next t ∧ tget? t.chans (st * 64 + ch) = some y ∧ y.paused = false ∧
      y.spares = x.spares + 1 ∧ t.faultQ = s.faultQ ++ [r] ∧ r.code = 0x17 ∧ r.body.take 4 = natLe 1 st ++ natLe 1 ch ++ natLe 1 x.lane ++ natLe 1 x.spares ∧
      ∀ k q, tget? s.reqs k = some q → q.why = .channel → Instr.requestHoldRelease k ∈ t.agenda)) ∧
  (∀ (s : State) (loc : ErrLoc), loc.store = 6 → ∀ d, ∃ t, exec (.uncorrectableError loc d) s = .next t ∧
    tgetD t.poison (keySpad (coreNo loc.die loc.core) loc.addr / 16) 0 = locPoison loc loc.addr ∧ locPoison loc loc.addr % 16 = 7 ∧ t.mem = s.mem ∧
    ∀ k, k ≠ keySpad (coreNo loc.die loc.core) loc.addr / 16 → tgetD t.poison k 0 = tgetD s.poison k 0) ∧
  (∀ (s : State) (loc : ErrLoc) (ln : Line) (c : Core), loc.store = 7 → tget? s.cores (coreNo loc.die loc.core) = some c →
    tget? c.l1 (loc.addr / 128) = some ln → ∀ d,
    (ln.dirty = 0 → ln.own = 0 → exec (.uncorrectableError loc d) s =
      .next ((s.locRecord 0x11 loc 1).modCore (coreNo loc.die loc.core) fun c => { c with l1 := tdel c.l1 (loc.addr / 128) })) ∧
    (ln.dirty ≠ 0 → exec (.uncorrectableError loc d) s = .next ((s.setLine (coreNo loc.die loc.core) (loc.addr / 128)
      { ln with poison := tset ln.poison (loc.addr % 128 / 16) (locPoison loc loc.addr) }).locRecord 0x12 loc 1))) ∧
  (∀ (s : State) (loc : ErrLoc), loc.store ≤ 1 → ∀ d, exec (.uncorrectableError loc d) s = .next (s.hbmError loc)) ∧
  (∀ (s : State) (loc : ErrLoc), loc.store = 5 → exec (.uncorrectableError loc false) s = .next (s.locRecord 0x11 loc 1))

/-- R15 to R22, R24 to R31: power and bring-up, the boot record, clocks and their limits, links in service, and attestation. The boot
record where the spec is silent is the model's choice (log entry 75), and the certificate and the signature are presumed (13). -/
def Obligations.PackageEvents : Prop :=
  (∀ (s : State) env, (s.pkg.powered = true → exec (.powerOn env) s = .next s) ∧
    (s.pkg.powered = false → (s.pkg.bringUp env).bootstat.toNat % 2 = 0 → exec (.powerOn env) s = .next { s with pkg := s.pkg.bringUp env }) ∧
    (s.pkg.powered = false → (s.pkg.bringUp env).bootstat.toNat % 2 = 1 → ∃ t, exec (.powerOn env) s = .next t ∧ t.pkg = s.pkg.bringUp env ∧
      t.mem = s.mem ∧ (∀ k, t.engine k = ⟨[], [], 0, 0, []⟩) ∧ ∀ c k, tget? t.cores c = some k → k.quarantined = true ∧
        ∃ x ∈ env.badCores, c = coreNo x.1 x.2)) ∧
  (∀ (p : Pkg) env, let q := p.bringUp env
    q.powered = true ∧ q.bootseq = p.bootseq + 1 ∧ q.nrdycnt = 0 ∧
    (env.fuseOk = false → q.bootstat.toNat / 2 ^ 28 = 15 ∧ q.bootstat.toNat / 2 ^ 24 % 16 = 1 ∧ q.bootstat.toNat % 2 = 0 ∧ q.booterr ≠ 0) ∧
    (env.fuseOk = true → p.verifies p.slotA = false → p.verifies p.slotB = false →
      q.bootstat.toNat / 2 ^ 28 = 15 ∧ q.bootstat.toNat / 2 ^ 24 % 16 = 2 ∧ q.bootstat.toNat % 2 = 0) ∧
    (env.fuseOk = true → p.verifies (if p.lastSlot then p.slotB else p.slotA) = true → p.verifies p.sched = false →
      q.bootstat.toNat / 2 ^ 28 = 15 ∧ q.bootstat.toNat / 2 ^ 24 % 16 = 7 ∧ q.bootstat.toNat % 2 = 0) ∧
    (env.fuseOk = true → p.verifies (if p.lastSlot then p.slotB else p.slotA) = true → p.verifies p.sched = true → env.routesOk = true →
      q.bootstat.toNat / 2 ^ 28 = 7 ∧ q.bootstat.toNat % 2 = 1 ∧ q.device = env.device % 1024 ∧
      (∀ d, d < 8 → (q.livemap.getLsbD d = true → d ∉ env.badDies)) ∧ q.hostWidth = trainedWidth env ∧ q.hostGen = trainedGen env ∧
      (trainedWidth env ≠ 16 ∨ trainedGen env ≠ 7 → 1 ≤ q.bootstat.toNat / 2 ^ 16 % 256) ∧
      ∀ k, k < 18 → ∃ x, tget? q.ports k = some x ∧ x.enabled = !env.badPorts.contains k ∧ x.cost = portCost env k ∧ 1 ≤ x.cost ∧ x.cost ≤ 255)) ∧
  (∀ (s : State), exec (.powerLoss false) s = .next (s.powerDown s.pkg) ∧ exec (.powerLoss true) s = .next (s.powerDown s.pkg.tear) ∧
    ∀ die, exec (.thermalPowerDown die) s = .next (s.powerDown (s.pkg.record 0xF0 die 1 5 1 (s.pkg.detail 0xF0 die)))) ∧
  (∀ (s : State) p, let t := s.powerDown p
    t.pkg.powered = false ∧ t.mem = [] ∧ t.ctxs = [] ∧ t.queues = [] ∧ t.blocks = [] ∧ t.engines = [] ∧ t.agenda = [] ∧ t.out = s.out ∧
    t.pkg.ring = p.ring ∧ t.pkg.sticky = p.sticky ∧ t.pkg.bootseq = p.bootseq ∧ t.pkg.slotA = p.slotA ∧ t.pkg.slotB = p.slotB ∧
    t.pkg.revoked = p.revoked ∧ t.pkg.rollback = p.rollback) ∧
  (∀ (p : Pkg) step unit outcome next attempt detail, step < 256 → unit < 256 → outcome < 16 → next < 16 → attempt < 256 →
    let e := bootEntry p.bootseq step unit outcome next attempt detail
    let q := p.record step unit outcome next attempt detail
    bootWhole e = true ∧ bootStep e = step ∧ bootUnit e = unit ∧ bootNext e = next ∧ bootDetail e = detail.toNat ∧ q.ring.getLast? = some e ∧
    (p.ring.length ≤ 4096 → q.ring.length ≤ 4096) ∧ (next ≠ 0 → e ∈ q.sticky) ∧ (next = 0 → q.sticky = p.sticky)) ∧
  (∀ (s : State) die, (die < 8 → ∀ i, tget? s.pkg.islands die = some i →
      exec (.thermalStepDown die) s = .next { s with pkg := { s.pkg with islands := tset s.pkg.islands die { i with mhz := max 300 (i.mhz - 100) } } } ∧
      exec (.junction110 die) s = .next { s with pkg := { s.pkg with islands := tset s.pkg.islands die { i with mhz := 300 } } }) ∧
    (8 ≤ die → exec (.thermalStepDown die) s = .next s ∧ exec (.junction110 die) s = .next s)) ∧
  (∀ (s : State) w, (w ≤ s.pkg.limitInForce → exec (.powerLimitStep w) s = .next s) ∧
    (s.pkg.limitInForce < w → ∃ t, exec (.powerLimitStep w) s = .next t ∧ ∀ k, k < 8 →
      ((∃ j, j < 8 ∧ 300 < s.pkg.mhz j) → (tget? s.pkg.islands k).isSome = true → t.pkg.mhz k = max 300 (s.pkg.mhz k - 25) ∧
        t.pkg.mhz (8 + k) = s.pkg.mhz (8 + k)) ∧
      ((∀ j, j < 8 → s.pkg.mhz j ≤ 300) → (tget? s.pkg.islands (8 + k)).isSome = true → t.pkg.mhz (8 + k) = max 1000 (s.pkg.mhz (8 + k) - 50) ∧
        t.pkg.mhz k = s.pkg.mhz k))) ∧
  (∀ (s : State) k mhz mv, exec (.frequencyChange k mhz mv) s = .next (if clockOk k mhz mv = true then
      { s with pkg := { s.pkg with islands := tmod s.pkg.islands k fun _ => ⟨mhz, mv⟩ } } else s) ∧
    (k < 8 → (clockOk k mhz mv = true ↔ 300 ≤ mhz ∧ mhz ≤ 1200 ∧ mhz % 25 = 0 ∧ 550 ≤ mv ∧ mv ≤ 850))) ∧
  (∀ (s : State) i sub a b, edges[i]? = some (a, b) → sub < 16 →
    let t := { s with pkg := { s.pkg with retired := tset s.pkg.retired i (tgetD s.pkg.retired i 0 ||| BitVec.ofNat 16 (2 ^ sub)) } }
    (s.edgeUp i = false ∨ t.edgeUp i = true → exec (.sublinkFailure i sub) s = .next t) ∧
    (s.edgeUp i = true → t.edgeUp i = false → exec (.sublinkFailure i sub) s = .next (t.edgeDown a b))) ∧
  (∀ (s : State) p n x, tget? s.pkg.ports p = some x →
    (s.portUp p = false → exec (.flitReplay p n) s = .next s) ∧
    (s.portUp p = true → let t := s.modPort p fun y => { y with replays := y.replays + min n 16 }
      (n ≤ 16 → exec (.flitReplay p n) s = .next t) ∧ (16 < n → exec (.flitReplay p n) s = .next (t.portDown p))) ∧
    (s.portUp p = false → ∃ t y, exec (.deviceNumberConflict p) s = .next t ∧ tget? t.pkg.ports p = some y ∧ y.enabled = false ∧
      t.pkg.ring.getLast? = some (bootEntry s.pkg.bootseq 9 p 1 0 1 (s.pkg.detail 9 p)))) ∧
  (∀ (s : State), s.pkg.powered = true → 3 ≤ s.pkg.bootstat.toNat / 2 ^ 24 % 16 →
    let m := fun (k : Nat) => s.pkg.measurement k
    exec .getVersion s = .next { s with out := s.out ++ [.spdm 0x04 [0x13]] } ∧
    exec .getCapabilities s = .next { s with out := s.out ++ [.spdm 0x61 [0x16]] } ∧
    exec .negotiateAlgorithms s = .next { s with out := s.out ++ [.spdm 0x63 [384, 384]] } ∧
    exec .getDigests s = .next { s with out := s.out ++ [.spdm 0x01 [digest384 certChain]] } ∧
    (∀ o n, exec (.getCertificate o n) s = .next { s with out := s.out ++ [.spdm 0x02 (((certChain.drop o).take n).map BitVec.toNat)] }) ∧
    (∀ n, let c := [n, digest384 certChain] ++ m 1 ++ m 2 ++ m 3 ++ m 4
      exec (.challenge n) s = .next { s with out := s.out ++ [.spdm 0x03 (c ++ [Config.identitySign c])] }) ∧
    (∀ k, let r := if k = 0xFF then m 1 ++ m 2 ++ m 3 ++ m 4 else m k
      exec (.getMeasurements ⟨k, none⟩) s = .next { s with out := s.out ++ [.spdm 0x60 r] } ∧
      ∀ n, exec (.getMeasurements ⟨k, some n⟩) s = .next { s with out := s.out ++ [.spdm 0x60 (r ++ [Config.identitySign (n :: r)])] })) ∧
  (∀ (s : State) r, s.pkg.powered = false → exec .getVersion s = .next s ∧ exec .getDigests s = .next s ∧ exec (.getMeasurements r) s = .next s)

end
end

