-- ==== Sys2Proof/Laws/Dispatch.lean ====
section
/-! SUPPORT. What `exec` calls for each constructor, so that no proof unfolds the dispatch itself. -/

namespace Sys2Proof.Machine

open Sys2Proof

@[simp] theorem exec_ctxnew (fn idx rq s) : exec (.ctxnew fn idx rq) s = execCtxnew fn idx rq s := rfl
@[simp] theorem exec_ctxfree (fn idx rq s) : exec (.ctxfree fn idx rq) s = execCtxfree fn idx rq s := rfl
@[simp] theorem exec_grant (fn idx rq s) : exec (.grant fn idx rq) s = execGrant fn idx rq s := rfl
@[simp] theorem exec_revoke (fn idx rq s) : exec (.revoke fn idx rq) s = execRevoke fn idx rq s := rfl
@[simp] theorem exec_xlate (fn idx rq s) : exec (.xlate fn idx rq) s = execXlate fn idx rq s := rfl
@[simp] theorem exec_winmap (fn idx rq s) : exec (.winmap fn idx rq) s = execWinmap fn idx rq s := rfl
@[simp] theorem exec_winunmap (fn idx rq s) : exec (.winunmap fn idx rq) s = execWinunmap fn idx rq s := rfl
@[simp] theorem exec_qnew (fn idx rq s) : exec (.qnew fn idx rq) s = execQnew fn idx rq s := rfl
@[simp] theorem exec_qdestroy (fn idx rq s) : exec (.qdestroy fn idx rq) s = execQdestroy fn idx rq s := rfl
@[simp] theorem exec_qabort (fn idx rq s) : exec (.qabort fn idx rq) s = execQabort fn idx rq s := rfl
@[simp] theorem exec_vfcfg (fn idx rq s) : exec (.vfcfg fn idx rq) s = execVfcfg fn idx rq s := rfl
@[simp] theorem exec_pwrlim (fn idx rq s) : exec (.pwrlim fn idx rq) s = execPwrlim fn idx rq s := rfl
@[simp] theorem exec_badop (fn idx rq s) : exec (.badop fn idx rq) s = execBadop fn idx rq s := rfl
@[simp] theorem exec_packetRead (q s) : exec (.packetRead q) s = execPacketRead q s := rfl
@[simp] theorem exec_launchPacket (q idx s) : exec (.launchPacket q idx) s = execLaunchPacket q idx s := rfl
@[simp] theorem exec_graphPacket (q idx s) : exec (.graphPacket q idx) s = execGraphPacket q idx s := rfl
@[simp] theorem exec_waitValuePacket (q idx s) : exec (.waitValuePacket q idx) s = execWaitValuePacket q idx s := rfl
@[simp] theorem exec_signalPacket (q idx s) : exec (.signalPacket q idx) s = execSignalPacket q idx s := rfl
@[simp] theorem exec_barrierAndPacket (q idx s) : exec (.barrierAndPacket q idx) s = execBarrierAndPacket q idx s := rfl
@[simp] theorem exec_packetCompletion (q idx s) : exec (.packetCompletion q idx) s = execPacketCompletion q idx s := rfl
@[simp] theorem exec_requestHoldRelease (req s) : exec (.requestHoldRelease req) s = execRequestHoldRelease req s := rfl
@[simp] theorem exec_requestBounce (req s) : exec (.requestBounce req) s = execRequestBounce req s := rfl
@[simp] theorem exec_unrouted (req s) : exec (.unrouted req) s = execUnrouted req s := rfl
@[simp] theorem exec_announceMessage (eng hop m s) : exec (.announceMessage eng hop m) s = execAnnounceMessage eng hop m s := rfl
@[simp] theorem exec_fill (eng hop m s) : exec (.fill eng hop m) s = execFill eng hop m s := rfl
@[simp] theorem exec_drain (eng hop m s) : exec (.drain eng hop m) s = execDrain eng hop m s := rfl
@[simp] theorem exec_final (eng hop m s) : exec (.final eng hop m) s = execFinal eng hop m s := rfl
@[simp] theorem exec_fail (eng hop m s) : exec (.fail eng hop m) s = execFail eng hop m s := rfl
@[simp] theorem exec_homemove (eng hop m s) : exec (.homemove eng hop m) s = execHomemove eng hop m s := rfl
@[simp] theorem exec_fqry (eng hop m s) : exec (.fqry eng hop m) s = execFqry eng hop m s := rfl
@[simp] theorem exec_fack (eng hop m s) : exec (.fack eng hop m) s = execFack eng hop m s := rfl
@[simp] theorem exec_regen (eng hop m s) : exec (.regen eng hop m) s = execRegen eng hop m s := rfl
@[simp] theorem exec_recost (eng hop m s) : exec (.recost eng hop m) s = execRecost eng hop m s := rfl
@[simp] theorem exec_ifemerMessageDiscard (eng m s) : exec (.ifemerMessageDiscard eng m) s = execIfemerMessageDiscard eng m s := rfl
@[simp] theorem exec_lockedWrite (line s) : exec (.lockedWrite line) s = execLockedWrite line s := rfl
@[simp] theorem exec_lockAcknowledgement (line holder s) : exec (.lockAcknowledgement line holder) s = execLockAcknowledgement line holder s := rfl
@[simp] theorem exec_propagatedStore (store holder s) : exec (.propagatedStore store holder) s = execPropagatedStore store holder s := rfl
@[simp] theorem exec_holderFailure (eng pfx len holder s) : exec (.holderFailure eng pfx len holder) s = execHolderFailure eng pfx len holder s := rfl
@[simp] theorem exec_authorityTakeover (eng pfx len s) : exec (.authorityTakeover eng pfx len) s = execAuthorityTakeover eng pfx len s := rfl
@[simp] theorem exec_tombstone (eng pfx len holder s) : exec (.tombstone eng pfx len holder) s = execTombstone eng pfx len holder s := rfl
@[simp] theorem exec_replicateCopyComplete (rop s) : exec (.replicateCopyComplete rop) s = execReplicateCopyComplete rop s := rfl
@[simp] theorem exec_drainAcknowledged (rop s) : exec (.drainAcknowledged rop) s = execDrainAcknowledged rop s := rfl
@[simp] theorem exec_handoverMarker (rop s) : exec (.handoverMarker rop) s = execHandoverMarker rop s := rfl
@[simp] theorem exec_regenf (req s) : exec (.regenf req) s = execRegenf req s := rfl
@[simp] theorem exec_regenerationComplete (pfx len s) : exec (.regenerationComplete pfx len) s = execRegenerationComplete pfx len s := rfl
@[simp] theorem exec_cowf (req s) : exec (.cowf req) s = execCowf req s := rfl
@[simp] theorem exec_promote (req s) : exec (.promote req) s = execPromote req s := rfl
@[simp] theorem exec_tableWalk (die ctx va s) : exec (.tableWalk die ctx va) s = execTableWalk die ctx va s := rfl
@[simp] theorem exec_shootDown (die sd s) : exec (.shootDown die sd) s = execShootDown die sd s := rfl
@[simp] theorem exec_requestReplay (req s) : exec (.requestReplay req) s = execRequestReplay req s := rfl
@[simp] theorem exec_blockRestore (cluster s) : exec (.blockRestore cluster) s = execBlockRestore cluster s := rfl
@[simp] theorem exec_contextLoss (ctx cause s) : exec (.contextLoss ctx cause) s = execContextLoss ctx cause s := rfl
@[simp] theorem exec_errorRecordWrite (ctx s) : exec (.errorRecordWrite ctx) s = execErrorRecordWrite ctx s := rfl
@[simp] theorem exec_dispatchDecision (s) : exec (.dispatchDecision) s = execDispatchDecision s := rfl
@[simp] theorem exec_preemptionTrap (uid st s) : exec (.preemptionTrap uid st) s = execPreemptionTrap uid st s := rfl
@[simp] theorem exec_streamSuspend (uid st s) : exec (.streamSuspend uid st) s = execStreamSuspend uid st s := rfl
@[simp] theorem exec_blockCompletion (uid s) : exec (.blockCompletion uid) s = execBlockCompletion uid s := rfl
@[simp] theorem exec_recordCountedFilled (node slot s) : exec (.recordCountedFilled node slot) s = execRecordCountedFilled node slot s := rfl
@[simp] theorem exec_clauseFetch (uid st lane s) : exec (.clauseFetch uid st lane) s = execClauseFetch uid st lane s := rfl
@[simp] theorem exec_clauseStart (uid st lane s) : exec (.clauseStart uid st lane) s = execClauseStart uid st lane s := rfl
@[simp] theorem exec_longLatencyCompletion (op s) : exec (.longLatencyCompletion op) s = execLongLatencyCompletion op s := rfl
@[simp] theorem exec_fullEmptyRelease (uid st s) : exec (.fullEmptyRelease uid st) s = execFullEmptyRelease uid st s := rfl
@[simp] theorem exec_queueWaitRelease (uid st s) : exec (.queueWaitRelease uid st) s = execQueueWaitRelease uid st s := rfl
@[simp] theorem exec_ldqEntryFilled (op s) : exec (.ldqEntryFilled op) s = execLdqEntryFilled op s := rfl
@[simp] theorem exec_releaseQueryReply (die core round s) : exec (.releaseQueryReply die core round) s = execReleaseQueryReply die core round s := rfl
@[simp] theorem exec_sawaitRelease (uid s) : exec (.sawaitRelease uid) s = execSawaitRelease uid s := rfl
@[simp] theorem exec_redcContribution (rc s) : exec (.redcContribution rc) s = execRedcContribution rc s := rfl
@[simp] theorem exec_collectiveCompletion (key s) : exec (.collectiveCompletion key) s = execCollectiveCompletion key s := rfl
@[simp] theorem exec_copy (uid slot s) : exec (.copy uid slot) s = execCopy uid slot s := rfl
@[simp] theorem exec_quant (uid slot s) : exec (.quant uid slot) s = execQuant uid slot s := rfl
@[simp] theorem exec_loop (uid slot s) : exec (.loop uid slot) s = execLoop uid slot s := rfl
@[simp] theorem exec_cond (uid slot s) : exec (.cond uid slot) s = execCond uid slot s := rfl
@[simp] theorem exec_signal (uid slot s) : exec (.signal uid slot) s = execSignal uid slot s := rfl
@[simp] theorem exec_chainEnd (uid slot s) : exec (.chainEnd uid slot) s = execChainEnd uid slot s := rfl
@[simp] theorem exec_sequencerTrapDelivery (uid s) : exec (.sequencerTrapDelivery uid) s = execSequencerTrapDelivery uid s := rfl
@[simp] theorem exec_iadd (g t sat d a b s) : exec (.iadd g t sat d a b) s = execIadd g t sat d a b s := rfl
@[simp] theorem exec_isub (g t sat d a b s) : exec (.isub g t sat d a b) s = execIsub g t sat d a b s := rfl
@[simp] theorem exec_iaddc (g sub pi po d a b s) : exec (.iaddc g sub pi po d a b) s = execIaddc g sub pi po d a b s := rfl
@[simp] theorem exec_imul (g t d a b s) : exec (.imul g t d a b) s = execImul g t d a b s := rfl
@[simp] theorem exec_imulh (g t d a b s) : exec (.imulh g t d a b) s = execImulh g t d a b s := rfl
@[simp] theorem exec_imad (g t d a b c s) : exec (.imad g t d a b c) s = execImad g t d a b c s := rfl
@[simp] theorem exec_imadw (g t d a b c s) : exec (.imadw g t d a b c) s = execImadw g t d a b c s := rfl
@[simp] theorem exec_imin (g t d a b s) : exec (.imin g t d a b) s = execImin g t d a b s := rfl
@[simp] theorem exec_imax (g t d a b s) : exec (.imax g t d a b) s = execImax g t d a b s := rfl
@[simp] theorem exec_iabs (g t sat d a s) : exec (.iabs g t sat d a) s = execIabs g t sat d a s := rfl
@[simp] theorem exec_ineg (g t sat d a s) : exec (.ineg g t sat d a) s = execIneg g t sat d a s := rfl
@[simp] theorem exec_and (g t d a b s) : exec (.and g t d a b) s = execAnd g t d a b s := rfl
@[simp] theorem exec_or (g t d a b s) : exec (.or g t d a b) s = execOr g t d a b s := rfl
@[simp] theorem exec_xor (g t d a b s) : exec (.xor g t d a b) s = execXor g t d a b s := rfl
@[simp] theorem exec_not (g t d a s) : exec (.not g t d a) s = execNot g t d a s := rfl
@[simp] theorem exec_lop3 (g lut d a b s) : exec (.lop3 g lut d a b) s = execLop3 g lut d a b s := rfl
@[simp] theorem exec_shl (g t d a b s) : exec (.shl g t d a b) s = execShl g t d a b s := rfl
@[simp] theorem exec_shr (g t d a b s) : exec (.shr g t d a b) s = execShr g t d a b s := rfl
@[simp] theorem exec_sar (g t d a b s) : exec (.sar g t d a b) s = execSar g t d a b s := rfl
@[simp] theorem exec_fshl (g clamp d a b c s) : exec (.fshl g clamp d a b c) s = execFshl g clamp d a b c s := rfl
@[simp] theorem exec_fshr (g clamp d a b c s) : exec (.fshr g clamp d a b c) s = execFshr g clamp d a b c s := rfl
@[simp] theorem exec_bfe (g t d a f s) : exec (.bfe g t d a f) s = execBfe g t d a f s := rfl
@[simp] theorem exec_bfi (g t d a b f s) : exec (.bfi g t d a b f) s = execBfi g t d a b f s := rfl
@[simp] theorem exec_popc (g t d a s) : exec (.popc g t d a) s = execPopc g t d a s := rfl
@[simp] theorem exec_clz (g t d a s) : exec (.clz g t d a) s = execClz g t d a s := rfl
@[simp] theorem exec_brev (g t d a s) : exec (.brev g t d a) s = execBrev g t d a s := rfl
@[simp] theorem exec_icmp (g c t p a b s) : exec (.icmp g c t p a b) s = execIcmp g c t p a b s := rfl
@[simp] theorem exec_sel (g t d a b p s) : exec (.sel g t d a b p) s = execSel g t d a b p s := rfl
@[simp] theorem exec_mov (g t d a s) : exec (.mov g t d a) s = execMov g t d a s := rfl
@[simp] theorem exec_movi (g t d imm s) : exec (.movi g t d imm) s = execMovi g t d imm s := rfl
@[simp] theorem exec_lea (g t d a b sh s) : exec (.lea g t d a b sh) s = execLea g t d a b sh s := rfl
@[simp] theorem exec_vrd (g d a s) : exec (.vrd g d a) s = execVrd g d a s := rfl
@[simp] theorem exec_vwr (g a b s) : exec (.vwr g a b) s = execVwr g a b s := rfl
@[simp] theorem exec_fadd (g rm d a b s) : exec (.fadd g rm d a b) s = execFadd g rm d a b s := rfl
@[simp] theorem exec_fsub (g rm d a b s) : exec (.fsub g rm d a b) s = execFsub g rm d a b s := rfl
@[simp] theorem exec_fmul (g rm d a b s) : exec (.fmul g rm d a b) s = execFmul g rm d a b s := rfl
@[simp] theorem exec_ffma (g rm d a b c s) : exec (.ffma g rm d a b c) s = execFfma g rm d a b c s := rfl
@[simp] theorem exec_fmin (g prop d a b s) : exec (.fmin g prop d a b) s = execFmin g prop d a b s := rfl
@[simp] theorem exec_fmax (g prop d a b s) : exec (.fmax g prop d a b) s = execFmax g prop d a b s := rfl
@[simp] theorem exec_fcmp (g c p a b s) : exec (.fcmp g c p a b) s = execFcmp g c p a b s := rfl
@[simp] theorem exec_fclass (g t d a s) : exec (.fclass g t d a) s = execFclass g t d a s := rfl
@[simp] theorem exec_frnd (g rm d a s) : exec (.frnd g rm d a) s = execFrnd g rm d a s := rfl
@[simp] theorem exec_fscale (g rm d a b s) : exec (.fscale g rm d a b) s = execFscale g rm d a b s := rfl
@[simp] theorem exec_hadd2 (g t rm sat d a b s) : exec (.hadd2 g t rm sat d a b) s = execHadd2 g t rm sat d a b s := rfl
@[simp] theorem exec_hmul2 (g t rm sat d a b s) : exec (.hmul2 g t rm sat d a b) s = execHmul2 g t rm sat d a b s := rfl
@[simp] theorem exec_hfma2 (g t rm sat d a b c s) : exec (.hfma2 g t rm sat d a b c) s = execHfma2 g t rm sat d a b c s := rfl
@[simp] theorem exec_cmul (g rm d a b s) : exec (.cmul g rm d a b) s = execCmul g rm d a b s := rfl
@[simp] theorem exec_cfma (g rm d a b c s) : exec (.cfma g rm d a b c) s = execCfma g rm d a b c s := rfl
@[simp] theorem exec_rcp (g l rm d a s) : exec (.rcp g l rm d a) s = execRcp g l rm d a s := rfl
@[simp] theorem exec_rsq (g l rm d a s) : exec (.rsq g l rm d a) s = execRsq g l rm d a s := rfl
@[simp] theorem exec_sqrt (g l rm d a s) : exec (.sqrt g l rm d a) s = execSqrt g l rm d a s := rfl
@[simp] theorem exec_exp2 (g l rm d a s) : exec (.exp2 g l rm d a) s = execExp2 g l rm d a s := rfl
@[simp] theorem exec_log2 (g l rm d a s) : exec (.log2 g l rm d a) s = execLog2 g l rm d a s := rfl
@[simp] theorem exec_sinpi (g l rm d a s) : exec (.sinpi g l rm d a) s = execSinpi g l rm d a s := rfl
@[simp] theorem exec_cospi (g l rm d a s) : exec (.cospi g l rm d a) s = execCospi g l rm d a s := rfl
@[simp] theorem exec_sincospi (g l rm d a s) : exec (.sincospi g l rm d a) s = execSincospi g l rm d a s := rfl
@[simp] theorem exec_tanh (g l rm d a s) : exec (.tanh g l rm d a) s = execTanh g l rm d a s := rfl
@[simp] theorem exec_cvt (g l t src rm sat d a s) : exec (.cvt g l t src rm sat d a) s = execCvt g l t src rm sat d a s := rfl
@[simp] theorem exec_pack (g l t src rm sat h d a b s) : exec (.pack g l t src rm sat h d a b) s = execPack g l t src rm sat h d a b s := rfl
@[simp] theorem exec_unpack (g l t src e d a s) : exec (.unpack g l t src e d a) s = execUnpack g l t src e d a s := rfl
@[simp] theorem exec_bra (g off s) : exec (.bra g off) s = execBra g off s := rfl
@[simp] theorem exec_brx (g a s) : exec (.brx g a) s = execBrx g a s := rfl
@[simp] theorem exec_call (g d off s) : exec (.call g d off) s = execCall g d off s := rfl
@[simp] theorem exec_ret (g a s) : exec (.ret g a) s = execRet g a s := rfl
@[simp] theorem exec_exit (g s) : exec (.exit g) s = execExit g s := rfl
@[simp] theorem exec_join (g m s) : exec (.join g m) s = execJoin g m s := rfl
@[simp] theorem exec_leave (g m s) : exec (.leave g m) s = execLeave g m s := rfl
@[simp] theorem exec_waitm (g m lv s) : exec (.waitm g m lv) s = execWaitm g m lv s := rfl
@[simp] theorem exec_mset (g m a s) : exec (.mset g m a) s = execMset g m a s := rfl
@[simp] theorem exec_mop (g op d a b s) : exec (.mop g op d a b) s = execMop g op d a b s := rfl
@[simp] theorem exec_mget (g d m s) : exec (.mget g d m) s = execMget g d m s := rfl
@[simp] theorem exec_ballot (g l inv d p s) : exec (.ballot g l inv d p) s = execBallot g l inv d p s := rfl
@[simp] theorem exec_vote (g l op pd ps s) : exec (.vote g l op pd ps) s = execVote g l op pd ps s := rfl
@[simp] theorem exec_matchLanes (g l t d a s) : exec (.matchLanes g l t d a) s = execMatch g l t d a s := rfl
@[simp] theorem exec_shfl (g l op logw d a b s) : exec (.shfl g l op logw d a b) s = execShfl g l op logw d a b s := rfl
@[simp] theorem exec_redux (g l op t rm d a s) : exec (.redux g l op t rm d a) s = execRedux g l op t rm d a s := rfl
@[simp] theorem exec_scan (g l op t excl rm d a s) : exec (.scan g l op t excl rm d a) s = execScan g l op t excl rm d a s := rfl
@[simp] theorem exec_trap (g code s) : exec (.trap g code) s = execTrap g code s := rfl
@[simp] theorem exec_tret (g s) : exec (.tret g) s = execTret g s := rfl
@[simp] theorem exec_bkpt (g s) : exec (.bkpt g) s = execBkpt g s := rfl
@[simp] theorem exec_srd (g r d s) : exec (.srd g r d) s = execSrd g r d s := rfl
@[simp] theorem exec_swr (g r b s) : exec (.swr g r b) s = execSwr g r b s := rfl
@[simp] theorem exec_nop (g s) : exec (.nop g) s = execNop g s := rfl
@[simp] theorem exec_yield (g s) : exec (.yield g) s = execYield g s := rfl
@[simp] theorem exec_pdone (g s) : exec (.pdone g) s = execPdone g s := rfl
@[simp] theorem exec_fetchb (g wide s) : exec (.fetchb g wide) s = execFetchb g wide s := rfl
@[simp] theorem exec_icinv (g all a s) : exec (.icinv g all a) s = execIcinv g all a s := rfl
@[simp] theorem exec_ld (g l sz rt sc fe d a off s) : exec (.ld g l sz rt sc fe d a off) s = execLd g l sz rt sc fe d a off s := rfl
@[simp] theorem exec_st (g l sz rt sc fe d a off s) : exec (.st g l sz rt sc fe d a off) s = execSt g l sz rt sc fe d a off s := rfl
@[simp] theorem exec_lds (g l sz fe d a off s) : exec (.lds g l sz fe d a off) s = execLds g l sz fe d a off s := rfl
@[simp] theorem exec_sts (g l sz fe d a off s) : exec (.sts g l sz fe d a off) s = execSts g l sz fe d a off s := rfl
@[simp] theorem exec_ldc (g l sz fe d a off s) : exec (.ldc g l sz fe d a off) s = execLdc g l sz fe d a off s := rfl
@[simp] theorem exec_stc (g l sz fe d a off s) : exec (.stc g l sz fe d a off) s = execStc g l sz fe d a off s := rfl
@[simp] theorem exec_ldp (g l sz fe d a off s) : exec (.ldp g l sz fe d a off) s = execLdp g l sz fe d a off s := rfl
@[simp] theorem exec_stp (g l sz fe d a off s) : exec (.stp g l sz fe d a off) s = execStp g l sz fe d a off s := rfl
@[simp] theorem exec_atom (g l op sz sc d a b s) : exec (.atom g l op sz sc d a b) s = execAtom g l op sz sc d a b s := rfl
@[simp] theorem exec_atoms (g l op sz d a b s) : exec (.atoms g l op sz d a b) s = execAtoms g l op sz d a b s := rfl
@[simp] theorem exec_red (g l op sz sc a b s) : exec (.red g l op sz sc a b) s = execRed g l op sz sc a b s := rfl
@[simp] theorem exec_fence (g op sc s) : exec (.fence g op sc) s = execFence g op sc s := rfl
@[simp] theorem exec_cctl (g l op sc a off s) : exec (.cctl g l op sc a off) s = execCctl g l op sc a off s := rfl
@[simp] theorem exec_pref (g l l2 rt sc a off s) : exec (.pref g l l2 rt sc a off) s = execPref g l l2 rt sc a off s := rfl
@[simp] theorem exec_ldPriv (g l d a off s) : exec (.ldPriv g l d a off) s = execLdPriv g l d a off s := rfl
@[simp] theorem exec_stPriv (g l d a off s) : exec (.stPriv g l d a off) s = execStPriv g l d a off s := rfl
@[simp] theorem exec_popq (g l d q s) : exec (.popq g l d q) s = execPopq g l d q s := rfl
@[simp] theorem exec_pushq (g l q a s) : exec (.pushq g l q a) s = execPushq g l q a s := rfl
@[simp] theorem exec_tfetch (l rt sc pin a b s) : exec (.tfetch l rt sc pin a b) s = execTfetch l rt sc pin a b s := rfl
@[simp] theorem exec_trel (l all pin s) : exec (.trel l all pin) s = execTrel l all pin s := rfl
@[simp] theorem exec_mmaBf16 (l z zd a b s) : exec (.mmaBf16 l z zd a b) s = execMmaBf16 l z zd a b s := rfl
@[simp] theorem exec_mmaF16 (l z zd a b s) : exec (.mmaF16 l z zd a b) s = execMmaF16 l z zd a b s := rfl
@[simp] theorem exec_mmaF32 (l z zd a b s) : exec (.mmaF32 l z zd a b) s = execMmaF32 l z zd a b s := rfl
@[simp] theorem exec_mmacCf32 (l z zd a b s) : exec (.mmacCf32 l z zd a b) s = execMmacCf32 l z zd a b s := rfl
@[simp] theorem exec_mmasE4m3E4m3 (l z zd a b sel vw s) : exec (.mmasE4m3E4m3 l z zd a b sel vw) s = execMmasE4m3E4m3 l z zd a b sel vw s := rfl
@[simp] theorem exec_mmasE4m3E5m2 (l z zd a b sel vw s) : exec (.mmasE4m3E5m2 l z zd a b sel vw) s = execMmasE4m3E5m2 l z zd a b sel vw s := rfl
@[simp] theorem exec_mmasE5m2E4m3 (l z zd a b sel vw s) : exec (.mmasE5m2E4m3 l z zd a b sel vw) s = execMmasE5m2E4m3 l z zd a b sel vw s := rfl
@[simp] theorem exec_mmasE5m2E5m2 (l z zd a b sel vw s) : exec (.mmasE5m2E5m2 l z zd a b sel vw) s = execMmasE5m2E5m2 l z zd a b sel vw s := rfl
@[simp] theorem exec_zclr (l zd s) : exec (.zclr l zd) s = execZclr l zd s := rfl
@[simp] theorem exec_zld (l space rt sc zd a b s) : exec (.zld l space rt sc zd a b) s = execZld l space rt sc zd a b s := rfl
@[simp] theorem exec_zst (l space rt sc zd a b s) : exec (.zst l space rt sc zd a b) s = execZst l space rt sc zd a b s := rfl
@[simp] theorem exec_zdrain (l m zd a b c s) : exec (.zdrain l m zd a b c) s = execZdrain l m zd a b c s := rfl
@[simp] theorem exec_saalloc (l tiles st res par s) : exec (.saalloc l tiles st res par) s = execSaalloc l tiles st res par s := rfl
@[simp] theorem exec_safree (l tiles st h s) : exec (.safree l tiles st h) s = execSafree l tiles st h s := rfl
@[simp] theorem exec_saadd (l fmt spc rel sc st h r src s) : exec (.saadd l fmt spc rel sc st h r src) s = execSaadd l fmt spc rel sc st h r src s := rfl
@[simp] theorem exec_saread (l layer fmt spc acq sc e h r dst s) : exec (.saread l layer fmt spc acq sc e h r dst) s = execSaread l layer fmt spc acq sc e h r dst s := rfl
@[simp] theorem exec_sawait (l st h r s) : exec (.sawait l st h r) s = execSawait l st h r s := rfl
@[simp] theorem exec_saseal (l st h r s) : exec (.saseal l st h r) s = execSaseal l st h r s := rfl
@[simp] theorem exec_saevict (l narrow st h r img s) : exec (.saevict l narrow st h r img) s = execSaevict l narrow st h r img s := rfl
@[simp] theorem exec_saload (l st h r img s) : exec (.saload l st h r img) s = execSaload l st h r img s := rfl
@[simp] theorem exec_smov (op d a s) : exec (.smov op d a) s = execSmov op d a s := rfl
@[simp] theorem exec_smovi (op d imm s) : exec (.smovi op d imm) s = execSmovi op d imm s := rfl
@[simp] theorem exec_sadd (d a b s) : exec (.sadd d a b) s = execSadd d a b s := rfl
@[simp] theorem exec_ssub (d a b s) : exec (.ssub d a b) s = execSsub d a b s := rfl
@[simp] theorem exec_smul (d a b s) : exec (.smul d a b) s = execSmul d a b s := rfl
@[simp] theorem exec_sand (d a b s) : exec (.sand d a b) s = execSand d a b s := rfl
@[simp] theorem exec_sor (d a b s) : exec (.sor d a b) s = execSor d a b s := rfl
@[simp] theorem exec_sxor (d a b s) : exec (.sxor d a b) s = execSxor d a b s := rfl
@[simp] theorem exec_sshl (d a b s) : exec (.sshl d a b) s = execSshl d a b s := rfl
@[simp] theorem exec_sshr (arith d a b s) : exec (.sshr arith d a b) s = execSshr arith d a b s := rfl
@[simp] theorem exec_scmp (c d a b s) : exec (.scmp c d a b) s = execScmp c d a b s := rfl
@[simp] theorem exec_sbra (op a off s) : exec (.sbra op a off) s = execSbra op a off s := rfl
@[simp] theorem exec_sld (l sz rt sc d a off s) : exec (.sld l sz rt sc d a off) s = execSld l sz rt sc d a off s := rfl
@[simp] theorem exec_sst (l sz rt sc a b off s) : exec (.sst l sz rt sc a b off) s = execSst l sz rt sc a b off s := rfl
@[simp] theorem exec_sexit (s) : exec (.sexit) s = execSexit s := rfl
@[simp] theorem exec_adef (part k a b s) : exec (.adef part k a b) s = execAdef part k a b s := rfl
@[simp] theorem exec_astep (op k d n s) : exec (.astep op k d n) s = execAstep op k d n s := rfl
@[simp] theorem exec_ldq (l form tk rt sc q gen tag s) : exec (.ldq l form tk rt sc q gen tag) s = execLdq l form tk rt sc q gen tag s := rfl
@[simp] theorem exec_stq (l form fl rt sc q gen sel s) : exec (.stq l form fl rt sc q gen sel) s = execStq l form fl rt sc q gen sel s := rfl
@[simp] theorem exec_qpush (l iota q a b tag s) : exec (.qpush l iota q a b tag) s = execQpush l iota q a b tag s := rfl
@[simp] theorem exec_qpop (l d q sel j s) : exec (.qpop l d q sel j) s = execQpop l d q sel j s := rfl
@[simp] theorem exec_bara (exp k a s) : exec (.bara exp k a) s = execBara exp k a s := rfl
@[simp] theorem exec_barw (k s) : exec (.barw k) s = execBarw k s := rfl
@[simp] theorem exec_chain (l a slot s) : exec (.chain l a slot) s = execChain l a slot s := rfl
@[simp] theorem exec_cwait (l all d slot s) : exec (.cwait l all d slot) s = execCwait l all d slot s := rfl
@[simp] theorem exec_coll (l a slot s) : exec (.coll l a slot) s = execColl l a slot s := rfl
@[simp] theorem exec_ctwait (l d slot s) : exec (.ctwait l d slot) s = execCtwait l d slot s := rfl
@[simp] theorem exec_redc (l spad n a b c s) : exec (.redc l spad n a b c) s = execRedc l spad n a b c s := rfl
@[simp] theorem exec_launch (l d a s) : exec (.launch l d a) s = execLaunch l d a s := rfl
@[simp] theorem exec_rqpush (l d a b c q sel s) : exec (.rqpush l d a b c q sel) s = execRqpush l d a b c q sel s := rfl
@[simp] theorem exec_rqpop (l free d a s) : exec (.rqpop l free d a) s = execRqpop l free d a s := rfl
@[simp] theorem exec_announce (l replica locked d a b len s) : exec (.announce l replica locked d a b len) s = execAnnounce l replica locked d a b len s := rfl
@[simp] theorem exec_withdraw (l d a b len s) : exec (.withdraw l d a b len) s = execWithdraw l d a b len s := rfl
@[simp] theorem exec_replicate (l d a b len s) : exec (.replicate l d a b len) s = execReplicate l d a b len s := rfl
@[simp] theorem exec_migrate (l d a b len s) : exec (.migrate l d a b len) s = execMigrate l d a b len s := rfl
@[simp] theorem exec_rfence (l sc d a s) : exec (.rfence l sc d a) s = execRfence l sc d a s := rfl
@[simp] theorem exec_fenceSequencer (l op sc s) : exec (.fenceSequencer l op sc) s = execFenceSequencer l op sc s := rfl
@[simp] theorem exec_trapSequencer (code s) : exec (.trapSequencer code) s = execTrapSequencer code s := rfl
@[simp] theorem exec_tretSequencer (s) : exec (.tretSequencer) s = execTretSequencer s := rfl
@[simp] theorem exec_pdoneSequencer (s) : exec (.pdoneSequencer) s = execPdoneSequencer s := rfl
@[simp] theorem exec_illegal (s) : exec (.illegal) s = execIllegal s := rfl
@[simp] theorem exec_powerOn (env s) : exec (.powerOn env) s = execPowerOn env s := rfl
@[simp] theorem exec_sublinkFailure (edge sub s) : exec (.sublinkFailure edge sub) s = execSublinkFailure edge sub s := rfl
@[simp] theorem exec_flitReplay (port attempts s) : exec (.flitReplay port attempts) s = execFlitReplay port attempts s := rfl
@[simp] theorem exec_deviceNumberConflict (port s) : exec (.deviceNumberConflict port) s = execDeviceNumberConflict port s := rfl
@[simp] theorem exec_thermalStepDown (die s) : exec (.thermalStepDown die) s = execThermalStepDown die s := rfl
@[simp] theorem exec_junction110 (die s) : exec (.junction110 die) s = execJunction110 die s := rfl
@[simp] theorem exec_thermalPowerDown (die s) : exec (.thermalPowerDown die) s = execThermalPowerDown die s := rfl
@[simp] theorem exec_powerLimitStep (watts s) : exec (.powerLimitStep watts) s = execPowerLimitStep watts s := rfl
@[simp] theorem exec_frequencyChange (island mhz mv s) : exec (.frequencyChange island mhz mv) s = execFrequencyChange island mhz mv s := rfl
@[simp] theorem exec_getVersion (s) : exec (.getVersion) s = execGetVersion s := rfl
@[simp] theorem exec_getCapabilities (s) : exec (.getCapabilities) s = execGetCapabilities s := rfl
@[simp] theorem exec_negotiateAlgorithms (s) : exec (.negotiateAlgorithms) s = execNegotiateAlgorithms s := rfl
@[simp] theorem exec_getDigests (s) : exec (.getDigests) s = execGetDigests s := rfl
@[simp] theorem exec_getCertificate (offset length s) : exec (.getCertificate offset length) s = execGetCertificate offset length s := rfl
@[simp] theorem exec_challenge (nonce s) : exec (.challenge nonce) s = execChallenge nonce s := rfl
@[simp] theorem exec_getMeasurements (req s) : exec (.getMeasurements req) s = execGetMeasurements req s := rfl
@[simp] theorem exec_notReadyResponse (access s) : exec (.notReadyResponse access) s = execNotReadyResponse access s := rfl
@[simp] theorem exec_registerWrite (fn off val s) : exec (.registerWrite fn off val) s = execRegisterWrite fn off val s := rfl
@[simp] theorem exec_bootclrWrite (fn val s) : exec (.bootclrWrite fn val) s = execBootclrWrite fn val s := rfl
@[simp] theorem exec_nrdycntWrite (fn val s) : exec (.nrdycntWrite fn val) s = execNrdycntWrite fn val s := rfl
@[simp] theorem exec_hosterrWrite (fn val s) : exec (.hosterrWrite fn val) s = execHosterrWrite fn val s := rfl
@[simp] theorem exec_mbxRingBaseWrite (fn off val s) : exec (.mbxRingBaseWrite fn off val) s = execMbxRingBaseWrite fn off val s := rfl
@[simp] theorem exec_mbxtail (fn val s) : exec (.mbxtail fn val) s = execMbxtail fn val s := rfl
@[simp] theorem exec_mbxvec (fn val s) : exec (.mbxvec fn val) s = execMbxvec fn val s := rfl
@[simp] theorem exec_errvec (fn val s) : exec (.errvec fn val) s = execErrvec fn val s := rfl
@[simp] theorem exec_hostAccessDiscarded (fn isWrite s) : exec (.hostAccessDiscarded fn isWrite) s = execHostAccessDiscarded fn isWrite s := rfl
@[simp] theorem exec_bar4Access (fn win off acc s) : exec (.bar4Access fn win off acc) s = execBar4Access fn win off acc s := rfl
@[simp] theorem exec_qtail (fn win val s) : exec (.qtail fn win val) s = execQtail fn win val s := rfl
@[simp] theorem exec_functionLevelReset (fn s) : exec (.functionLevelReset fn) s = execFunctionLevelReset fn s := rfl
@[simp] theorem exec_waitValueReevaluate (q s) : exec (.waitValueReevaluate q) s = execWaitValueReevaluate q s := rfl
@[simp] theorem exec_waitto (q s) : exec (.waitto q) s = execWaitto q s := rfl
@[simp] theorem exec_holdTimeout (req s) : exec (.holdTimeout req) s = execHoldTimeout req s := rfl
@[simp] theorem exec_recostRefresh (eng s) : exec (.recostRefresh eng) s = execRecostRefresh eng s := rfl
@[simp] theorem exec_retiredRecordExpiry (eng pfx len holder s) : exec (.retiredRecordExpiry eng pfx len holder) s = execRetiredRecordExpiry eng pfx len holder s := rfl
@[simp] theorem exec_lockAckTimeout (line holder s) : exec (.lockAckTimeout line holder) s = execLockAckTimeout line holder s := rfl
@[simp] theorem exec_eccCorrection (loc s) : exec (.eccCorrection loc) s = execEccCorrection loc s := rfl
@[simp] theorem exec_correctionMergeFlush (loc s) : exec (.correctionMergeFlush loc) s = execCorrectionMergeFlush loc s := rfl
@[simp] theorem exec_uncorrectableError (loc dirty s) : exec (.uncorrectableError loc dirty) s = execUncorrectableError loc dirty s := rfl
@[simp] theorem exec_deadlineExpiry (cluster s) : exec (.deadlineExpiry cluster) s = execDeadlineExpiry cluster s := rfl
@[simp] theorem exec_blockStall (uid s) : exec (.blockStall uid) s = execBlockStall uid s := rfl
@[simp] theorem exec_flushTimerExpiry (node s) : exec (.flushTimerExpiry node) s = execFlushTimerExpiry node s := rfl
@[simp] theorem exec_issueGroupRegroup (die core quadrant s) : exec (.issueGroupRegroup die core quadrant) s = execIssueGroupRegroup die core quadrant s := rfl
@[simp] theorem exec_l1Eviction (die core line s) : exec (.l1Eviction die core line) s = execL1Eviction die core line s := rfl
@[simp] theorem exec_collectiveTimeout (key rank s) : exec (.collectiveTimeout key rank) s = execCollectiveTimeout key rank s := rfl
@[simp] theorem exec_condReevaluate (uid slot expired s) : exec (.condReevaluate uid slot expired) s = execCondReevaluate uid slot expired s := rfl
@[simp] theorem exec_powerLoss (torn s) : exec (.powerLoss torn) s = execPowerLoss torn s := rfl
@[simp] theorem exec_channelResume (stack channel s) : exec (.channelResume stack channel) s = execChannelResume stack channel s := rfl

end Sys2Proof.Machine
end

