-- ==== Sys2Proof/Laws/Tab.lean ====
section
/-! SUPPORT. Laws of keyed lists: read after write, and the canonical form, which every operation keeps. -/

namespace Sys2Proof

variable {α : Type}

/-- Every key of a table is above a bound. -/
def tabove (b : Nat) (t : Tab α) : Prop := ∀ kv ∈ t, b < kv.1

theorem twf_cons {j : Nat} {u : α} {t : Tab α} : twf ((j, u) :: t) = true ↔ tabove j t ∧ twf t = true := by
  induction t generalizing j u with
  | nil => simp [twf, tabove]
  | cons x t ih =>
    obtain ⟨k, v⟩ := x
    simp only [twf, Bool.and_eq_true, decide_eq_true_eq, tabove, List.mem_cons, forall_eq_or_imp]
    constructor
    · rintro ⟨h, ht⟩
      exact ⟨⟨h, fun kv hkv => Nat.lt_trans h ((ih.mp ht).1 kv hkv)⟩, ht⟩
    · rintro ⟨⟨h, -⟩, ht⟩
      exact ⟨h, ht⟩

theorem twf_tail {x : Nat × α} {t : Tab α} (h : twf (x :: t) = true) : twf t = true := (twf_cons.mp h).2

theorem tget?_of_above {b k : Nat} {t : Tab α} (h : tabove b t) (hk : k ≤ b) : tget? t k = none := by
  induction t with
  | nil => rfl
  | cons x t ih =>
    have hb : b < x.1 := h x (by simp)
    rw [tget?, if_neg (by omega)]
    exact ih fun kv hkv => h kv (by simp [hkv])

@[simp] theorem tget?_nil (k : Nat) : tget? ([] : Tab α) k = none := rfl
@[simp] theorem tgetD_nil (k : Nat) (d : α) : tgetD ([] : Tab α) k d = d := rfl

@[simp] theorem tget?_tset_self (t : Tab α) (k : Nat) (v : α) : tget? (tset t k v) k = some v := by
  induction t with
  | nil => simp [tset, tget?]
  | cons x t ih =>
    obtain ⟨j, u⟩ := x
    rw [tset]
    split
    · simp [tget?]
    · split
      · simp [tget?]
      · rw [tget?, if_neg ‹_›, ih]

theorem tget?_tset_ne (t : Tab α) {k j : Nat} (v : α) (h : j ≠ k) : tget? (tset t k v) j = tget? t j := by
  induction t with
  | nil => simp only [tset, tget?]; split <;> simp_all
  | cons x t ih =>
    obtain ⟨i, u⟩ := x
    rw [tset]
    split
    · subst ‹i = k›
      simp only [tget?]
      rw [if_neg (Ne.symm h), if_neg (Ne.symm h)]
    · split
      · simp only [tget?]
        rw [if_neg (Ne.symm h)]
      · simp only [tget?, ih]

@[simp] theorem tgetD_tset_self (t : Tab α) (k : Nat) (v d : α) : tgetD (tset t k v) k d = v := by simp [tgetD]

theorem tgetD_tset_ne (t : Tab α) {k j : Nat} (v d : α) (h : j ≠ k) : tgetD (tset t k v) j d = tgetD t j d := by
  simp [tgetD, tget?_tset_ne t v h]

theorem tabove_mono {a b : Nat} {t : Tab α} (h : tabove b t) (hab : a ≤ b) : tabove a t := fun kv hkv =>
  Nat.lt_of_le_of_lt hab (h kv hkv)

theorem tabove_tset {b k : Nat} {t : Tab α} {v : α} (h : tabove b t) (hk : b < k) : tabove b (tset t k v) := by
  induction t with
  | nil => simpa [tset, tabove] using hk
  | cons x t ih =>
    obtain ⟨j, u⟩ := x
    have hj : b < j := h (j, u) (by simp)
    have ht : tabove b t := fun kv hkv => h kv (by simp [hkv])
    rw [tset]
    split
    · intro kv hkv
      rcases List.mem_cons.mp hkv with rfl | hkv
      · exact hk
      · exact ht kv hkv
    · split
      · intro kv hkv
        rcases List.mem_cons.mp hkv with rfl | hkv
        · exact hk
        · exact h kv hkv
      · intro kv hkv
        rcases List.mem_cons.mp hkv with rfl | hkv
        · exact hj
        · exact ih ht kv hkv

theorem twf_tset {t : Tab α} (h : twf t = true) (k : Nat) (v : α) : twf (tset t k v) = true := by
  induction t with
  | nil => rfl
  | cons x t ih =>
    obtain ⟨j, u⟩ := x
    obtain ⟨hj, ht⟩ := twf_cons.mp h
    rw [tset]
    split
    · subst ‹j = k›
      exact twf_cons.mpr ⟨hj, ht⟩
    · split
      · exact twf_cons.mpr ⟨by
          intro kv hkv
          rcases List.mem_cons.mp hkv with rfl | hkv
          · assumption
          · exact Nat.lt_trans ‹k < j› (hj kv hkv), h⟩
      · exact twf_cons.mpr ⟨tabove_tset hj (by omega), ih ht⟩

theorem tdel_subset (t : Tab α) (k : Nat) : ∀ kv ∈ tdel t k, kv ∈ t := by
  induction t with
  | nil => simp [tdel]
  | cons x t ih =>
    obtain ⟨j, u⟩ := x
    intro kv hkv
    rw [tdel] at hkv
    split at hkv
    · simp [ih kv hkv]
    · rcases List.mem_cons.mp hkv with rfl | hkv
      · simp
      · simp [ih kv hkv]

theorem twf_tdel {t : Tab α} (h : twf t = true) (k : Nat) : twf (tdel t k) = true := by
  induction t with
  | nil => rfl
  | cons x t ih =>
    obtain ⟨j, u⟩ := x
    obtain ⟨hj, ht⟩ := twf_cons.mp h
    rw [tdel]
    split
    · exact ih ht
    · exact twf_cons.mpr ⟨fun kv hkv => hj kv (tdel_subset t k kv hkv), ih ht⟩

@[simp] theorem tget?_tdel_self (t : Tab α) (k : Nat) : tget? (tdel t k) k = none := by
  induction t with
  | nil => rfl
  | cons x t ih =>
    obtain ⟨j, u⟩ := x
    rw [tdel]
    split
    · exact ih
    · rw [tget?, if_neg ‹_›, ih]

theorem tget?_tdel_ne (t : Tab α) {k j : Nat} (hne : j ≠ k) : tget? (tdel t k) j = tget? t j := by
  induction t with
  | nil => rfl
  | cons x t ih =>
    obtain ⟨i, u⟩ := x
    rw [tdel]
    split
    · subst ‹i = k›
      rw [tget?, if_neg (Ne.symm hne), ih]
    · simp only [tget?, ih]

theorem twf_tput [DecidableEq α] {t : Tab α} (h : twf t = true) (d : α) (k : Nat) (v : α) : twf (tput d t k v) = true := by
  rw [tput]
  split
  · exact twf_tdel h k
  · exact twf_tset h k v

@[simp] theorem tgetD_tput_self [DecidableEq α] (d : α) (t : Tab α) (k : Nat) (v : α) : tgetD (tput d t k v) k d = v := by
  rw [tput]
  split
  · simp [tgetD, *]
  · simp

theorem tgetD_tput_ne [DecidableEq α] (d : α) (t : Tab α) {k j : Nat} (v : α) (hne : j ≠ k) :
    tgetD (tput d t k v) j d = tgetD t j d := by
  rw [tput]
  split
  · simp [tgetD, tget?_tdel_ne t hne]
  · exact tgetD_tset_ne t v d hne

theorem tgetD_tput [DecidableEq α] (d : α) (t : Tab α) (k j : Nat) (v : α) :
    tgetD (tput d t k v) j d = if j = k then v else tgetD t j d := by
  split
  · subst j
    exact tgetD_tput_self d t k v
  · exact tgetD_tput_ne d t v ‹_›

theorem twf_filter {t : Tab α} (h : twf t = true) (p : Nat × α → Bool) : twf (t.filter p) = true := by
  induction t with
  | nil => rfl
  | cons x t ih =>
    obtain ⟨j, u⟩ := x
    obtain ⟨hj, ht⟩ := twf_cons.mp h
    rw [List.filter_cons]
    split
    · exact twf_cons.mpr ⟨fun kv hkv => hj kv (List.mem_filter.mp hkv).1, ih ht⟩
    · exact ih ht

theorem twf_tclear {t : Tab α} (h : twf t = true) (lo hi : Nat) : twf (tclear t lo hi) = true := twf_filter h _
theorem twf_trange {t : Tab α} (h : twf t = true) (lo hi : Nat) : twf (trange t lo hi) = true := twf_filter h _

theorem twf_tmod {t : Tab α} (h : twf t = true) (k : Nat) (f : α → α) : twf (tmod t k f) = true := by
  rw [tmod]
  split
  · exact twf_tset h _ _
  · exact h

theorem twf_tmap {β : Type} {t : Tab α} (h : twf t = true) (f : Nat → α → β) : twf (tmap f t) = true := by
  induction t with
  | nil => rfl
  | cons x t ih =>
    obtain ⟨j, u⟩ := x
    obtain ⟨hj, ht⟩ := twf_cons.mp h
    refine twf_cons.mpr ⟨?_, ih ht⟩
    intro kv hkv
    obtain ⟨y, hy, rfl⟩ := List.mem_map.mp hkv
    exact hj y hy

@[simp] theorem tget?_tmod_self (t : Tab α) (k : Nat) (f : α → α) : tget? (tmod t k f) k = (tget? t k).map f := by
  rw [tmod]
  split <;> simp [*]

theorem tget?_tmod_ne (t : Tab α) {k j : Nat} (f : α → α) (h : j ≠ k) : tget? (tmod t k f) j = tget? t j := by
  rw [tmod]
  split
  · exact tget?_tset_ne t _ h
  · rfl

/-- No entry of a table holds the value that an unlisted key reads as. -/
def tclean [DecidableEq α] (d : α) (t : Tab α) : Bool := t.all fun kv => kv.2 != d

theorem tclean_mem [DecidableEq α] {d : α} {t : Tab α} : tclean d t = true ↔ ∀ kv ∈ t, kv.2 ≠ d := by
  simp [tclean, List.all_eq_true]

theorem tset_mem {t : Tab α} {k : Nat} {v : α} {kv : Nat × α} (h : kv ∈ tset t k v) : kv = (k, v) ∨ kv ∈ t := by
  induction t with
  | nil => simpa [tset] using h
  | cons x t ih =>
    obtain ⟨j, u⟩ := x
    rw [tset] at h
    split at h
    · rcases List.mem_cons.mp h with h | h <;> simp [h]
    · split at h
      · rcases List.mem_cons.mp h with h | h
        · exact .inl h
        · exact .inr h
      · rcases List.mem_cons.mp h with h | h
        · simp [h]
        · rcases ih h with h | h <;> simp [h]

theorem tclean_tput [DecidableEq α] {d : α} {t : Tab α} (h : tclean d t = true) (k : Nat) (v : α) : tclean d (tput d t k v) = true := by
  rw [tclean_mem] at *
  rw [tput]
  split
  · exact fun kv hkv => h kv (tdel_subset t k kv hkv)
  · intro kv hkv
    rcases tset_mem hkv with rfl | hkv
    · assumption
    · exact h kv hkv

theorem tclean_filter [DecidableEq α] {d : α} {t : Tab α} (h : tclean d t = true) (p : Nat × α → Bool) : tclean d (t.filter p) = true := by
  rw [tclean_mem] at *
  exact fun kv hkv => h kv (List.mem_filter.mp hkv).1

end Sys2Proof
end

