-- ==== Sys2Proof/Laws/Memory.lean ====
section
/-! SUPPORT. Laws of memory: read after write, and the canonical form, which every operation on memory keeps. -/

namespace Sys2Proof.Machine

open Sys2Proof

/-- What an unlisted byte leaves out: zero on chip. -/
theorem wf_iff {m : List Host.Cell} : Memory.wf m ↔ twf m = true ∧ ∀ kv ∈ m, encrypted kv.1 = true ∨ kv.2 ≠ 0 := by
  simp [Memory.wf, List.all_eq_true, Bool.or_eq_true]

theorem wf_nil : Memory.wf [] := by decide

theorem wf_filter {m : List Host.Cell} (h : Memory.wf m) (p : Host.Cell → Bool) : Memory.wf (m.filter p) :=
  wf_iff.mpr ⟨twf_filter (wf_iff.mp h).1 p, fun kv hkv => (wf_iff.mp h).2 kv (List.mem_filter.mp hkv).1⟩

theorem wf_tclear {m : List Host.Cell} (h : Memory.wf m) (lo hi : Nat) : Memory.wf (tclear m lo hi) := wf_filter h _

theorem wf_putCell {m : List Host.Cell} (h : Memory.wf m) (k : Nat) (b : Byte) : Memory.wf (putCell m k b) := by
  obtain ⟨hw, hz⟩ := wf_iff.mp h
  rw [putCell, wf_iff]
  split
  · refine ⟨twf_tset hw k b, fun kv hkv => ?_⟩
    rcases tset_mem hkv with rfl | hkv
    · exact .inl ‹_›
    · exact hz kv hkv
  · refine ⟨twf_tput hw 0 k b, fun kv hkv => ?_⟩
    rw [tput] at hkv
    split at hkv
    · exact hz kv (tdel_subset m k kv hkv)
    · rcases tset_mem hkv with rfl | hkv
      · exact .inr ‹_›
      · exact hz kv hkv

theorem wf_tdel {m : List Host.Cell} (h : Memory.wf m) (k : Nat) : Memory.wf (tdel m k) :=
  wf_iff.mpr ⟨twf_tdel (wf_iff.mp h).1 k, fun kv hkv => (wf_iff.mp h).2 kv (tdel_subset m k kv hkv)⟩

/-- A memory built from one that keeps the form by steps that keep it. -/
theorem wf_steps {α : Type} {f : List Host.Cell → α → List Host.Cell} (hf : ∀ m a, Memory.wf m → Memory.wf (f m a)) (xs : List α)
    {m : List Host.Cell} (h : Memory.wf m) : Memory.wf (xs.foldl f m) := by
  induction xs generalizing m with
  | nil => exact h
  | cons x xs ih => exact ih (hf m x h)

/-- R33: a line that another owner's write takes away. -/
theorem wf_clearLine {m : List Host.Cell} (h : Memory.wf m) (line tag : Nat) : Memory.wf (clearLine m line tag) := by
  simp only [clearLine]
  split
  · exact wf_steps (fun _ _ hm => wf_putCell hm _ _) _ (wf_tclear h _ _)
  · exact wf_tclear h _ _

theorem wrAs_mem (s : State) (o k : Nat) (b : Byte) :
    (s.wrAs o k b).mem = putCell (if tgetD s.tags (k / 128) 0 = o then s.mem
      else clearLine s.mem (k / 128) (tgetD s.tags (k / 128) 0)) k b := by
  simp only [State.wrAs]
  split <;> rfl

theorem wf_wrAs {s : State} (h : Memory.wf s.mem) (o k : Nat) (b : Byte) : Memory.wf (s.wrAs o k b).mem := by
  rw [wrAs_mem]
  split
  · exact wf_putCell h k b
  · exact wf_putCell (wf_clearLine h _ _) k b

theorem wf_wr {s : State} (h : Memory.wf s.mem) (c k : Nat) (b : Byte) : Memory.wf (s.wr c k b).mem := wf_wrAs h _ k b

/-- An operation made of operations that keep the form keeps it. -/
theorem wf_foldl {α : Type} {f : State → α → State} (hf : ∀ s a, Memory.wf s.mem → Memory.wf (f s a).mem) (xs : List α) {s : State}
    (h : Memory.wf s.mem) : Memory.wf (xs.foldl f s).mem := by
  induction xs generalizing s with
  | nil => exact h
  | cons x xs ih => exact ih (hf s x h)

theorem wf_wrN {s : State} (h : Memory.wf s.mem) (c k : Nat) (bs : List Byte) : Memory.wf (s.wrN c k bs).mem := by
  induction bs generalizing s k with
  | nil => exact h
  | cons b t ih => exact ih (wf_wr h c k b) (k + 1)

/-- R103: bytes of a sound write, or of one that stays on the package, applied at a holder. -/
theorem wf_applyAt {s : State} (h : Memory.wf s.mem) (a : Agent) (c holder : Nat) (bs : Tab Byte) (poison : Nat) (op : Option Nat)
    (hp : poison = 0 ∨ holderStore holder ≠ 4) : Memory.wf (s.applyAt a c holder bs poison op).mem := by
  have : (poison != 0 && holderStore holder == 4) = false := by rcases hp with rfl | hp <;> simp [*]
  simp only [State.applyAt, this]
  exact wf_foldl (f := fun (s : State) (kv : Nat × Byte) => s.wrAt c holder kv.1 kv.2) (fun _ _ h => wf_wrAs h _ _ _) bs h

theorem wf_putBytes {s : State} (h : Memory.wf s.mem) (c : Nat) (bs : Tab Byte) : Memory.wf (s.putBytes c bs).mem :=
  wf_foldl (f := fun (s : State) (kv : Nat × Byte) => s.wr c kv.1 kv.2) (fun _ _ h => wf_wr h _ _ _) bs h

theorem wf_putRows {s : State} (h : Memory.wf s.mem) (c : Nat) (ks : List Nat) (rows : List (List Byte)) :
    Memory.wf (s.putRows c ks rows).mem := wf_foldl (fun _ _ h => wf_putBytes h _ _) _ h

theorem wf_unplace {s : State} (h : Memory.wf s.mem) (hd pfx len : Nat) : Memory.wf (s.unplace hd pfx len).mem := by
  exact wf_filter h _

theorem wf_wipeTags {s : State} (h : Memory.wf s.mem) (c : Nat) : Memory.wf (s.wipeTags c).mem := wf_filter h _

theorem wf_copyLine {s : State} (h : Memory.wf s.mem) (c src dst ra ra' : Nat) (kept : Nat → Bool) :
    Memory.wf (s.copyLine c src dst ra ra' kept).mem := by
  simp only [State.copyLine]
  split
  · refine wf_steps (fun m i hm => ?_) _ h
    split
    · exact wf_putCell hm _ _
    · exact wf_tdel hm _
  · exact wf_foldl (fun _ _ h => wf_wrAs h _ _ _) _ h

theorem wf_copyPrefix {s : State} (h : Memory.wf s.mem) (c src dst base len : Nat) (kept : Tab Bool) :
    Memory.wf (s.copyPrefix c src dst base len kept).mem := by
  simp only [State.copyPrefix]
  refine wf_foldl (fun t i ht => ?_) _ ?_
  · split
    · exact ht
    · exact wf_copyLine ht _ _ _ _ _ _
  · split <;> exact h

theorem wf_moveSpan {s : State} (h : Memory.wf s.mem) (src dst n : Nat) : Memory.wf (s.moveSpan src dst n).mem :=
  wf_steps (fun _ _ hm => wf_putCell hm _ _) _ (wf_tclear (wf_tclear h _ _) _ _)

theorem wf_putBack {s : State} (h : Memory.wf s.mem) (c key n : Nat) (bs : Tab Byte) (full : Tab Bool) (poison : Tab Nat) :
    Memory.wf (s.putBack c key n bs full poison).mem :=
  wf_foldl (f := fun (s : State) (kv : Nat × Byte) => s.wr c (key + kv.1) kv.2) (fun _ _ h => wf_wr h _ _ _) bs
    (s := { s with mem := tclear s.mem key (key + n) }) (wf_tclear h _ _)

/-! ### Read after write -/

theorem tget?_putCell_self (m : List Host.Cell) (k : Nat) (b : Byte) :
    tget? (putCell m k b) k = some b ∨ tget? (putCell m k b) k = none ∧ encrypted k = false ∧ b = 0 := by
  rw [putCell]
  split
  · exact .inl (tget?_tset_self m k b)
  · rw [tput]
    split
    · exact .inr ⟨tget?_tdel_self m k, by simp_all, ‹_›⟩
    · exact .inl (tget?_tset_self m k b)

theorem tget?_putCell_ne (m : List Host.Cell) {k j : Nat} (b : Byte) (hne : j ≠ k) :
    tget? (putCell m k b) j = tget? m j := by
  rw [putCell]
  split
  · exact tget?_tset_ne m b hne
  · rw [tput]
    split
    · exact tget?_tdel_ne m hne
    · exact tget?_tset_ne m b hne

theorem tget?_tclear_out {α : Type} (t : Tab α) {lo hi k : Nat} (hk : k < lo ∨ hi ≤ k) :
    tget? (tclear t lo hi) k = tget? t k := by
  induction t with
  | nil => rfl
  | cons x t ih =>
    obtain ⟨j, u⟩ := x
    rw [tclear] at ih ⊢
    rw [List.filter_cons]
    split
    · simp only [tget?, ih]
    · have hne : j ≠ k := by
        rintro rfl
        simp_all
      rw [ih, tget?, if_neg hne]

theorem tget?_clearLine_out (m : List Host.Cell) (tag : Nat) {line k : Nat} (hk : k / 128 ≠ line) :
    tget? (clearLine m line tag) k = tget? m k := by
  have hc : tget? (tclear m (line * 128) (line * 128 + 128)) k = tget? m k := tget?_tclear_out m (by omega)
  simp only [clearLine]
  split
  · rw [← hc]
    generalize tclear m (line * 128) (line * 128 + 128) = t
    have hl : ∀ i ∈ List.range 128, i < 128 := fun i hi => List.mem_range.mp hi
    generalize List.range 128 = is at hl ⊢
    induction is generalizing t with
    | nil => rfl
    | cons i is ih =>
      have := hl i (List.mem_cons_self ..)
      rw [List.foldl_cons, ih _ fun j hj => hl j (List.mem_cons_of_mem _ hj), tget?_putCell_ne t 0 (by omega)]
  · exact hc

theorem wrAs_tags_self (s : State) (o k : Nat) (b : Byte) : tgetD (s.wrAs o k b).tags (k / 128) 0 = o := by
  simp only [State.wrAs]
  split
  · assumption
  · exact tgetD_tput_self 0 _ _ _

theorem wrAs_tags_ne (s : State) (o k : Nat) (b : Byte) {l : Nat} (hl : l ≠ k / 128) :
    tgetD (s.wrAs o k b).tags l 0 = tgetD s.tags l 0 := by
  simp only [State.wrAs]
  split
  · rfl
  · exact tgetD_tput_ne 0 _ _ hl

@[simp] theorem wrAs_ownerOf (s : State) (o k : Nat) (b : Byte) (j d : Nat) : (s.wrAs o k b).ownerOf j d = s.ownerOf j d := by
  simp only [State.wrAs]
  split <;> rfl

@[simp] theorem wrAs_blank (s : State) (o k : Nat) (b : Byte) (j : Nat) : (s.wrAs o k b).blank j = s.blank j := by
  simp only [State.wrAs]
  split <;> rfl

@[simp] theorem wr_ownerOf (s : State) (c k : Nat) (b : Byte) (j d : Nat) : (s.wr c k b).ownerOf j d = s.ownerOf j d :=
  wrAs_ownerOf s _ k b j d

/-- R32, R33: an owner reads the byte it has written. -/
theorem rdAs_wrAs_self (s : State) (o k : Nat) (b : Byte) : (s.wrAs o k b).rdAs o k = b := by
  simp only [State.rdAs, wrAs_tags_self, wrAs_mem, if_true]
  generalize (if tgetD s.tags (k / 128) 0 = o then s.mem else clearLine s.mem (k / 128) (tgetD s.tags (k / 128) 0)) = m
  rcases tget?_putCell_self m k b with hb | ⟨hb, he, rfl⟩
  · simp [hb]
  · rw [hb, he]
    rfl

/-- R32, R33: a context reads the byte it has written. -/
theorem rd_wr_self (s : State) (c k : Nat) (b : Byte) : (s.wr c k b).rd c k = b := by
  rw [State.rd, wr_ownerOf]
  exact rdAs_wrAs_self s _ k b

/-- A write leaves every byte of another line as it reads, for every context. -/
theorem rd_wr_line (s : State) (c d k : Nat) (b : Byte) {j : Nat} (hj : j / 128 ≠ k / 128) :
    (s.wr c k b).rd d j = s.rd d j := by
  have hm : tget? (s.wrAs (s.ownerOf k c) k b).mem j = tget? s.mem j := by
    rw [wrAs_mem, tget?_putCell_ne _ b (by rintro rfl; exact hj rfl)]
    split
    · rfl
    · exact tget?_clearLine_out _ _ hj
  simp only [State.rd, State.wr, State.rdAs, wrAs_ownerOf, wrAs_blank, wrAs_tags_ne s _ k b hj, hm]

/-- A write to a line that its context owns leaves every other byte as it reads. -/
theorem rd_wr_ne (s : State) (c d k : Nat) (b : Byte) (ho : tgetD s.tags (k / 128) 0 = s.ownerOf k c) {j : Nat}
    (hj : j ≠ k) : (s.wr c k b).rd d j = s.rd d j := by
  have hm : tget? (s.wrAs (s.ownerOf k c) k b).mem j = tget? s.mem j := by
    rw [wrAs_mem, if_pos ho]
    exact tget?_putCell_ne _ b hj
  have hg : (s.wrAs (s.ownerOf k c) k b).tags = s.tags := by
    simp only [State.wrAs]
    rw [if_pos ho]
  simp only [State.rd, State.wr, State.rdAs, wrAs_ownerOf, wrAs_blank, hm, hg]

end Sys2Proof.Machine
end

