-- ==== Sys2Proof/Laws/Ops.lean ====
section
/-! SUPPORT. What the shared operations of the instructions do: one lemma for each shape, for a stream that is free to go on. -/

namespace Sys2Proof.Machine

open Sys2Proof

/-! ### Lanes -/

theorem free_iff {h : Here} {s : State} {g : Guard} {regs : List (Nat × Nat)} {ps : List Nat} :
    h.free s g regs ps = true ↔ s.here? = some h ∧ h.inRange regs = true ∧ h.wp.waitsFor (h.part g) regs ps = false ∧
      h.wp.waitsFor (lanes h.run.mask) [] [g.pred.val] = false ∧ defectsOf s h.b = [] := by
  simp [Here.free, and_assoc]

theorem compared_free {s : State} {h : Here} (ls : List Nat) (hd : defectsOf s h.b = []) : s.compared h ls = .ok s := by
  simp [State.compared, hd]

theorem spoil_free {s : State} {h : Here} (fxs : List (Nat × LaneFx)) (hd : defectsOf s h.b = []) : spoil s h fxs = fxs := by
  simp [spoil, hd]

/-- R295: flags that no thread raises trap nothing. -/
theorem fpCause_zero (f : Nat) (xs : List (Nat × Flg)) (h : ∀ x ∈ xs, x.2 = 0) : fpCause f xs = none := by
  have : ∀ fl : Flg, (xs.filter fun x => x.2 &&& fl != 0) = [] := by
    intro fl
    rw [List.filter_eq_nil_iff]
    intro x hx
    simp [h x hx]
  simp only [fpCause, this]
  simp [maskOf]

/-- R295: causes that are not enabled trap nothing. -/
theorem fpCause_off {f : Nat} (xs : List (Nat × Flg)) (h : f % 8 = 0) : fpCause f xs = none := by
  simp only [fpCause]
  rw [if_neg, if_neg, if_neg] <;> simp <;> omega

theorem fpTrap_quiet {s : State} {h : Here} (td : W32) (fxs : List (Nat × Flg)) (hq : h.quiet = true) : s.fpTrap h td fxs = s := by
  simp only [Here.quiet, Bool.or_eq_true, beq_iff_eq] at hq
  rw [State.fpTrap]
  split
  · rfl
  · rw [fpCause_off fxs (by tauto)]

/-- A short instruction of a stream that is free: its threads write, then a trap of their flags may follow. -/
theorem shortH_free {s : State} {h : Here} {g : Guard} {regs : List (Nat × Nat)} {ps : List Nat} (fx : Here → Nat → LaneFx) (td : W32)
    (hf : h.free s g regs ps = true) :
    shortH g regs ps fx td s = .next ((s.wrote h g (fx h)).fpTrap h td (h.raised g (fx h))) := by
  obtain ⟨h1, h2, h3, h4, h5⟩ := free_iff.mp hf
  simp [shortH, onLane, h1, h2, h3, h4, compared_free _ h5, spoil_free _ h5, State.wrote, Here.raised, Function.comp_def]

/-- One that raises no flags completes. -/
theorem shortH_run {s : State} {h : Here} {g : Guard} {regs : List (Nat × Nat)} {ps : List Nat} {fx : Here → Nat → LaneFx}
    {fx' : Nat → LaneFx} {td : W32} (hf : h.free s g regs ps = true) (h0 : ∀ l, (fx h l).fl = 0)
    (he : ∀ l, fx h l = fx' l) : shortH g regs ps fx td s = .next (s.wrote h g fx') := by
  have hz : fpCause h.b.rcd.flags (h.raised g (fx h)) = none := by
    apply fpCause_zero
    intro x hx
    obtain ⟨l, -, rfl⟩ := List.mem_map.mp hx
    exact h0 l
  have e : fx h = fx' := funext he
  rw [shortH_free fx td hf, State.fpTrap, hz, e]
  split <;> rfl

/-- A long computation of a stream that is free and has room issues, where no trap of its flags is enabled. -/
theorem long_issued {s : State} {h : Here} {g : Guard} {l : Lat} {sfu : Nat} {trapping : Bool} {regs : List (Nat × Nat)} {ps : List Nat}
    (fx : Here → List Nat → List (Nat × LaneFx)) (td : W32) (hf : h.free s g regs ps = true) (hr : h.room s l sfu = true)
    (hq : trapping = false ∨ h.b.rcd.flags % 8 = 0) :
    long g l sfu trapping regs ps fx td s = .next (s.issued h l sfu (fx h (h.part g))) := by
  obtain ⟨h1, h2, h3, h4, h5⟩ := free_iff.mp hf
  simp only [Here.room, Bool.and_eq_true, Bool.not_eq_true', Bool.or_eq_true, beq_iff_eq, decide_eq_true_eq] at hr
  obtain ⟨hc, hs⟩ := hr
  have hs' : (sfu != 0 && (decide (4 ≤ s.queued h.uid h.w sfu) || h.drains)) = false := by
    rcases hs with rfl | ⟨hs, hd⟩
    · rfl
    · rw [hd, Bool.or_false, Bool.and_eq_false_iff, decide_eq_false_iff_not]
      exact .inr (by omega)
  have hq' : (trapping && h.b.rcd.flags % 8 != 0) = false := by
    rcases hq with rfl | hq
    · rfl
    · simp [hq]
  simp only [long, onLane, h1, h2, h3, h4, compared_free _ h5, spoil_free _ h5, hs', hq', hc]
  simp only [Bool.not_true, Bool.false_eq_true, if_false, Bool.or_false]
  rfl

/-- With a trap enabled a flag-setting one completes at once. -/
theorem long_held {s : State} {h : Here} {g : Guard} {l : Lat} {sfu : Nat} {regs : List (Nat × Nat)} {ps : List Nat}
    (fx : Here → List Nat → List (Nat × LaneFx)) (td : W32) (hf : h.free s g regs ps = true) (hr : h.room s l sfu = true)
    (hq : h.b.rcd.flags % 8 ≠ 0) :
    long g l sfu true regs ps fx td s =
      .next ((s.wroteAll h (fx h (h.part g))).fpTrap h td ((fx h (h.part g)).map fun x => (x.1, x.2.fl))) := by
  obtain ⟨h1, h2, h3, h4, h5⟩ := free_iff.mp hf
  simp only [Here.room, Bool.and_eq_true, Bool.not_eq_true', Bool.or_eq_true, beq_iff_eq, decide_eq_true_eq] at hr
  obtain ⟨hc, hs⟩ := hr
  have hs' : (sfu != 0 && (decide (4 ≤ s.queued h.uid h.w sfu) || h.drains)) = false := by
    rcases hs with rfl | ⟨hs, hd⟩
    · rfl
    · rw [hd, Bool.or_false, Bool.and_eq_false_iff, decide_eq_false_iff_not]
      exact .inr (by omega)
  have hq' : (h.b.rcd.flags % 8 != 0) = true := by simpa using hq
  simp only [long, onLane, h1, h2, h3, h4, compared_free _ h5, spoil_free _ h5, hs', hq', hc]
  simp only [Bool.not_true, Bool.false_eq_true, if_false, Bool.or_false, Bool.and_self, if_true]
  rfl

end Sys2Proof.Machine
end

