-- ==== Sys2Proof/Laws/State.lean ====
section
/-! SUPPORT. What each named update of the state leaves in each field. -/

namespace Sys2Proof.Machine.State

open Sys2Proof

variable (s : State)


@[simp] theorem setBlock_fresh (u : Nat) (b : Block) : (s.setBlock u b).fresh = s.fresh := rfl
@[simp] theorem setBlock_agenda (u : Nat) (b : Block) : (s.setBlock u b).agenda = s.agenda := rfl
@[simp] theorem setBlock_schedule (u : Nat) (b : Block) : (s.setBlock u b).schedule = s.schedule := rfl
@[simp] theorem setBlock_cur (u : Nat) (b : Block) : (s.setBlock u b).cur = s.cur := rfl
@[simp] theorem setBlock_underway (u : Nat) (b : Block) : (s.setBlock u b).underway = s.underway := rfl
@[simp] theorem setBlock_lastUnit (u : Nat) (b : Block) : (s.setBlock u b).lastUnit = s.lastUnit := rfl
@[simp] theorem setBlock_lastSlots (u : Nat) (b : Block) : (s.setBlock u b).lastSlots = s.lastSlots := rfl
@[simp] theorem setBlock_lastStarts (u : Nat) (b : Block) : (s.setBlock u b).lastStarts = s.lastStarts := rfl
@[simp] theorem setBlock_lastTimer (u : Nat) (b : Block) : (s.setBlock u b).lastTimer = s.lastTimer := rfl
@[simp] theorem setBlock_turns (u : Nat) (b : Block) : (s.setBlock u b).turns = s.turns := rfl
@[simp] theorem setBlock_next (u : Nat) (b : Block) : (s.setBlock u b).next = s.next := rfl
@[simp] theorem setBlock_pkg (u : Nat) (b : Block) : (s.setBlock u b).pkg = s.pkg := rfl
@[simp] theorem setBlock_out (u : Nat) (b : Block) : (s.setBlock u b).out = s.out := rfl
@[simp] theorem setBlock_portOut (u : Nat) (b : Block) : (s.setBlock u b).portOut = s.portOut := rfl
@[simp] theorem setBlock_peerOut (u : Nat) (b : Block) : (s.setBlock u b).peerOut = s.peerOut := rfl
@[simp] theorem setBlock_fns (u : Nat) (b : Block) : (s.setBlock u b).fns = s.fns := rfl
@[simp] theorem setBlock_lastFn (u : Nat) (b : Block) : (s.setBlock u b).lastFn = s.lastFn := rfl
@[simp] theorem setBlock_ctxs (u : Nat) (b : Block) : (s.setBlock u b).ctxs = s.ctxs := rfl
@[simp] theorem setBlock_peerKeys (u : Nat) (b : Block) : (s.setBlock u b).peerKeys = s.peerKeys := rfl
@[simp] theorem setBlock_gens (u : Nat) (b : Block) : (s.setBlock u b).gens = s.gens := rfl
@[simp] theorem setBlock_queues (u : Nat) (b : Block) : (s.setBlock u b).queues = s.queues := rfl
@[simp] theorem setBlock_levelPtr (u : Nat) (b : Block) : (s.setBlock u b).levelPtr = s.levelPtr := rfl
@[simp] theorem setBlock_engines (u : Nat) (b : Block) : (s.setBlock u b).engines = s.engines := rfl
@[simp] theorem setBlock_rops (u : Nat) (b : Block) : (s.setBlock u b).rops = s.rops := rfl
@[simp] theorem setBlock_versions (u : Nat) (b : Block) : (s.setBlock u b).versions = s.versions := rfl
@[simp] theorem setBlock_filled (u : Nat) (b : Block) : (s.setBlock u b).filled = s.filled := rfl
@[simp] theorem setBlock_regens (u : Nat) (b : Block) : (s.setBlock u b).regens = s.regens := rfl
@[simp] theorem setBlock_peerGrants (u : Nat) (b : Block) : (s.setBlock u b).peerGrants = s.peerGrants := rfl
@[simp] theorem setBlock_raNext (u : Nat) (b : Block) : (s.setBlock u b).raNext = s.raNext := rfl
@[simp] theorem setBlock_raPeer (u : Nat) (b : Block) : (s.setBlock u b).raPeer = s.raPeer := rfl
@[simp] theorem setBlock_reqs (u : Nat) (b : Block) : (s.setBlock u b).reqs = s.reqs := rfl
@[simp] theorem setBlock_writes (u : Nat) (b : Block) : (s.setBlock u b).writes = s.writes := rfl
@[simp] theorem setBlock_locks (u : Nat) (b : Block) : (s.setBlock u b).locks = s.locks := rfl
@[simp] theorem setBlock_mem (u : Nat) (b : Block) : (s.setBlock u b).mem = s.mem := rfl
@[simp] theorem setBlock_tags (u : Nat) (b : Block) : (s.setBlock u b).tags = s.tags := rfl
@[simp] theorem setBlock_full (u : Nat) (b : Block) : (s.setBlock u b).full = s.full := rfl
@[simp] theorem setBlock_poison (u : Nat) (b : Block) : (s.setBlock u b).poison = s.poison := rfl
@[simp] theorem setBlock_ptes (u : Nat) (b : Block) : (s.setBlock u b).ptes = s.ptes := rfl
@[simp] theorem setBlock_pageTags (u : Nat) (b : Block) : (s.setBlock u b).pageTags = s.pageTags := rfl
@[simp] theorem setBlock_frames (u : Nat) (b : Block) : (s.setBlock u b).frames = s.frames := rfl
@[simp] theorem setBlock_badFrames (u : Nat) (b : Block) : (s.setBlock u b).badFrames = s.badFrames := rfl
@[simp] theorem setBlock_places (u : Nat) (b : Block) : (s.setBlock u b).places = s.places := rfl
@[simp] theorem setBlock_images (u : Nat) (b : Block) : (s.setBlock u b).images = s.images := rfl
@[simp] theorem setBlock_charges (u : Nat) (b : Block) : (s.setBlock u b).charges = s.charges := rfl
@[simp] theorem setBlock_orphans (u : Nat) (b : Block) : (s.setBlock u b).orphans = s.orphans := rfl
@[simp] theorem setBlock_cores (u : Nat) (b : Block) : (s.setBlock u b).cores = s.cores := rfl
@[simp] theorem setBlock_tlb2 (u : Nat) (b : Block) : (s.setBlock u b).tlb2 = s.tlb2 := rfl
@[simp] theorem setBlock_walks (u : Nat) (b : Block) : (s.setBlock u b).walks = s.walks := rfl
@[simp] theorem setBlock_shoots (u : Nat) (b : Block) : (s.setBlock u b).shoots = s.shoots := rfl
@[simp] theorem setBlock_blocks (u : Nat) (b : Block) : (s.setBlock u b).blocks = tset s.blocks u b := rfl
@[simp] theorem setBlock_clusters (u : Nat) (b : Block) : (s.setBlock u b).clusters = s.clusters := rfl
@[simp] theorem setBlock_grids (u : Nat) (b : Block) : (s.setBlock u b).grids = s.grids := rfl
@[simp] theorem setBlock_graphs (u : Nat) (b : Block) : (s.setBlock u b).graphs = s.graphs := rfl
@[simp] theorem setBlock_pushes (u : Nat) (b : Block) : (s.setBlock u b).pushes = s.pushes := rfl
@[simp] theorem setBlock_ops (u : Nat) (b : Block) : (s.setBlock u b).ops = s.ops := rfl
@[simp] theorem setBlock_rowSets (u : Nat) (b : Block) : (s.setBlock u b).rowSets = s.rowSets := rfl
@[simp] theorem setBlock_rows (u : Nat) (b : Block) : (s.setBlock u b).rows = s.rows := rfl
@[simp] theorem setBlock_redcs (u : Nat) (b : Block) : (s.setBlock u b).redcs = s.redcs := rfl
@[simp] theorem setBlock_contribs (u : Nat) (b : Block) : (s.setBlock u b).contribs = s.contribs := rfl
@[simp] theorem setBlock_colls (u : Nat) (b : Block) : (s.setBlock u b).colls = s.colls := rfl
@[simp] theorem setBlock_faultQ (u : Nat) (b : Block) : (s.setBlock u b).faultQ = s.faultQ := rfl
@[simp] theorem setBlock_merges (u : Nat) (b : Block) : (s.setBlock u b).merges = s.merges := rfl
@[simp] theorem setBlock_chans (u : Nat) (b : Block) : (s.setBlock u b).chans = s.chans := rfl
@[simp] theorem setBlock_defects (u : Nat) (b : Block) : (s.setBlock u b).defects = s.defects := rfl
@[simp] theorem setBlock_badAdders (u : Nat) (b : Block) : (s.setBlock u b).badAdders = s.badAdders := rfl
@[simp] theorem setBlock_padOut (u : Nat) (b : Block) : (s.setBlock u b).padOut = s.padOut := rfl

@[simp] theorem modBlock_fresh (u : Nat) (f : Block → Block) : (s.modBlock u f).fresh = s.fresh := rfl
@[simp] theorem modBlock_agenda (u : Nat) (f : Block → Block) : (s.modBlock u f).agenda = s.agenda := rfl
@[simp] theorem modBlock_schedule (u : Nat) (f : Block → Block) : (s.modBlock u f).schedule = s.schedule := rfl
@[simp] theorem modBlock_cur (u : Nat) (f : Block → Block) : (s.modBlock u f).cur = s.cur := rfl
@[simp] theorem modBlock_underway (u : Nat) (f : Block → Block) : (s.modBlock u f).underway = s.underway := rfl
@[simp] theorem modBlock_lastUnit (u : Nat) (f : Block → Block) : (s.modBlock u f).lastUnit = s.lastUnit := rfl
@[simp] theorem modBlock_lastSlots (u : Nat) (f : Block → Block) : (s.modBlock u f).lastSlots = s.lastSlots := rfl
@[simp] theorem modBlock_lastStarts (u : Nat) (f : Block → Block) : (s.modBlock u f).lastStarts = s.lastStarts := rfl
@[simp] theorem modBlock_lastTimer (u : Nat) (f : Block → Block) : (s.modBlock u f).lastTimer = s.lastTimer := rfl
@[simp] theorem modBlock_turns (u : Nat) (f : Block → Block) : (s.modBlock u f).turns = s.turns := rfl
@[simp] theorem modBlock_next (u : Nat) (f : Block → Block) : (s.modBlock u f).next = s.next := rfl
@[simp] theorem modBlock_pkg (u : Nat) (f : Block → Block) : (s.modBlock u f).pkg = s.pkg := rfl
@[simp] theorem modBlock_out (u : Nat) (f : Block → Block) : (s.modBlock u f).out = s.out := rfl
@[simp] theorem modBlock_portOut (u : Nat) (f : Block → Block) : (s.modBlock u f).portOut = s.portOut := rfl
@[simp] theorem modBlock_peerOut (u : Nat) (f : Block → Block) : (s.modBlock u f).peerOut = s.peerOut := rfl
@[simp] theorem modBlock_fns (u : Nat) (f : Block → Block) : (s.modBlock u f).fns = s.fns := rfl
@[simp] theorem modBlock_lastFn (u : Nat) (f : Block → Block) : (s.modBlock u f).lastFn = s.lastFn := rfl
@[simp] theorem modBlock_ctxs (u : Nat) (f : Block → Block) : (s.modBlock u f).ctxs = s.ctxs := rfl
@[simp] theorem modBlock_peerKeys (u : Nat) (f : Block → Block) : (s.modBlock u f).peerKeys = s.peerKeys := rfl
@[simp] theorem modBlock_gens (u : Nat) (f : Block → Block) : (s.modBlock u f).gens = s.gens := rfl
@[simp] theorem modBlock_queues (u : Nat) (f : Block → Block) : (s.modBlock u f).queues = s.queues := rfl
@[simp] theorem modBlock_levelPtr (u : Nat) (f : Block → Block) : (s.modBlock u f).levelPtr = s.levelPtr := rfl
@[simp] theorem modBlock_engines (u : Nat) (f : Block → Block) : (s.modBlock u f).engines = s.engines := rfl
@[simp] theorem modBlock_rops (u : Nat) (f : Block → Block) : (s.modBlock u f).rops = s.rops := rfl
@[simp] theorem modBlock_versions (u : Nat) (f : Block → Block) : (s.modBlock u f).versions = s.versions := rfl
@[simp] theorem modBlock_filled (u : Nat) (f : Block → Block) : (s.modBlock u f).filled = s.filled := rfl
@[simp] theorem modBlock_regens (u : Nat) (f : Block → Block) : (s.modBlock u f).regens = s.regens := rfl
@[simp] theorem modBlock_peerGrants (u : Nat) (f : Block → Block) : (s.modBlock u f).peerGrants = s.peerGrants := rfl
@[simp] theorem modBlock_raNext (u : Nat) (f : Block → Block) : (s.modBlock u f).raNext = s.raNext := rfl
@[simp] theorem modBlock_raPeer (u : Nat) (f : Block → Block) : (s.modBlock u f).raPeer = s.raPeer := rfl
@[simp] theorem modBlock_reqs (u : Nat) (f : Block → Block) : (s.modBlock u f).reqs = s.reqs := rfl
@[simp] theorem modBlock_writes (u : Nat) (f : Block → Block) : (s.modBlock u f).writes = s.writes := rfl
@[simp] theorem modBlock_locks (u : Nat) (f : Block → Block) : (s.modBlock u f).locks = s.locks := rfl
@[simp] theorem modBlock_mem (u : Nat) (f : Block → Block) : (s.modBlock u f).mem = s.mem := rfl
@[simp] theorem modBlock_tags (u : Nat) (f : Block → Block) : (s.modBlock u f).tags = s.tags := rfl
@[simp] theorem modBlock_full (u : Nat) (f : Block → Block) : (s.modBlock u f).full = s.full := rfl
@[simp] theorem modBlock_poison (u : Nat) (f : Block → Block) : (s.modBlock u f).poison = s.poison := rfl
@[simp] theorem modBlock_ptes (u : Nat) (f : Block → Block) : (s.modBlock u f).ptes = s.ptes := rfl
@[simp] theorem modBlock_pageTags (u : Nat) (f : Block → Block) : (s.modBlock u f).pageTags = s.pageTags := rfl
@[simp] theorem modBlock_frames (u : Nat) (f : Block → Block) : (s.modBlock u f).frames = s.frames := rfl
@[simp] theorem modBlock_badFrames (u : Nat) (f : Block → Block) : (s.modBlock u f).badFrames = s.badFrames := rfl
@[simp] theorem modBlock_places (u : Nat) (f : Block → Block) : (s.modBlock u f).places = s.places := rfl
@[simp] theorem modBlock_images (u : Nat) (f : Block → Block) : (s.modBlock u f).images = s.images := rfl
@[simp] theorem modBlock_charges (u : Nat) (f : Block → Block) : (s.modBlock u f).charges = s.charges := rfl
@[simp] theorem modBlock_orphans (u : Nat) (f : Block → Block) : (s.modBlock u f).orphans = s.orphans := rfl
@[simp] theorem modBlock_cores (u : Nat) (f : Block → Block) : (s.modBlock u f).cores = s.cores := rfl
@[simp] theorem modBlock_tlb2 (u : Nat) (f : Block → Block) : (s.modBlock u f).tlb2 = s.tlb2 := rfl
@[simp] theorem modBlock_walks (u : Nat) (f : Block → Block) : (s.modBlock u f).walks = s.walks := rfl
@[simp] theorem modBlock_shoots (u : Nat) (f : Block → Block) : (s.modBlock u f).shoots = s.shoots := rfl
@[simp] theorem modBlock_blocks (u : Nat) (f : Block → Block) : (s.modBlock u f).blocks = tmod s.blocks u f := rfl
@[simp] theorem modBlock_clusters (u : Nat) (f : Block → Block) : (s.modBlock u f).clusters = s.clusters := rfl
@[simp] theorem modBlock_grids (u : Nat) (f : Block → Block) : (s.modBlock u f).grids = s.grids := rfl
@[simp] theorem modBlock_graphs (u : Nat) (f : Block → Block) : (s.modBlock u f).graphs = s.graphs := rfl
@[simp] theorem modBlock_pushes (u : Nat) (f : Block → Block) : (s.modBlock u f).pushes = s.pushes := rfl
@[simp] theorem modBlock_ops (u : Nat) (f : Block → Block) : (s.modBlock u f).ops = s.ops := rfl
@[simp] theorem modBlock_rowSets (u : Nat) (f : Block → Block) : (s.modBlock u f).rowSets = s.rowSets := rfl
@[simp] theorem modBlock_rows (u : Nat) (f : Block → Block) : (s.modBlock u f).rows = s.rows := rfl
@[simp] theorem modBlock_redcs (u : Nat) (f : Block → Block) : (s.modBlock u f).redcs = s.redcs := rfl
@[simp] theorem modBlock_contribs (u : Nat) (f : Block → Block) : (s.modBlock u f).contribs = s.contribs := rfl
@[simp] theorem modBlock_colls (u : Nat) (f : Block → Block) : (s.modBlock u f).colls = s.colls := rfl
@[simp] theorem modBlock_faultQ (u : Nat) (f : Block → Block) : (s.modBlock u f).faultQ = s.faultQ := rfl
@[simp] theorem modBlock_merges (u : Nat) (f : Block → Block) : (s.modBlock u f).merges = s.merges := rfl
@[simp] theorem modBlock_chans (u : Nat) (f : Block → Block) : (s.modBlock u f).chans = s.chans := rfl
@[simp] theorem modBlock_defects (u : Nat) (f : Block → Block) : (s.modBlock u f).defects = s.defects := rfl
@[simp] theorem modBlock_badAdders (u : Nat) (f : Block → Block) : (s.modBlock u f).badAdders = s.badAdders := rfl
@[simp] theorem modBlock_padOut (u : Nat) (f : Block → Block) : (s.modBlock u f).padOut = s.padOut := rfl

@[simp] theorem modWarp_fresh (u w : Nat) (f : Warp → Warp) : (s.modWarp u w f).fresh = s.fresh := rfl
@[simp] theorem modWarp_agenda (u w : Nat) (f : Warp → Warp) : (s.modWarp u w f).agenda = s.agenda := rfl
@[simp] theorem modWarp_schedule (u w : Nat) (f : Warp → Warp) : (s.modWarp u w f).schedule = s.schedule := rfl
@[simp] theorem modWarp_cur (u w : Nat) (f : Warp → Warp) : (s.modWarp u w f).cur = s.cur := rfl
@[simp] theorem modWarp_underway (u w : Nat) (f : Warp → Warp) : (s.modWarp u w f).underway = s.underway := rfl
@[simp] theorem modWarp_lastUnit (u w : Nat) (f : Warp → Warp) : (s.modWarp u w f).lastUnit = s.lastUnit := rfl
@[simp] theorem modWarp_lastSlots (u w : Nat) (f : Warp → Warp) : (s.modWarp u w f).lastSlots = s.lastSlots := rfl
@[simp] theorem modWarp_lastStarts (u w : Nat) (f : Warp → Warp) : (s.modWarp u w f).lastStarts = s.lastStarts := rfl
@[simp] theorem modWarp_lastTimer (u w : Nat) (f : Warp → Warp) : (s.modWarp u w f).lastTimer = s.lastTimer := rfl
@[simp] theorem modWarp_turns (u w : Nat) (f : Warp → Warp) : (s.modWarp u w f).turns = s.turns := rfl
@[simp] theorem modWarp_next (u w : Nat) (f : Warp → Warp) : (s.modWarp u w f).next = s.next := rfl
@[simp] theorem modWarp_pkg (u w : Nat) (f : Warp → Warp) : (s.modWarp u w f).pkg = s.pkg := rfl
@[simp] theorem modWarp_out (u w : Nat) (f : Warp → Warp) : (s.modWarp u w f).out = s.out := rfl
@[simp] theorem modWarp_portOut (u w : Nat) (f : Warp → Warp) : (s.modWarp u w f).portOut = s.portOut := rfl
@[simp] theorem modWarp_peerOut (u w : Nat) (f : Warp → Warp) : (s.modWarp u w f).peerOut = s.peerOut := rfl
@[simp] theorem modWarp_fns (u w : Nat) (f : Warp → Warp) : (s.modWarp u w f).fns = s.fns := rfl
@[simp] theorem modWarp_lastFn (u w : Nat) (f : Warp → Warp) : (s.modWarp u w f).lastFn = s.lastFn := rfl
@[simp] theorem modWarp_ctxs (u w : Nat) (f : Warp → Warp) : (s.modWarp u w f).ctxs = s.ctxs := rfl
@[simp] theorem modWarp_peerKeys (u w : Nat) (f : Warp → Warp) : (s.modWarp u w f).peerKeys = s.peerKeys := rfl
@[simp] theorem modWarp_gens (u w : Nat) (f : Warp → Warp) : (s.modWarp u w f).gens = s.gens := rfl
@[simp] theorem modWarp_queues (u w : Nat) (f : Warp → Warp) : (s.modWarp u w f).queues = s.queues := rfl
@[simp] theorem modWarp_levelPtr (u w : Nat) (f : Warp → Warp) : (s.modWarp u w f).levelPtr = s.levelPtr := rfl
@[simp] theorem modWarp_engines (u w : Nat) (f : Warp → Warp) : (s.modWarp u w f).engines = s.engines := rfl
@[simp] theorem modWarp_rops (u w : Nat) (f : Warp → Warp) : (s.modWarp u w f).rops = s.rops := rfl
@[simp] theorem modWarp_versions (u w : Nat) (f : Warp → Warp) : (s.modWarp u w f).versions = s.versions := rfl
@[simp] theorem modWarp_filled (u w : Nat) (f : Warp → Warp) : (s.modWarp u w f).filled = s.filled := rfl
@[simp] theorem modWarp_regens (u w : Nat) (f : Warp → Warp) : (s.modWarp u w f).regens = s.regens := rfl
@[simp] theorem modWarp_peerGrants (u w : Nat) (f : Warp → Warp) : (s.modWarp u w f).peerGrants = s.peerGrants := rfl
@[simp] theorem modWarp_raNext (u w : Nat) (f : Warp → Warp) : (s.modWarp u w f).raNext = s.raNext := rfl
@[simp] theorem modWarp_raPeer (u w : Nat) (f : Warp → Warp) : (s.modWarp u w f).raPeer = s.raPeer := rfl
@[simp] theorem modWarp_reqs (u w : Nat) (f : Warp → Warp) : (s.modWarp u w f).reqs = s.reqs := rfl
@[simp] theorem modWarp_writes (u w : Nat) (f : Warp → Warp) : (s.modWarp u w f).writes = s.writes := rfl
@[simp] theorem modWarp_locks (u w : Nat) (f : Warp → Warp) : (s.modWarp u w f).locks = s.locks := rfl
@[simp] theorem modWarp_mem (u w : Nat) (f : Warp → Warp) : (s.modWarp u w f).mem = s.mem := rfl
@[simp] theorem modWarp_tags (u w : Nat) (f : Warp → Warp) : (s.modWarp u w f).tags = s.tags := rfl
@[simp] theorem modWarp_full (u w : Nat) (f : Warp → Warp) : (s.modWarp u w f).full = s.full := rfl
@[simp] theorem modWarp_poison (u w : Nat) (f : Warp → Warp) : (s.modWarp u w f).poison = s.poison := rfl
@[simp] theorem modWarp_ptes (u w : Nat) (f : Warp → Warp) : (s.modWarp u w f).ptes = s.ptes := rfl
@[simp] theorem modWarp_pageTags (u w : Nat) (f : Warp → Warp) : (s.modWarp u w f).pageTags = s.pageTags := rfl
@[simp] theorem modWarp_frames (u w : Nat) (f : Warp → Warp) : (s.modWarp u w f).frames = s.frames := rfl
@[simp] theorem modWarp_badFrames (u w : Nat) (f : Warp → Warp) : (s.modWarp u w f).badFrames = s.badFrames := rfl
@[simp] theorem modWarp_places (u w : Nat) (f : Warp → Warp) : (s.modWarp u w f).places = s.places := rfl
@[simp] theorem modWarp_images (u w : Nat) (f : Warp → Warp) : (s.modWarp u w f).images = s.images := rfl
@[simp] theorem modWarp_charges (u w : Nat) (f : Warp → Warp) : (s.modWarp u w f).charges = s.charges := rfl
@[simp] theorem modWarp_orphans (u w : Nat) (f : Warp → Warp) : (s.modWarp u w f).orphans = s.orphans := rfl
@[simp] theorem modWarp_cores (u w : Nat) (f : Warp → Warp) : (s.modWarp u w f).cores = s.cores := rfl
@[simp] theorem modWarp_tlb2 (u w : Nat) (f : Warp → Warp) : (s.modWarp u w f).tlb2 = s.tlb2 := rfl
@[simp] theorem modWarp_walks (u w : Nat) (f : Warp → Warp) : (s.modWarp u w f).walks = s.walks := rfl
@[simp] theorem modWarp_shoots (u w : Nat) (f : Warp → Warp) : (s.modWarp u w f).shoots = s.shoots := rfl
@[simp] theorem modWarp_blocks (u w : Nat) (f : Warp → Warp) : (s.modWarp u w f).blocks = tmod s.blocks u fun b => { b with warps := tmod b.warps w f } := rfl
@[simp] theorem modWarp_clusters (u w : Nat) (f : Warp → Warp) : (s.modWarp u w f).clusters = s.clusters := rfl
@[simp] theorem modWarp_grids (u w : Nat) (f : Warp → Warp) : (s.modWarp u w f).grids = s.grids := rfl
@[simp] theorem modWarp_graphs (u w : Nat) (f : Warp → Warp) : (s.modWarp u w f).graphs = s.graphs := rfl
@[simp] theorem modWarp_pushes (u w : Nat) (f : Warp → Warp) : (s.modWarp u w f).pushes = s.pushes := rfl
@[simp] theorem modWarp_ops (u w : Nat) (f : Warp → Warp) : (s.modWarp u w f).ops = s.ops := rfl
@[simp] theorem modWarp_rowSets (u w : Nat) (f : Warp → Warp) : (s.modWarp u w f).rowSets = s.rowSets := rfl
@[simp] theorem modWarp_rows (u w : Nat) (f : Warp → Warp) : (s.modWarp u w f).rows = s.rows := rfl
@[simp] theorem modWarp_redcs (u w : Nat) (f : Warp → Warp) : (s.modWarp u w f).redcs = s.redcs := rfl
@[simp] theorem modWarp_contribs (u w : Nat) (f : Warp → Warp) : (s.modWarp u w f).contribs = s.contribs := rfl
@[simp] theorem modWarp_colls (u w : Nat) (f : Warp → Warp) : (s.modWarp u w f).colls = s.colls := rfl
@[simp] theorem modWarp_faultQ (u w : Nat) (f : Warp → Warp) : (s.modWarp u w f).faultQ = s.faultQ := rfl
@[simp] theorem modWarp_merges (u w : Nat) (f : Warp → Warp) : (s.modWarp u w f).merges = s.merges := rfl
@[simp] theorem modWarp_chans (u w : Nat) (f : Warp → Warp) : (s.modWarp u w f).chans = s.chans := rfl
@[simp] theorem modWarp_defects (u w : Nat) (f : Warp → Warp) : (s.modWarp u w f).defects = s.defects := rfl
@[simp] theorem modWarp_badAdders (u w : Nat) (f : Warp → Warp) : (s.modWarp u w f).badAdders = s.badAdders := rfl
@[simp] theorem modWarp_padOut (u w : Nat) (f : Warp → Warp) : (s.modWarp u w f).padOut = s.padOut := rfl

@[simp] theorem modSeq_fresh (u : Nat) (f : Seq → Seq) : (s.modSeq u f).fresh = s.fresh := rfl
@[simp] theorem modSeq_agenda (u : Nat) (f : Seq → Seq) : (s.modSeq u f).agenda = s.agenda := rfl
@[simp] theorem modSeq_schedule (u : Nat) (f : Seq → Seq) : (s.modSeq u f).schedule = s.schedule := rfl
@[simp] theorem modSeq_cur (u : Nat) (f : Seq → Seq) : (s.modSeq u f).cur = s.cur := rfl
@[simp] theorem modSeq_underway (u : Nat) (f : Seq → Seq) : (s.modSeq u f).underway = s.underway := rfl
@[simp] theorem modSeq_lastUnit (u : Nat) (f : Seq → Seq) : (s.modSeq u f).lastUnit = s.lastUnit := rfl
@[simp] theorem modSeq_lastSlots (u : Nat) (f : Seq → Seq) : (s.modSeq u f).lastSlots = s.lastSlots := rfl
@[simp] theorem modSeq_lastStarts (u : Nat) (f : Seq → Seq) : (s.modSeq u f).lastStarts = s.lastStarts := rfl
@[simp] theorem modSeq_lastTimer (u : Nat) (f : Seq → Seq) : (s.modSeq u f).lastTimer = s.lastTimer := rfl
@[simp] theorem modSeq_turns (u : Nat) (f : Seq → Seq) : (s.modSeq u f).turns = s.turns := rfl
@[simp] theorem modSeq_next (u : Nat) (f : Seq → Seq) : (s.modSeq u f).next = s.next := rfl
@[simp] theorem modSeq_pkg (u : Nat) (f : Seq → Seq) : (s.modSeq u f).pkg = s.pkg := rfl
@[simp] theorem modSeq_out (u : Nat) (f : Seq → Seq) : (s.modSeq u f).out = s.out := rfl
@[simp] theorem modSeq_portOut (u : Nat) (f : Seq → Seq) : (s.modSeq u f).portOut = s.portOut := rfl
@[simp] theorem modSeq_peerOut (u : Nat) (f : Seq → Seq) : (s.modSeq u f).peerOut = s.peerOut := rfl
@[simp] theorem modSeq_fns (u : Nat) (f : Seq → Seq) : (s.modSeq u f).fns = s.fns := rfl
@[simp] theorem modSeq_lastFn (u : Nat) (f : Seq → Seq) : (s.modSeq u f).lastFn = s.lastFn := rfl
@[simp] theorem modSeq_ctxs (u : Nat) (f : Seq → Seq) : (s.modSeq u f).ctxs = s.ctxs := rfl
@[simp] theorem modSeq_peerKeys (u : Nat) (f : Seq → Seq) : (s.modSeq u f).peerKeys = s.peerKeys := rfl
@[simp] theorem modSeq_gens (u : Nat) (f : Seq → Seq) : (s.modSeq u f).gens = s.gens := rfl
@[simp] theorem modSeq_queues (u : Nat) (f : Seq → Seq) : (s.modSeq u f).queues = s.queues := rfl
@[simp] theorem modSeq_levelPtr (u : Nat) (f : Seq → Seq) : (s.modSeq u f).levelPtr = s.levelPtr := rfl
@[simp] theorem modSeq_engines (u : Nat) (f : Seq → Seq) : (s.modSeq u f).engines = s.engines := rfl
@[simp] theorem modSeq_rops (u : Nat) (f : Seq → Seq) : (s.modSeq u f).rops = s.rops := rfl
@[simp] theorem modSeq_versions (u : Nat) (f : Seq → Seq) : (s.modSeq u f).versions = s.versions := rfl
@[simp] theorem modSeq_filled (u : Nat) (f : Seq → Seq) : (s.modSeq u f).filled = s.filled := rfl
@[simp] theorem modSeq_regens (u : Nat) (f : Seq → Seq) : (s.modSeq u f).regens = s.regens := rfl
@[simp] theorem modSeq_peerGrants (u : Nat) (f : Seq → Seq) : (s.modSeq u f).peerGrants = s.peerGrants := rfl
@[simp] theorem modSeq_raNext (u : Nat) (f : Seq → Seq) : (s.modSeq u f).raNext = s.raNext := rfl
@[simp] theorem modSeq_raPeer (u : Nat) (f : Seq → Seq) : (s.modSeq u f).raPeer = s.raPeer := rfl
@[simp] theorem modSeq_reqs (u : Nat) (f : Seq → Seq) : (s.modSeq u f).reqs = s.reqs := rfl
@[simp] theorem modSeq_writes (u : Nat) (f : Seq → Seq) : (s.modSeq u f).writes = s.writes := rfl
@[simp] theorem modSeq_locks (u : Nat) (f : Seq → Seq) : (s.modSeq u f).locks = s.locks := rfl
@[simp] theorem modSeq_mem (u : Nat) (f : Seq → Seq) : (s.modSeq u f).mem = s.mem := rfl
@[simp] theorem modSeq_tags (u : Nat) (f : Seq → Seq) : (s.modSeq u f).tags = s.tags := rfl
@[simp] theorem modSeq_full (u : Nat) (f : Seq → Seq) : (s.modSeq u f).full = s.full := rfl
@[simp] theorem modSeq_poison (u : Nat) (f : Seq → Seq) : (s.modSeq u f).poison = s.poison := rfl
@[simp] theorem modSeq_ptes (u : Nat) (f : Seq → Seq) : (s.modSeq u f).ptes = s.ptes := rfl
@[simp] theorem modSeq_pageTags (u : Nat) (f : Seq → Seq) : (s.modSeq u f).pageTags = s.pageTags := rfl
@[simp] theorem modSeq_frames (u : Nat) (f : Seq → Seq) : (s.modSeq u f).frames = s.frames := rfl
@[simp] theorem modSeq_badFrames (u : Nat) (f : Seq → Seq) : (s.modSeq u f).badFrames = s.badFrames := rfl
@[simp] theorem modSeq_places (u : Nat) (f : Seq → Seq) : (s.modSeq u f).places = s.places := rfl
@[simp] theorem modSeq_images (u : Nat) (f : Seq → Seq) : (s.modSeq u f).images = s.images := rfl
@[simp] theorem modSeq_charges (u : Nat) (f : Seq → Seq) : (s.modSeq u f).charges = s.charges := rfl
@[simp] theorem modSeq_orphans (u : Nat) (f : Seq → Seq) : (s.modSeq u f).orphans = s.orphans := rfl
@[simp] theorem modSeq_cores (u : Nat) (f : Seq → Seq) : (s.modSeq u f).cores = s.cores := rfl
@[simp] theorem modSeq_tlb2 (u : Nat) (f : Seq → Seq) : (s.modSeq u f).tlb2 = s.tlb2 := rfl
@[simp] theorem modSeq_walks (u : Nat) (f : Seq → Seq) : (s.modSeq u f).walks = s.walks := rfl
@[simp] theorem modSeq_shoots (u : Nat) (f : Seq → Seq) : (s.modSeq u f).shoots = s.shoots := rfl
@[simp] theorem modSeq_blocks (u : Nat) (f : Seq → Seq) : (s.modSeq u f).blocks = tmod s.blocks u fun b => { b with seq := f b.seq } := rfl
@[simp] theorem modSeq_clusters (u : Nat) (f : Seq → Seq) : (s.modSeq u f).clusters = s.clusters := rfl
@[simp] theorem modSeq_grids (u : Nat) (f : Seq → Seq) : (s.modSeq u f).grids = s.grids := rfl
@[simp] theorem modSeq_graphs (u : Nat) (f : Seq → Seq) : (s.modSeq u f).graphs = s.graphs := rfl
@[simp] theorem modSeq_pushes (u : Nat) (f : Seq → Seq) : (s.modSeq u f).pushes = s.pushes := rfl
@[simp] theorem modSeq_ops (u : Nat) (f : Seq → Seq) : (s.modSeq u f).ops = s.ops := rfl
@[simp] theorem modSeq_rowSets (u : Nat) (f : Seq → Seq) : (s.modSeq u f).rowSets = s.rowSets := rfl
@[simp] theorem modSeq_rows (u : Nat) (f : Seq → Seq) : (s.modSeq u f).rows = s.rows := rfl
@[simp] theorem modSeq_redcs (u : Nat) (f : Seq → Seq) : (s.modSeq u f).redcs = s.redcs := rfl
@[simp] theorem modSeq_contribs (u : Nat) (f : Seq → Seq) : (s.modSeq u f).contribs = s.contribs := rfl
@[simp] theorem modSeq_colls (u : Nat) (f : Seq → Seq) : (s.modSeq u f).colls = s.colls := rfl
@[simp] theorem modSeq_faultQ (u : Nat) (f : Seq → Seq) : (s.modSeq u f).faultQ = s.faultQ := rfl
@[simp] theorem modSeq_merges (u : Nat) (f : Seq → Seq) : (s.modSeq u f).merges = s.merges := rfl
@[simp] theorem modSeq_chans (u : Nat) (f : Seq → Seq) : (s.modSeq u f).chans = s.chans := rfl
@[simp] theorem modSeq_defects (u : Nat) (f : Seq → Seq) : (s.modSeq u f).defects = s.defects := rfl
@[simp] theorem modSeq_badAdders (u : Nat) (f : Seq → Seq) : (s.modSeq u f).badAdders = s.badAdders := rfl
@[simp] theorem modSeq_padOut (u : Nat) (f : Seq → Seq) : (s.modSeq u f).padOut = s.padOut := rfl

@[simp] theorem modCtx_fresh (c : Nat) (f : Ctx → Ctx) : (s.modCtx c f).fresh = s.fresh := rfl
@[simp] theorem modCtx_agenda (c : Nat) (f : Ctx → Ctx) : (s.modCtx c f).agenda = s.agenda := rfl
@[simp] theorem modCtx_schedule (c : Nat) (f : Ctx → Ctx) : (s.modCtx c f).schedule = s.schedule := rfl
@[simp] theorem modCtx_cur (c : Nat) (f : Ctx → Ctx) : (s.modCtx c f).cur = s.cur := rfl
@[simp] theorem modCtx_underway (c : Nat) (f : Ctx → Ctx) : (s.modCtx c f).underway = s.underway := rfl
@[simp] theorem modCtx_lastUnit (c : Nat) (f : Ctx → Ctx) : (s.modCtx c f).lastUnit = s.lastUnit := rfl
@[simp] theorem modCtx_lastSlots (c : Nat) (f : Ctx → Ctx) : (s.modCtx c f).lastSlots = s.lastSlots := rfl
@[simp] theorem modCtx_lastStarts (c : Nat) (f : Ctx → Ctx) : (s.modCtx c f).lastStarts = s.lastStarts := rfl
@[simp] theorem modCtx_lastTimer (c : Nat) (f : Ctx → Ctx) : (s.modCtx c f).lastTimer = s.lastTimer := rfl
@[simp] theorem modCtx_turns (c : Nat) (f : Ctx → Ctx) : (s.modCtx c f).turns = s.turns := rfl
@[simp] theorem modCtx_next (c : Nat) (f : Ctx → Ctx) : (s.modCtx c f).next = s.next := rfl
@[simp] theorem modCtx_pkg (c : Nat) (f : Ctx → Ctx) : (s.modCtx c f).pkg = s.pkg := rfl
@[simp] theorem modCtx_out (c : Nat) (f : Ctx → Ctx) : (s.modCtx c f).out = s.out := rfl
@[simp] theorem modCtx_portOut (c : Nat) (f : Ctx → Ctx) : (s.modCtx c f).portOut = s.portOut := rfl
@[simp] theorem modCtx_peerOut (c : Nat) (f : Ctx → Ctx) : (s.modCtx c f).peerOut = s.peerOut := rfl
@[simp] theorem modCtx_fns (c : Nat) (f : Ctx → Ctx) : (s.modCtx c f).fns = s.fns := rfl
@[simp] theorem modCtx_lastFn (c : Nat) (f : Ctx → Ctx) : (s.modCtx c f).lastFn = s.lastFn := rfl
@[simp] theorem modCtx_ctxs (c : Nat) (f : Ctx → Ctx) : (s.modCtx c f).ctxs = tmod s.ctxs c f := rfl
@[simp] theorem modCtx_peerKeys (c : Nat) (f : Ctx → Ctx) : (s.modCtx c f).peerKeys = s.peerKeys := rfl
@[simp] theorem modCtx_gens (c : Nat) (f : Ctx → Ctx) : (s.modCtx c f).gens = s.gens := rfl
@[simp] theorem modCtx_queues (c : Nat) (f : Ctx → Ctx) : (s.modCtx c f).queues = s.queues := rfl
@[simp] theorem modCtx_levelPtr (c : Nat) (f : Ctx → Ctx) : (s.modCtx c f).levelPtr = s.levelPtr := rfl
@[simp] theorem modCtx_engines (c : Nat) (f : Ctx → Ctx) : (s.modCtx c f).engines = s.engines := rfl
@[simp] theorem modCtx_rops (c : Nat) (f : Ctx → Ctx) : (s.modCtx c f).rops = s.rops := rfl
@[simp] theorem modCtx_versions (c : Nat) (f : Ctx → Ctx) : (s.modCtx c f).versions = s.versions := rfl
@[simp] theorem modCtx_filled (c : Nat) (f : Ctx → Ctx) : (s.modCtx c f).filled = s.filled := rfl
@[simp] theorem modCtx_regens (c : Nat) (f : Ctx → Ctx) : (s.modCtx c f).regens = s.regens := rfl
@[simp] theorem modCtx_peerGrants (c : Nat) (f : Ctx → Ctx) : (s.modCtx c f).peerGrants = s.peerGrants := rfl
@[simp] theorem modCtx_raNext (c : Nat) (f : Ctx → Ctx) : (s.modCtx c f).raNext = s.raNext := rfl
@[simp] theorem modCtx_raPeer (c : Nat) (f : Ctx → Ctx) : (s.modCtx c f).raPeer = s.raPeer := rfl
@[simp] theorem modCtx_reqs (c : Nat) (f : Ctx → Ctx) : (s.modCtx c f).reqs = s.reqs := rfl
@[simp] theorem modCtx_writes (c : Nat) (f : Ctx → Ctx) : (s.modCtx c f).writes = s.writes := rfl
@[simp] theorem modCtx_locks (c : Nat) (f : Ctx → Ctx) : (s.modCtx c f).locks = s.locks := rfl
@[simp] theorem modCtx_mem (c : Nat) (f : Ctx → Ctx) : (s.modCtx c f).mem = s.mem := rfl
@[simp] theorem modCtx_tags (c : Nat) (f : Ctx → Ctx) : (s.modCtx c f).tags = s.tags := rfl
@[simp] theorem modCtx_full (c : Nat) (f : Ctx → Ctx) : (s.modCtx c f).full = s.full := rfl
@[simp] theorem modCtx_poison (c : Nat) (f : Ctx → Ctx) : (s.modCtx c f).poison = s.poison := rfl
@[simp] theorem modCtx_ptes (c : Nat) (f : Ctx → Ctx) : (s.modCtx c f).ptes = s.ptes := rfl
@[simp] theorem modCtx_pageTags (c : Nat) (f : Ctx → Ctx) : (s.modCtx c f).pageTags = s.pageTags := rfl
@[simp] theorem modCtx_frames (c : Nat) (f : Ctx → Ctx) : (s.modCtx c f).frames = s.frames := rfl
@[simp] theorem modCtx_badFrames (c : Nat) (f : Ctx → Ctx) : (s.modCtx c f).badFrames = s.badFrames := rfl
@[simp] theorem modCtx_places (c : Nat) (f : Ctx → Ctx) : (s.modCtx c f).places = s.places := rfl
@[simp] theorem modCtx_images (c : Nat) (f : Ctx → Ctx) : (s.modCtx c f).images = s.images := rfl
@[simp] theorem modCtx_charges (c : Nat) (f : Ctx → Ctx) : (s.modCtx c f).charges = s.charges := rfl
@[simp] theorem modCtx_orphans (c : Nat) (f : Ctx → Ctx) : (s.modCtx c f).orphans = s.orphans := rfl
@[simp] theorem modCtx_cores (c : Nat) (f : Ctx → Ctx) : (s.modCtx c f).cores = s.cores := rfl
@[simp] theorem modCtx_tlb2 (c : Nat) (f : Ctx → Ctx) : (s.modCtx c f).tlb2 = s.tlb2 := rfl
@[simp] theorem modCtx_walks (c : Nat) (f : Ctx → Ctx) : (s.modCtx c f).walks = s.walks := rfl
@[simp] theorem modCtx_shoots (c : Nat) (f : Ctx → Ctx) : (s.modCtx c f).shoots = s.shoots := rfl
@[simp] theorem modCtx_blocks (c : Nat) (f : Ctx → Ctx) : (s.modCtx c f).blocks = s.blocks := rfl
@[simp] theorem modCtx_clusters (c : Nat) (f : Ctx → Ctx) : (s.modCtx c f).clusters = s.clusters := rfl
@[simp] theorem modCtx_grids (c : Nat) (f : Ctx → Ctx) : (s.modCtx c f).grids = s.grids := rfl
@[simp] theorem modCtx_graphs (c : Nat) (f : Ctx → Ctx) : (s.modCtx c f).graphs = s.graphs := rfl
@[simp] theorem modCtx_pushes (c : Nat) (f : Ctx → Ctx) : (s.modCtx c f).pushes = s.pushes := rfl
@[simp] theorem modCtx_ops (c : Nat) (f : Ctx → Ctx) : (s.modCtx c f).ops = s.ops := rfl
@[simp] theorem modCtx_rowSets (c : Nat) (f : Ctx → Ctx) : (s.modCtx c f).rowSets = s.rowSets := rfl
@[simp] theorem modCtx_rows (c : Nat) (f : Ctx → Ctx) : (s.modCtx c f).rows = s.rows := rfl
@[simp] theorem modCtx_redcs (c : Nat) (f : Ctx → Ctx) : (s.modCtx c f).redcs = s.redcs := rfl
@[simp] theorem modCtx_contribs (c : Nat) (f : Ctx → Ctx) : (s.modCtx c f).contribs = s.contribs := rfl
@[simp] theorem modCtx_colls (c : Nat) (f : Ctx → Ctx) : (s.modCtx c f).colls = s.colls := rfl
@[simp] theorem modCtx_faultQ (c : Nat) (f : Ctx → Ctx) : (s.modCtx c f).faultQ = s.faultQ := rfl
@[simp] theorem modCtx_merges (c : Nat) (f : Ctx → Ctx) : (s.modCtx c f).merges = s.merges := rfl
@[simp] theorem modCtx_chans (c : Nat) (f : Ctx → Ctx) : (s.modCtx c f).chans = s.chans := rfl
@[simp] theorem modCtx_defects (c : Nat) (f : Ctx → Ctx) : (s.modCtx c f).defects = s.defects := rfl
@[simp] theorem modCtx_badAdders (c : Nat) (f : Ctx → Ctx) : (s.modCtx c f).badAdders = s.badAdders := rfl
@[simp] theorem modCtx_padOut (c : Nat) (f : Ctx → Ctx) : (s.modCtx c f).padOut = s.padOut := rfl

@[simp] theorem modCore_fresh (k : Nat) (f : Core → Core) : (s.modCore k f).fresh = s.fresh := rfl
@[simp] theorem modCore_agenda (k : Nat) (f : Core → Core) : (s.modCore k f).agenda = s.agenda := rfl
@[simp] theorem modCore_schedule (k : Nat) (f : Core → Core) : (s.modCore k f).schedule = s.schedule := rfl
@[simp] theorem modCore_cur (k : Nat) (f : Core → Core) : (s.modCore k f).cur = s.cur := rfl
@[simp] theorem modCore_underway (k : Nat) (f : Core → Core) : (s.modCore k f).underway = s.underway := rfl
@[simp] theorem modCore_lastUnit (k : Nat) (f : Core → Core) : (s.modCore k f).lastUnit = s.lastUnit := rfl
@[simp] theorem modCore_lastSlots (k : Nat) (f : Core → Core) : (s.modCore k f).lastSlots = s.lastSlots := rfl
@[simp] theorem modCore_lastStarts (k : Nat) (f : Core → Core) : (s.modCore k f).lastStarts = s.lastStarts := rfl
@[simp] theorem modCore_lastTimer (k : Nat) (f : Core → Core) : (s.modCore k f).lastTimer = s.lastTimer := rfl
@[simp] theorem modCore_turns (k : Nat) (f : Core → Core) : (s.modCore k f).turns = s.turns := rfl
@[simp] theorem modCore_next (k : Nat) (f : Core → Core) : (s.modCore k f).next = s.next := rfl
@[simp] theorem modCore_pkg (k : Nat) (f : Core → Core) : (s.modCore k f).pkg = s.pkg := rfl
@[simp] theorem modCore_out (k : Nat) (f : Core → Core) : (s.modCore k f).out = s.out := rfl
@[simp] theorem modCore_portOut (k : Nat) (f : Core → Core) : (s.modCore k f).portOut = s.portOut := rfl
@[simp] theorem modCore_peerOut (k : Nat) (f : Core → Core) : (s.modCore k f).peerOut = s.peerOut := rfl
@[simp] theorem modCore_fns (k : Nat) (f : Core → Core) : (s.modCore k f).fns = s.fns := rfl
@[simp] theorem modCore_lastFn (k : Nat) (f : Core → Core) : (s.modCore k f).lastFn = s.lastFn := rfl
@[simp] theorem modCore_ctxs (k : Nat) (f : Core → Core) : (s.modCore k f).ctxs = s.ctxs := rfl
@[simp] theorem modCore_peerKeys (k : Nat) (f : Core → Core) : (s.modCore k f).peerKeys = s.peerKeys := rfl
@[simp] theorem modCore_gens (k : Nat) (f : Core → Core) : (s.modCore k f).gens = s.gens := rfl
@[simp] theorem modCore_queues (k : Nat) (f : Core → Core) : (s.modCore k f).queues = s.queues := rfl
@[simp] theorem modCore_levelPtr (k : Nat) (f : Core → Core) : (s.modCore k f).levelPtr = s.levelPtr := rfl
@[simp] theorem modCore_engines (k : Nat) (f : Core → Core) : (s.modCore k f).engines = s.engines := rfl
@[simp] theorem modCore_rops (k : Nat) (f : Core → Core) : (s.modCore k f).rops = s.rops := rfl
@[simp] theorem modCore_versions (k : Nat) (f : Core → Core) : (s.modCore k f).versions = s.versions := rfl
@[simp] theorem modCore_filled (k : Nat) (f : Core → Core) : (s.modCore k f).filled = s.filled := rfl
@[simp] theorem modCore_regens (k : Nat) (f : Core → Core) : (s.modCore k f).regens = s.regens := rfl
@[simp] theorem modCore_peerGrants (k : Nat) (f : Core → Core) : (s.modCore k f).peerGrants = s.peerGrants := rfl
@[simp] theorem modCore_raNext (k : Nat) (f : Core → Core) : (s.modCore k f).raNext = s.raNext := rfl
@[simp] theorem modCore_raPeer (k : Nat) (f : Core → Core) : (s.modCore k f).raPeer = s.raPeer := rfl
@[simp] theorem modCore_reqs (k : Nat) (f : Core → Core) : (s.modCore k f).reqs = s.reqs := rfl
@[simp] theorem modCore_writes (k : Nat) (f : Core → Core) : (s.modCore k f).writes = s.writes := rfl
@[simp] theorem modCore_locks (k : Nat) (f : Core → Core) : (s.modCore k f).locks = s.locks := rfl
@[simp] theorem modCore_mem (k : Nat) (f : Core → Core) : (s.modCore k f).mem = s.mem := rfl
@[simp] theorem modCore_tags (k : Nat) (f : Core → Core) : (s.modCore k f).tags = s.tags := rfl
@[simp] theorem modCore_full (k : Nat) (f : Core → Core) : (s.modCore k f).full = s.full := rfl
@[simp] theorem modCore_poison (k : Nat) (f : Core → Core) : (s.modCore k f).poison = s.poison := rfl
@[simp] theorem modCore_ptes (k : Nat) (f : Core → Core) : (s.modCore k f).ptes = s.ptes := rfl
@[simp] theorem modCore_pageTags (k : Nat) (f : Core → Core) : (s.modCore k f).pageTags = s.pageTags := rfl
@[simp] theorem modCore_frames (k : Nat) (f : Core → Core) : (s.modCore k f).frames = s.frames := rfl
@[simp] theorem modCore_badFrames (k : Nat) (f : Core → Core) : (s.modCore k f).badFrames = s.badFrames := rfl
@[simp] theorem modCore_places (k : Nat) (f : Core → Core) : (s.modCore k f).places = s.places := rfl
@[simp] theorem modCore_images (k : Nat) (f : Core → Core) : (s.modCore k f).images = s.images := rfl
@[simp] theorem modCore_charges (k : Nat) (f : Core → Core) : (s.modCore k f).charges = s.charges := rfl
@[simp] theorem modCore_orphans (k : Nat) (f : Core → Core) : (s.modCore k f).orphans = s.orphans := rfl
@[simp] theorem modCore_cores (k : Nat) (f : Core → Core) : (s.modCore k f).cores = tmod s.cores k f := rfl
@[simp] theorem modCore_tlb2 (k : Nat) (f : Core → Core) : (s.modCore k f).tlb2 = s.tlb2 := rfl
@[simp] theorem modCore_walks (k : Nat) (f : Core → Core) : (s.modCore k f).walks = s.walks := rfl
@[simp] theorem modCore_shoots (k : Nat) (f : Core → Core) : (s.modCore k f).shoots = s.shoots := rfl
@[simp] theorem modCore_blocks (k : Nat) (f : Core → Core) : (s.modCore k f).blocks = s.blocks := rfl
@[simp] theorem modCore_clusters (k : Nat) (f : Core → Core) : (s.modCore k f).clusters = s.clusters := rfl
@[simp] theorem modCore_grids (k : Nat) (f : Core → Core) : (s.modCore k f).grids = s.grids := rfl
@[simp] theorem modCore_graphs (k : Nat) (f : Core → Core) : (s.modCore k f).graphs = s.graphs := rfl
@[simp] theorem modCore_pushes (k : Nat) (f : Core → Core) : (s.modCore k f).pushes = s.pushes := rfl
@[simp] theorem modCore_ops (k : Nat) (f : Core → Core) : (s.modCore k f).ops = s.ops := rfl
@[simp] theorem modCore_rowSets (k : Nat) (f : Core → Core) : (s.modCore k f).rowSets = s.rowSets := rfl
@[simp] theorem modCore_rows (k : Nat) (f : Core → Core) : (s.modCore k f).rows = s.rows := rfl
@[simp] theorem modCore_redcs (k : Nat) (f : Core → Core) : (s.modCore k f).redcs = s.redcs := rfl
@[simp] theorem modCore_contribs (k : Nat) (f : Core → Core) : (s.modCore k f).contribs = s.contribs := rfl
@[simp] theorem modCore_colls (k : Nat) (f : Core → Core) : (s.modCore k f).colls = s.colls := rfl
@[simp] theorem modCore_faultQ (k : Nat) (f : Core → Core) : (s.modCore k f).faultQ = s.faultQ := rfl
@[simp] theorem modCore_merges (k : Nat) (f : Core → Core) : (s.modCore k f).merges = s.merges := rfl
@[simp] theorem modCore_chans (k : Nat) (f : Core → Core) : (s.modCore k f).chans = s.chans := rfl
@[simp] theorem modCore_defects (k : Nat) (f : Core → Core) : (s.modCore k f).defects = s.defects := rfl
@[simp] theorem modCore_badAdders (k : Nat) (f : Core → Core) : (s.modCore k f).badAdders = s.badAdders := rfl
@[simp] theorem modCore_padOut (k : Nat) (f : Core → Core) : (s.modCore k f).padOut = s.padOut := rfl

@[simp] theorem due_fresh (i : Instr) : (s.due i).fresh = s.fresh := rfl
@[simp] theorem due_agenda (i : Instr) : (s.due i).agenda = s.agenda ++ [i] := rfl
@[simp] theorem due_schedule (i : Instr) : (s.due i).schedule = s.schedule := rfl
@[simp] theorem due_cur (i : Instr) : (s.due i).cur = s.cur := rfl
@[simp] theorem due_underway (i : Instr) : (s.due i).underway = s.underway := rfl
@[simp] theorem due_lastUnit (i : Instr) : (s.due i).lastUnit = s.lastUnit := rfl
@[simp] theorem due_lastSlots (i : Instr) : (s.due i).lastSlots = s.lastSlots := rfl
@[simp] theorem due_lastStarts (i : Instr) : (s.due i).lastStarts = s.lastStarts := rfl
@[simp] theorem due_lastTimer (i : Instr) : (s.due i).lastTimer = s.lastTimer := rfl
@[simp] theorem due_turns (i : Instr) : (s.due i).turns = s.turns := rfl
@[simp] theorem due_next (i : Instr) : (s.due i).next = s.next := rfl
@[simp] theorem due_pkg (i : Instr) : (s.due i).pkg = s.pkg := rfl
@[simp] theorem due_out (i : Instr) : (s.due i).out = s.out := rfl
@[simp] theorem due_portOut (i : Instr) : (s.due i).portOut = s.portOut := rfl
@[simp] theorem due_peerOut (i : Instr) : (s.due i).peerOut = s.peerOut := rfl
@[simp] theorem due_fns (i : Instr) : (s.due i).fns = s.fns := rfl
@[simp] theorem due_lastFn (i : Instr) : (s.due i).lastFn = s.lastFn := rfl
@[simp] theorem due_ctxs (i : Instr) : (s.due i).ctxs = s.ctxs := rfl
@[simp] theorem due_peerKeys (i : Instr) : (s.due i).peerKeys = s.peerKeys := rfl
@[simp] theorem due_gens (i : Instr) : (s.due i).gens = s.gens := rfl
@[simp] theorem due_queues (i : Instr) : (s.due i).queues = s.queues := rfl
@[simp] theorem due_levelPtr (i : Instr) : (s.due i).levelPtr = s.levelPtr := rfl
@[simp] theorem due_engines (i : Instr) : (s.due i).engines = s.engines := rfl
@[simp] theorem due_rops (i : Instr) : (s.due i).rops = s.rops := rfl
@[simp] theorem due_versions (i : Instr) : (s.due i).versions = s.versions := rfl
@[simp] theorem due_filled (i : Instr) : (s.due i).filled = s.filled := rfl
@[simp] theorem due_regens (i : Instr) : (s.due i).regens = s.regens := rfl
@[simp] theorem due_peerGrants (i : Instr) : (s.due i).peerGrants = s.peerGrants := rfl
@[simp] theorem due_raNext (i : Instr) : (s.due i).raNext = s.raNext := rfl
@[simp] theorem due_raPeer (i : Instr) : (s.due i).raPeer = s.raPeer := rfl
@[simp] theorem due_reqs (i : Instr) : (s.due i).reqs = s.reqs := rfl
@[simp] theorem due_writes (i : Instr) : (s.due i).writes = s.writes := rfl
@[simp] theorem due_locks (i : Instr) : (s.due i).locks = s.locks := rfl
@[simp] theorem due_mem (i : Instr) : (s.due i).mem = s.mem := rfl
@[simp] theorem due_tags (i : Instr) : (s.due i).tags = s.tags := rfl
@[simp] theorem due_full (i : Instr) : (s.due i).full = s.full := rfl
@[simp] theorem due_poison (i : Instr) : (s.due i).poison = s.poison := rfl
@[simp] theorem due_ptes (i : Instr) : (s.due i).ptes = s.ptes := rfl
@[simp] theorem due_pageTags (i : Instr) : (s.due i).pageTags = s.pageTags := rfl
@[simp] theorem due_frames (i : Instr) : (s.due i).frames = s.frames := rfl
@[simp] theorem due_badFrames (i : Instr) : (s.due i).badFrames = s.badFrames := rfl
@[simp] theorem due_places (i : Instr) : (s.due i).places = s.places := rfl
@[simp] theorem due_images (i : Instr) : (s.due i).images = s.images := rfl
@[simp] theorem due_charges (i : Instr) : (s.due i).charges = s.charges := rfl
@[simp] theorem due_orphans (i : Instr) : (s.due i).orphans = s.orphans := rfl
@[simp] theorem due_cores (i : Instr) : (s.due i).cores = s.cores := rfl
@[simp] theorem due_tlb2 (i : Instr) : (s.due i).tlb2 = s.tlb2 := rfl
@[simp] theorem due_walks (i : Instr) : (s.due i).walks = s.walks := rfl
@[simp] theorem due_shoots (i : Instr) : (s.due i).shoots = s.shoots := rfl
@[simp] theorem due_blocks (i : Instr) : (s.due i).blocks = s.blocks := rfl
@[simp] theorem due_clusters (i : Instr) : (s.due i).clusters = s.clusters := rfl
@[simp] theorem due_grids (i : Instr) : (s.due i).grids = s.grids := rfl
@[simp] theorem due_graphs (i : Instr) : (s.due i).graphs = s.graphs := rfl
@[simp] theorem due_pushes (i : Instr) : (s.due i).pushes = s.pushes := rfl
@[simp] theorem due_ops (i : Instr) : (s.due i).ops = s.ops := rfl
@[simp] theorem due_rowSets (i : Instr) : (s.due i).rowSets = s.rowSets := rfl
@[simp] theorem due_rows (i : Instr) : (s.due i).rows = s.rows := rfl
@[simp] theorem due_redcs (i : Instr) : (s.due i).redcs = s.redcs := rfl
@[simp] theorem due_contribs (i : Instr) : (s.due i).contribs = s.contribs := rfl
@[simp] theorem due_colls (i : Instr) : (s.due i).colls = s.colls := rfl
@[simp] theorem due_faultQ (i : Instr) : (s.due i).faultQ = s.faultQ := rfl
@[simp] theorem due_merges (i : Instr) : (s.due i).merges = s.merges := rfl
@[simp] theorem due_chans (i : Instr) : (s.due i).chans = s.chans := rfl
@[simp] theorem due_defects (i : Instr) : (s.due i).defects = s.defects := rfl
@[simp] theorem due_badAdders (i : Instr) : (s.due i).badAdders = s.badAdders := rfl
@[simp] theorem due_padOut (i : Instr) : (s.due i).padOut = s.padOut := rfl

@[simp] theorem dues_fresh (is : List Instr) : (s.dues is).fresh = s.fresh := rfl
@[simp] theorem dues_agenda (is : List Instr) : (s.dues is).agenda = s.agenda ++ is := rfl
@[simp] theorem dues_schedule (is : List Instr) : (s.dues is).schedule = s.schedule := rfl
@[simp] theorem dues_cur (is : List Instr) : (s.dues is).cur = s.cur := rfl
@[simp] theorem dues_underway (is : List Instr) : (s.dues is).underway = s.underway := rfl
@[simp] theorem dues_lastUnit (is : List Instr) : (s.dues is).lastUnit = s.lastUnit := rfl
@[simp] theorem dues_lastSlots (is : List Instr) : (s.dues is).lastSlots = s.lastSlots := rfl
@[simp] theorem dues_lastStarts (is : List Instr) : (s.dues is).lastStarts = s.lastStarts := rfl
@[simp] theorem dues_lastTimer (is : List Instr) : (s.dues is).lastTimer = s.lastTimer := rfl
@[simp] theorem dues_turns (is : List Instr) : (s.dues is).turns = s.turns := rfl
@[simp] theorem dues_next (is : List Instr) : (s.dues is).next = s.next := rfl
@[simp] theorem dues_pkg (is : List Instr) : (s.dues is).pkg = s.pkg := rfl
@[simp] theorem dues_out (is : List Instr) : (s.dues is).out = s.out := rfl
@[simp] theorem dues_portOut (is : List Instr) : (s.dues is).portOut = s.portOut := rfl
@[simp] theorem dues_peerOut (is : List Instr) : (s.dues is).peerOut = s.peerOut := rfl
@[simp] theorem dues_fns (is : List Instr) : (s.dues is).fns = s.fns := rfl
@[simp] theorem dues_lastFn (is : List Instr) : (s.dues is).lastFn = s.lastFn := rfl
@[simp] theorem dues_ctxs (is : List Instr) : (s.dues is).ctxs = s.ctxs := rfl
@[simp] theorem dues_peerKeys (is : List Instr) : (s.dues is).peerKeys = s.peerKeys := rfl
@[simp] theorem dues_gens (is : List Instr) : (s.dues is).gens = s.gens := rfl
@[simp] theorem dues_queues (is : List Instr) : (s.dues is).queues = s.queues := rfl
@[simp] theorem dues_levelPtr (is : List Instr) : (s.dues is).levelPtr = s.levelPtr := rfl
@[simp] theorem dues_engines (is : List Instr) : (s.dues is).engines = s.engines := rfl
@[simp] theorem dues_rops (is : List Instr) : (s.dues is).rops = s.rops := rfl
@[simp] theorem dues_versions (is : List Instr) : (s.dues is).versions = s.versions := rfl
@[simp] theorem dues_filled (is : List Instr) : (s.dues is).filled = s.filled := rfl
@[simp] theorem dues_regens (is : List Instr) : (s.dues is).regens = s.regens := rfl
@[simp] theorem dues_peerGrants (is : List Instr) : (s.dues is).peerGrants = s.peerGrants := rfl
@[simp] theorem dues_raNext (is : List Instr) : (s.dues is).raNext = s.raNext := rfl
@[simp] theorem dues_raPeer (is : List Instr) : (s.dues is).raPeer = s.raPeer := rfl
@[simp] theorem dues_reqs (is : List Instr) : (s.dues is).reqs = s.reqs := rfl
@[simp] theorem dues_writes (is : List Instr) : (s.dues is).writes = s.writes := rfl
@[simp] theorem dues_locks (is : List Instr) : (s.dues is).locks = s.locks := rfl
@[simp] theorem dues_mem (is : List Instr) : (s.dues is).mem = s.mem := rfl
@[simp] theorem dues_tags (is : List Instr) : (s.dues is).tags = s.tags := rfl
@[simp] theorem dues_full (is : List Instr) : (s.dues is).full = s.full := rfl
@[simp] theorem dues_poison (is : List Instr) : (s.dues is).poison = s.poison := rfl
@[simp] theorem dues_ptes (is : List Instr) : (s.dues is).ptes = s.ptes := rfl
@[simp] theorem dues_pageTags (is : List Instr) : (s.dues is).pageTags = s.pageTags := rfl
@[simp] theorem dues_frames (is : List Instr) : (s.dues is).frames = s.frames := rfl
@[simp] theorem dues_badFrames (is : List Instr) : (s.dues is).badFrames = s.badFrames := rfl
@[simp] theorem dues_places (is : List Instr) : (s.dues is).places = s.places := rfl
@[simp] theorem dues_images (is : List Instr) : (s.dues is).images = s.images := rfl
@[simp] theorem dues_charges (is : List Instr) : (s.dues is).charges = s.charges := rfl
@[simp] theorem dues_orphans (is : List Instr) : (s.dues is).orphans = s.orphans := rfl
@[simp] theorem dues_cores (is : List Instr) : (s.dues is).cores = s.cores := rfl
@[simp] theorem dues_tlb2 (is : List Instr) : (s.dues is).tlb2 = s.tlb2 := rfl
@[simp] theorem dues_walks (is : List Instr) : (s.dues is).walks = s.walks := rfl
@[simp] theorem dues_shoots (is : List Instr) : (s.dues is).shoots = s.shoots := rfl
@[simp] theorem dues_blocks (is : List Instr) : (s.dues is).blocks = s.blocks := rfl
@[simp] theorem dues_clusters (is : List Instr) : (s.dues is).clusters = s.clusters := rfl
@[simp] theorem dues_grids (is : List Instr) : (s.dues is).grids = s.grids := rfl
@[simp] theorem dues_graphs (is : List Instr) : (s.dues is).graphs = s.graphs := rfl
@[simp] theorem dues_pushes (is : List Instr) : (s.dues is).pushes = s.pushes := rfl
@[simp] theorem dues_ops (is : List Instr) : (s.dues is).ops = s.ops := rfl
@[simp] theorem dues_rowSets (is : List Instr) : (s.dues is).rowSets = s.rowSets := rfl
@[simp] theorem dues_rows (is : List Instr) : (s.dues is).rows = s.rows := rfl
@[simp] theorem dues_redcs (is : List Instr) : (s.dues is).redcs = s.redcs := rfl
@[simp] theorem dues_contribs (is : List Instr) : (s.dues is).contribs = s.contribs := rfl
@[simp] theorem dues_colls (is : List Instr) : (s.dues is).colls = s.colls := rfl
@[simp] theorem dues_faultQ (is : List Instr) : (s.dues is).faultQ = s.faultQ := rfl
@[simp] theorem dues_merges (is : List Instr) : (s.dues is).merges = s.merges := rfl
@[simp] theorem dues_chans (is : List Instr) : (s.dues is).chans = s.chans := rfl
@[simp] theorem dues_defects (is : List Instr) : (s.dues is).defects = s.defects := rfl
@[simp] theorem dues_badAdders (is : List Instr) : (s.dues is).badAdders = s.badAdders := rfl
@[simp] theorem dues_padOut (is : List Instr) : (s.dues is).padOut = s.padOut := rfl

@[simp] theorem waits_fresh : (s.waits).fresh = s.fresh := rfl
@[simp] theorem waits_agenda : (s.waits).agenda = s.agenda := rfl
@[simp] theorem waits_schedule : (s.waits).schedule = s.schedule := rfl
@[simp] theorem waits_cur : (s.waits).cur = none := rfl
@[simp] theorem waits_underway : (s.waits).underway = s.underway := rfl
@[simp] theorem waits_lastUnit : (s.waits).lastUnit = s.lastUnit := rfl
@[simp] theorem waits_lastSlots : (s.waits).lastSlots = s.lastSlots := rfl
@[simp] theorem waits_lastStarts : (s.waits).lastStarts = s.lastStarts := rfl
@[simp] theorem waits_lastTimer : (s.waits).lastTimer = s.lastTimer := rfl
@[simp] theorem waits_turns : (s.waits).turns = s.turns := rfl
@[simp] theorem waits_next : (s.waits).next = s.next := rfl
@[simp] theorem waits_pkg : (s.waits).pkg = s.pkg := rfl
@[simp] theorem waits_out : (s.waits).out = s.out := rfl
@[simp] theorem waits_portOut : (s.waits).portOut = s.portOut := rfl
@[simp] theorem waits_peerOut : (s.waits).peerOut = s.peerOut := rfl
@[simp] theorem waits_fns : (s.waits).fns = s.fns := rfl
@[simp] theorem waits_lastFn : (s.waits).lastFn = s.lastFn := rfl
@[simp] theorem waits_ctxs : (s.waits).ctxs = s.ctxs := rfl
@[simp] theorem waits_peerKeys : (s.waits).peerKeys = s.peerKeys := rfl
@[simp] theorem waits_gens : (s.waits).gens = s.gens := rfl
@[simp] theorem waits_queues : (s.waits).queues = s.queues := rfl
@[simp] theorem waits_levelPtr : (s.waits).levelPtr = s.levelPtr := rfl
@[simp] theorem waits_engines : (s.waits).engines = s.engines := rfl
@[simp] theorem waits_rops : (s.waits).rops = s.rops := rfl
@[simp] theorem waits_versions : (s.waits).versions = s.versions := rfl
@[simp] theorem waits_filled : (s.waits).filled = s.filled := rfl
@[simp] theorem waits_regens : (s.waits).regens = s.regens := rfl
@[simp] theorem waits_peerGrants : (s.waits).peerGrants = s.peerGrants := rfl
@[simp] theorem waits_raNext : (s.waits).raNext = s.raNext := rfl
@[simp] theorem waits_raPeer : (s.waits).raPeer = s.raPeer := rfl
@[simp] theorem waits_reqs : (s.waits).reqs = s.reqs := rfl
@[simp] theorem waits_writes : (s.waits).writes = s.writes := rfl
@[simp] theorem waits_locks : (s.waits).locks = s.locks := rfl
@[simp] theorem waits_mem : (s.waits).mem = s.mem := rfl
@[simp] theorem waits_tags : (s.waits).tags = s.tags := rfl
@[simp] theorem waits_full : (s.waits).full = s.full := rfl
@[simp] theorem waits_poison : (s.waits).poison = s.poison := rfl
@[simp] theorem waits_ptes : (s.waits).ptes = s.ptes := rfl
@[simp] theorem waits_pageTags : (s.waits).pageTags = s.pageTags := rfl
@[simp] theorem waits_frames : (s.waits).frames = s.frames := rfl
@[simp] theorem waits_badFrames : (s.waits).badFrames = s.badFrames := rfl
@[simp] theorem waits_places : (s.waits).places = s.places := rfl
@[simp] theorem waits_images : (s.waits).images = s.images := rfl
@[simp] theorem waits_charges : (s.waits).charges = s.charges := rfl
@[simp] theorem waits_orphans : (s.waits).orphans = s.orphans := rfl
@[simp] theorem waits_cores : (s.waits).cores = s.cores := rfl
@[simp] theorem waits_tlb2 : (s.waits).tlb2 = s.tlb2 := rfl
@[simp] theorem waits_walks : (s.waits).walks = s.walks := rfl
@[simp] theorem waits_shoots : (s.waits).shoots = s.shoots := rfl
@[simp] theorem waits_blocks : (s.waits).blocks = s.blocks := rfl
@[simp] theorem waits_clusters : (s.waits).clusters = s.clusters := rfl
@[simp] theorem waits_grids : (s.waits).grids = s.grids := rfl
@[simp] theorem waits_graphs : (s.waits).graphs = s.graphs := rfl
@[simp] theorem waits_pushes : (s.waits).pushes = s.pushes := rfl
@[simp] theorem waits_ops : (s.waits).ops = s.ops := rfl
@[simp] theorem waits_rowSets : (s.waits).rowSets = s.rowSets := rfl
@[simp] theorem waits_rows : (s.waits).rows = s.rows := rfl
@[simp] theorem waits_redcs : (s.waits).redcs = s.redcs := rfl
@[simp] theorem waits_contribs : (s.waits).contribs = s.contribs := rfl
@[simp] theorem waits_colls : (s.waits).colls = s.colls := rfl
@[simp] theorem waits_faultQ : (s.waits).faultQ = s.faultQ := rfl
@[simp] theorem waits_merges : (s.waits).merges = s.merges := rfl
@[simp] theorem waits_chans : (s.waits).chans = s.chans := rfl
@[simp] theorem waits_defects : (s.waits).defects = s.defects := rfl
@[simp] theorem waits_badAdders : (s.waits).badAdders = s.badAdders := rfl
@[simp] theorem waits_padOut : (s.waits).padOut = s.padOut := rfl

@[simp] theorem advance_fresh (h : Here) : (s.advance h).fresh = s.fresh := rfl
@[simp] theorem advance_agenda (h : Here) : (s.advance h).agenda = s.agenda := rfl
@[simp] theorem advance_schedule (h : Here) : (s.advance h).schedule = s.schedule := rfl
@[simp] theorem advance_cur (h : Here) : (s.advance h).cur = s.cur := rfl
@[simp] theorem advance_underway (h : Here) : (s.advance h).underway = s.underway := rfl
@[simp] theorem advance_lastUnit (h : Here) : (s.advance h).lastUnit = s.lastUnit := rfl
@[simp] theorem advance_lastSlots (h : Here) : (s.advance h).lastSlots = s.lastSlots := rfl
@[simp] theorem advance_lastStarts (h : Here) : (s.advance h).lastStarts = s.lastStarts := rfl
@[simp] theorem advance_lastTimer (h : Here) : (s.advance h).lastTimer = s.lastTimer := rfl
@[simp] theorem advance_turns (h : Here) : (s.advance h).turns = s.turns := rfl
@[simp] theorem advance_next (h : Here) : (s.advance h).next = s.next := rfl
@[simp] theorem advance_pkg (h : Here) : (s.advance h).pkg = s.pkg := rfl
@[simp] theorem advance_out (h : Here) : (s.advance h).out = s.out := rfl
@[simp] theorem advance_portOut (h : Here) : (s.advance h).portOut = s.portOut := rfl
@[simp] theorem advance_peerOut (h : Here) : (s.advance h).peerOut = s.peerOut := rfl
@[simp] theorem advance_fns (h : Here) : (s.advance h).fns = s.fns := rfl
@[simp] theorem advance_lastFn (h : Here) : (s.advance h).lastFn = s.lastFn := rfl
@[simp] theorem advance_ctxs (h : Here) : (s.advance h).ctxs = s.ctxs := rfl
@[simp] theorem advance_peerKeys (h : Here) : (s.advance h).peerKeys = s.peerKeys := rfl
@[simp] theorem advance_gens (h : Here) : (s.advance h).gens = s.gens := rfl
@[simp] theorem advance_queues (h : Here) : (s.advance h).queues = s.queues := rfl
@[simp] theorem advance_levelPtr (h : Here) : (s.advance h).levelPtr = s.levelPtr := rfl
@[simp] theorem advance_engines (h : Here) : (s.advance h).engines = s.engines := rfl
@[simp] theorem advance_rops (h : Here) : (s.advance h).rops = s.rops := rfl
@[simp] theorem advance_versions (h : Here) : (s.advance h).versions = s.versions := rfl
@[simp] theorem advance_filled (h : Here) : (s.advance h).filled = s.filled := rfl
@[simp] theorem advance_regens (h : Here) : (s.advance h).regens = s.regens := rfl
@[simp] theorem advance_peerGrants (h : Here) : (s.advance h).peerGrants = s.peerGrants := rfl
@[simp] theorem advance_raNext (h : Here) : (s.advance h).raNext = s.raNext := rfl
@[simp] theorem advance_raPeer (h : Here) : (s.advance h).raPeer = s.raPeer := rfl
@[simp] theorem advance_reqs (h : Here) : (s.advance h).reqs = s.reqs := rfl
@[simp] theorem advance_writes (h : Here) : (s.advance h).writes = s.writes := rfl
@[simp] theorem advance_locks (h : Here) : (s.advance h).locks = s.locks := rfl
@[simp] theorem advance_mem (h : Here) : (s.advance h).mem = s.mem := rfl
@[simp] theorem advance_tags (h : Here) : (s.advance h).tags = s.tags := rfl
@[simp] theorem advance_full (h : Here) : (s.advance h).full = s.full := rfl
@[simp] theorem advance_poison (h : Here) : (s.advance h).poison = s.poison := rfl
@[simp] theorem advance_ptes (h : Here) : (s.advance h).ptes = s.ptes := rfl
@[simp] theorem advance_pageTags (h : Here) : (s.advance h).pageTags = s.pageTags := rfl
@[simp] theorem advance_frames (h : Here) : (s.advance h).frames = s.frames := rfl
@[simp] theorem advance_badFrames (h : Here) : (s.advance h).badFrames = s.badFrames := rfl
@[simp] theorem advance_places (h : Here) : (s.advance h).places = s.places := rfl
@[simp] theorem advance_images (h : Here) : (s.advance h).images = s.images := rfl
@[simp] theorem advance_charges (h : Here) : (s.advance h).charges = s.charges := rfl
@[simp] theorem advance_orphans (h : Here) : (s.advance h).orphans = s.orphans := rfl
@[simp] theorem advance_cores (h : Here) : (s.advance h).cores = s.cores := rfl
@[simp] theorem advance_tlb2 (h : Here) : (s.advance h).tlb2 = s.tlb2 := rfl
@[simp] theorem advance_walks (h : Here) : (s.advance h).walks = s.walks := rfl
@[simp] theorem advance_shoots (h : Here) : (s.advance h).shoots = s.shoots := rfl
@[simp] theorem advance_blocks (h : Here) : (s.advance h).blocks = tmod s.blocks h.uid fun b => { b with warps := tmod b.warps h.w Warp.advance } := rfl
@[simp] theorem advance_clusters (h : Here) : (s.advance h).clusters = s.clusters := rfl
@[simp] theorem advance_grids (h : Here) : (s.advance h).grids = s.grids := rfl
@[simp] theorem advance_graphs (h : Here) : (s.advance h).graphs = s.graphs := rfl
@[simp] theorem advance_pushes (h : Here) : (s.advance h).pushes = s.pushes := rfl
@[simp] theorem advance_ops (h : Here) : (s.advance h).ops = s.ops := rfl
@[simp] theorem advance_rowSets (h : Here) : (s.advance h).rowSets = s.rowSets := rfl
@[simp] theorem advance_rows (h : Here) : (s.advance h).rows = s.rows := rfl
@[simp] theorem advance_redcs (h : Here) : (s.advance h).redcs = s.redcs := rfl
@[simp] theorem advance_contribs (h : Here) : (s.advance h).contribs = s.contribs := rfl
@[simp] theorem advance_colls (h : Here) : (s.advance h).colls = s.colls := rfl
@[simp] theorem advance_faultQ (h : Here) : (s.advance h).faultQ = s.faultQ := rfl
@[simp] theorem advance_merges (h : Here) : (s.advance h).merges = s.merges := rfl
@[simp] theorem advance_chans (h : Here) : (s.advance h).chans = s.chans := rfl
@[simp] theorem advance_defects (h : Here) : (s.advance h).defects = s.defects := rfl
@[simp] theorem advance_badAdders (h : Here) : (s.advance h).badAdders = s.badAdders := rfl
@[simp] theorem advance_padOut (h : Here) : (s.advance h).padOut = s.padOut := rfl

@[simp] theorem seqAdvance_fresh (h : SHere) : (s.seqAdvance h).fresh = s.fresh := rfl
@[simp] theorem seqAdvance_agenda (h : SHere) : (s.seqAdvance h).agenda = s.agenda := rfl
@[simp] theorem seqAdvance_schedule (h : SHere) : (s.seqAdvance h).schedule = s.schedule := rfl
@[simp] theorem seqAdvance_cur (h : SHere) : (s.seqAdvance h).cur = s.cur := rfl
@[simp] theorem seqAdvance_underway (h : SHere) : (s.seqAdvance h).underway = s.underway := rfl
@[simp] theorem seqAdvance_lastUnit (h : SHere) : (s.seqAdvance h).lastUnit = s.lastUnit := rfl
@[simp] theorem seqAdvance_lastSlots (h : SHere) : (s.seqAdvance h).lastSlots = s.lastSlots := rfl
@[simp] theorem seqAdvance_lastStarts (h : SHere) : (s.seqAdvance h).lastStarts = s.lastStarts := rfl
@[simp] theorem seqAdvance_lastTimer (h : SHere) : (s.seqAdvance h).lastTimer = s.lastTimer := rfl
@[simp] theorem seqAdvance_turns (h : SHere) : (s.seqAdvance h).turns = s.turns := rfl
@[simp] theorem seqAdvance_next (h : SHere) : (s.seqAdvance h).next = s.next := rfl
@[simp] theorem seqAdvance_pkg (h : SHere) : (s.seqAdvance h).pkg = s.pkg := rfl
@[simp] theorem seqAdvance_out (h : SHere) : (s.seqAdvance h).out = s.out := rfl
@[simp] theorem seqAdvance_portOut (h : SHere) : (s.seqAdvance h).portOut = s.portOut := rfl
@[simp] theorem seqAdvance_peerOut (h : SHere) : (s.seqAdvance h).peerOut = s.peerOut := rfl
@[simp] theorem seqAdvance_fns (h : SHere) : (s.seqAdvance h).fns = s.fns := rfl
@[simp] theorem seqAdvance_lastFn (h : SHere) : (s.seqAdvance h).lastFn = s.lastFn := rfl
@[simp] theorem seqAdvance_ctxs (h : SHere) : (s.seqAdvance h).ctxs = s.ctxs := rfl
@[simp] theorem seqAdvance_peerKeys (h : SHere) : (s.seqAdvance h).peerKeys = s.peerKeys := rfl
@[simp] theorem seqAdvance_gens (h : SHere) : (s.seqAdvance h).gens = s.gens := rfl
@[simp] theorem seqAdvance_queues (h : SHere) : (s.seqAdvance h).queues = s.queues := rfl
@[simp] theorem seqAdvance_levelPtr (h : SHere) : (s.seqAdvance h).levelPtr = s.levelPtr := rfl
@[simp] theorem seqAdvance_engines (h : SHere) : (s.seqAdvance h).engines = s.engines := rfl
@[simp] theorem seqAdvance_rops (h : SHere) : (s.seqAdvance h).rops = s.rops := rfl
@[simp] theorem seqAdvance_versions (h : SHere) : (s.seqAdvance h).versions = s.versions := rfl
@[simp] theorem seqAdvance_filled (h : SHere) : (s.seqAdvance h).filled = s.filled := rfl
@[simp] theorem seqAdvance_regens (h : SHere) : (s.seqAdvance h).regens = s.regens := rfl
@[simp] theorem seqAdvance_peerGrants (h : SHere) : (s.seqAdvance h).peerGrants = s.peerGrants := rfl
@[simp] theorem seqAdvance_raNext (h : SHere) : (s.seqAdvance h).raNext = s.raNext := rfl
@[simp] theorem seqAdvance_raPeer (h : SHere) : (s.seqAdvance h).raPeer = s.raPeer := rfl
@[simp] theorem seqAdvance_reqs (h : SHere) : (s.seqAdvance h).reqs = s.reqs := rfl
@[simp] theorem seqAdvance_writes (h : SHere) : (s.seqAdvance h).writes = s.writes := rfl
@[simp] theorem seqAdvance_locks (h : SHere) : (s.seqAdvance h).locks = s.locks := rfl
@[simp] theorem seqAdvance_mem (h : SHere) : (s.seqAdvance h).mem = s.mem := rfl
@[simp] theorem seqAdvance_tags (h : SHere) : (s.seqAdvance h).tags = s.tags := rfl
@[simp] theorem seqAdvance_full (h : SHere) : (s.seqAdvance h).full = s.full := rfl
@[simp] theorem seqAdvance_poison (h : SHere) : (s.seqAdvance h).poison = s.poison := rfl
@[simp] theorem seqAdvance_ptes (h : SHere) : (s.seqAdvance h).ptes = s.ptes := rfl
@[simp] theorem seqAdvance_pageTags (h : SHere) : (s.seqAdvance h).pageTags = s.pageTags := rfl
@[simp] theorem seqAdvance_frames (h : SHere) : (s.seqAdvance h).frames = s.frames := rfl
@[simp] theorem seqAdvance_badFrames (h : SHere) : (s.seqAdvance h).badFrames = s.badFrames := rfl
@[simp] theorem seqAdvance_places (h : SHere) : (s.seqAdvance h).places = s.places := rfl
@[simp] theorem seqAdvance_images (h : SHere) : (s.seqAdvance h).images = s.images := rfl
@[simp] theorem seqAdvance_charges (h : SHere) : (s.seqAdvance h).charges = s.charges := rfl
@[simp] theorem seqAdvance_orphans (h : SHere) : (s.seqAdvance h).orphans = s.orphans := rfl
@[simp] theorem seqAdvance_cores (h : SHere) : (s.seqAdvance h).cores = s.cores := rfl
@[simp] theorem seqAdvance_tlb2 (h : SHere) : (s.seqAdvance h).tlb2 = s.tlb2 := rfl
@[simp] theorem seqAdvance_walks (h : SHere) : (s.seqAdvance h).walks = s.walks := rfl
@[simp] theorem seqAdvance_shoots (h : SHere) : (s.seqAdvance h).shoots = s.shoots := rfl
@[simp] theorem seqAdvance_blocks (h : SHere) : (s.seqAdvance h).blocks = tmod s.blocks h.uid fun b => { b with seq := b.seq.advance } := rfl
@[simp] theorem seqAdvance_clusters (h : SHere) : (s.seqAdvance h).clusters = s.clusters := rfl
@[simp] theorem seqAdvance_grids (h : SHere) : (s.seqAdvance h).grids = s.grids := rfl
@[simp] theorem seqAdvance_graphs (h : SHere) : (s.seqAdvance h).graphs = s.graphs := rfl
@[simp] theorem seqAdvance_pushes (h : SHere) : (s.seqAdvance h).pushes = s.pushes := rfl
@[simp] theorem seqAdvance_ops (h : SHere) : (s.seqAdvance h).ops = s.ops := rfl
@[simp] theorem seqAdvance_rowSets (h : SHere) : (s.seqAdvance h).rowSets = s.rowSets := rfl
@[simp] theorem seqAdvance_rows (h : SHere) : (s.seqAdvance h).rows = s.rows := rfl
@[simp] theorem seqAdvance_redcs (h : SHere) : (s.seqAdvance h).redcs = s.redcs := rfl
@[simp] theorem seqAdvance_contribs (h : SHere) : (s.seqAdvance h).contribs = s.contribs := rfl
@[simp] theorem seqAdvance_colls (h : SHere) : (s.seqAdvance h).colls = s.colls := rfl
@[simp] theorem seqAdvance_faultQ (h : SHere) : (s.seqAdvance h).faultQ = s.faultQ := rfl
@[simp] theorem seqAdvance_merges (h : SHere) : (s.seqAdvance h).merges = s.merges := rfl
@[simp] theorem seqAdvance_chans (h : SHere) : (s.seqAdvance h).chans = s.chans := rfl
@[simp] theorem seqAdvance_defects (h : SHere) : (s.seqAdvance h).defects = s.defects := rfl
@[simp] theorem seqAdvance_badAdders (h : SHere) : (s.seqAdvance h).badAdders = s.badAdders := rfl
@[simp] theorem seqAdvance_padOut (h : SHere) : (s.seqAdvance h).padOut = s.padOut := rfl

@[simp] theorem takeId_fst : s.takeId.1 = s.next := rfl
@[simp] theorem takeId_fresh : s.takeId.2.fresh = s.fresh := rfl
@[simp] theorem takeId_agenda : s.takeId.2.agenda = s.agenda := rfl
@[simp] theorem takeId_schedule : s.takeId.2.schedule = s.schedule := rfl
@[simp] theorem takeId_cur : s.takeId.2.cur = s.cur := rfl
@[simp] theorem takeId_underway : s.takeId.2.underway = s.underway := rfl
@[simp] theorem takeId_lastUnit : s.takeId.2.lastUnit = s.lastUnit := rfl
@[simp] theorem takeId_lastSlots : s.takeId.2.lastSlots = s.lastSlots := rfl
@[simp] theorem takeId_lastStarts : s.takeId.2.lastStarts = s.lastStarts := rfl
@[simp] theorem takeId_lastTimer : s.takeId.2.lastTimer = s.lastTimer := rfl
@[simp] theorem takeId_turns : s.takeId.2.turns = s.turns := rfl
@[simp] theorem takeId_next : s.takeId.2.next = s.next + 1 := rfl
@[simp] theorem takeId_pkg : s.takeId.2.pkg = s.pkg := rfl
@[simp] theorem takeId_out : s.takeId.2.out = s.out := rfl
@[simp] theorem takeId_portOut : s.takeId.2.portOut = s.portOut := rfl
@[simp] theorem takeId_peerOut : s.takeId.2.peerOut = s.peerOut := rfl
@[simp] theorem takeId_fns : s.takeId.2.fns = s.fns := rfl
@[simp] theorem takeId_lastFn : s.takeId.2.lastFn = s.lastFn := rfl
@[simp] theorem takeId_ctxs : s.takeId.2.ctxs = s.ctxs := rfl
@[simp] theorem takeId_peerKeys : s.takeId.2.peerKeys = s.peerKeys := rfl
@[simp] theorem takeId_gens : s.takeId.2.gens = s.gens := rfl
@[simp] theorem takeId_queues : s.takeId.2.queues = s.queues := rfl
@[simp] theorem takeId_levelPtr : s.takeId.2.levelPtr = s.levelPtr := rfl
@[simp] theorem takeId_engines : s.takeId.2.engines = s.engines := rfl
@[simp] theorem takeId_rops : s.takeId.2.rops = s.rops := rfl
@[simp] theorem takeId_versions : s.takeId.2.versions = s.versions := rfl
@[simp] theorem takeId_filled : s.takeId.2.filled = s.filled := rfl
@[simp] theorem takeId_regens : s.takeId.2.regens = s.regens := rfl
@[simp] theorem takeId_peerGrants : s.takeId.2.peerGrants = s.peerGrants := rfl
@[simp] theorem takeId_raNext : s.takeId.2.raNext = s.raNext := rfl
@[simp] theorem takeId_raPeer : s.takeId.2.raPeer = s.raPeer := rfl
@[simp] theorem takeId_reqs : s.takeId.2.reqs = s.reqs := rfl
@[simp] theorem takeId_writes : s.takeId.2.writes = s.writes := rfl
@[simp] theorem takeId_locks : s.takeId.2.locks = s.locks := rfl
@[simp] theorem takeId_mem : s.takeId.2.mem = s.mem := rfl
@[simp] theorem takeId_tags : s.takeId.2.tags = s.tags := rfl
@[simp] theorem takeId_full : s.takeId.2.full = s.full := rfl
@[simp] theorem takeId_poison : s.takeId.2.poison = s.poison := rfl
@[simp] theorem takeId_ptes : s.takeId.2.ptes = s.ptes := rfl
@[simp] theorem takeId_pageTags : s.takeId.2.pageTags = s.pageTags := rfl
@[simp] theorem takeId_frames : s.takeId.2.frames = s.frames := rfl
@[simp] theorem takeId_badFrames : s.takeId.2.badFrames = s.badFrames := rfl
@[simp] theorem takeId_places : s.takeId.2.places = s.places := rfl
@[simp] theorem takeId_images : s.takeId.2.images = s.images := rfl
@[simp] theorem takeId_charges : s.takeId.2.charges = s.charges := rfl
@[simp] theorem takeId_orphans : s.takeId.2.orphans = s.orphans := rfl
@[simp] theorem takeId_cores : s.takeId.2.cores = s.cores := rfl
@[simp] theorem takeId_tlb2 : s.takeId.2.tlb2 = s.tlb2 := rfl
@[simp] theorem takeId_walks : s.takeId.2.walks = s.walks := rfl
@[simp] theorem takeId_shoots : s.takeId.2.shoots = s.shoots := rfl
@[simp] theorem takeId_blocks : s.takeId.2.blocks = s.blocks := rfl
@[simp] theorem takeId_clusters : s.takeId.2.clusters = s.clusters := rfl
@[simp] theorem takeId_grids : s.takeId.2.grids = s.grids := rfl
@[simp] theorem takeId_graphs : s.takeId.2.graphs = s.graphs := rfl
@[simp] theorem takeId_pushes : s.takeId.2.pushes = s.pushes := rfl
@[simp] theorem takeId_ops : s.takeId.2.ops = s.ops := rfl
@[simp] theorem takeId_rowSets : s.takeId.2.rowSets = s.rowSets := rfl
@[simp] theorem takeId_rows : s.takeId.2.rows = s.rows := rfl
@[simp] theorem takeId_redcs : s.takeId.2.redcs = s.redcs := rfl
@[simp] theorem takeId_contribs : s.takeId.2.contribs = s.contribs := rfl
@[simp] theorem takeId_colls : s.takeId.2.colls = s.colls := rfl
@[simp] theorem takeId_faultQ : s.takeId.2.faultQ = s.faultQ := rfl
@[simp] theorem takeId_merges : s.takeId.2.merges = s.merges := rfl
@[simp] theorem takeId_chans : s.takeId.2.chans = s.chans := rfl
@[simp] theorem takeId_defects : s.takeId.2.defects = s.defects := rfl
@[simp] theorem takeId_badAdders : s.takeId.2.badAdders = s.badAdders := rfl
@[simp] theorem takeId_padOut : s.takeId.2.padOut = s.padOut := rfl

@[simp] theorem takeFresh_fst : s.takeFresh.1 = s.fresh := rfl
@[simp] theorem takeFresh_fresh : s.takeFresh.2.fresh = s.fresh + 1 := rfl
@[simp] theorem takeFresh_agenda : s.takeFresh.2.agenda = s.agenda := rfl
@[simp] theorem takeFresh_schedule : s.takeFresh.2.schedule = s.schedule := rfl
@[simp] theorem takeFresh_cur : s.takeFresh.2.cur = s.cur := rfl
@[simp] theorem takeFresh_underway : s.takeFresh.2.underway = s.underway := rfl
@[simp] theorem takeFresh_lastUnit : s.takeFresh.2.lastUnit = s.lastUnit := rfl
@[simp] theorem takeFresh_lastSlots : s.takeFresh.2.lastSlots = s.lastSlots := rfl
@[simp] theorem takeFresh_lastStarts : s.takeFresh.2.lastStarts = s.lastStarts := rfl
@[simp] theorem takeFresh_lastTimer : s.takeFresh.2.lastTimer = s.lastTimer := rfl
@[simp] theorem takeFresh_turns : s.takeFresh.2.turns = s.turns := rfl
@[simp] theorem takeFresh_next : s.takeFresh.2.next = s.next := rfl
@[simp] theorem takeFresh_pkg : s.takeFresh.2.pkg = s.pkg := rfl
@[simp] theorem takeFresh_out : s.takeFresh.2.out = s.out := rfl
@[simp] theorem takeFresh_portOut : s.takeFresh.2.portOut = s.portOut := rfl
@[simp] theorem takeFresh_peerOut : s.takeFresh.2.peerOut = s.peerOut := rfl
@[simp] theorem takeFresh_fns : s.takeFresh.2.fns = s.fns := rfl
@[simp] theorem takeFresh_lastFn : s.takeFresh.2.lastFn = s.lastFn := rfl
@[simp] theorem takeFresh_ctxs : s.takeFresh.2.ctxs = s.ctxs := rfl
@[simp] theorem takeFresh_peerKeys : s.takeFresh.2.peerKeys = s.peerKeys := rfl
@[simp] theorem takeFresh_gens : s.takeFresh.2.gens = s.gens := rfl
@[simp] theorem takeFresh_queues : s.takeFresh.2.queues = s.queues := rfl
@[simp] theorem takeFresh_levelPtr : s.takeFresh.2.levelPtr = s.levelPtr := rfl
@[simp] theorem takeFresh_engines : s.takeFresh.2.engines = s.engines := rfl
@[simp] theorem takeFresh_rops : s.takeFresh.2.rops = s.rops := rfl
@[simp] theorem takeFresh_versions : s.takeFresh.2.versions = s.versions := rfl
@[simp] theorem takeFresh_filled : s.takeFresh.2.filled = s.filled := rfl
@[simp] theorem takeFresh_regens : s.takeFresh.2.regens = s.regens := rfl
@[simp] theorem takeFresh_peerGrants : s.takeFresh.2.peerGrants = s.peerGrants := rfl
@[simp] theorem takeFresh_raNext : s.takeFresh.2.raNext = s.raNext := rfl
@[simp] theorem takeFresh_raPeer : s.takeFresh.2.raPeer = s.raPeer := rfl
@[simp] theorem takeFresh_reqs : s.takeFresh.2.reqs = s.reqs := rfl
@[simp] theorem takeFresh_writes : s.takeFresh.2.writes = s.writes := rfl
@[simp] theorem takeFresh_locks : s.takeFresh.2.locks = s.locks := rfl
@[simp] theorem takeFresh_mem : s.takeFresh.2.mem = s.mem := rfl
@[simp] theorem takeFresh_tags : s.takeFresh.2.tags = s.tags := rfl
@[simp] theorem takeFresh_full : s.takeFresh.2.full = s.full := rfl
@[simp] theorem takeFresh_poison : s.takeFresh.2.poison = s.poison := rfl
@[simp] theorem takeFresh_ptes : s.takeFresh.2.ptes = s.ptes := rfl
@[simp] theorem takeFresh_pageTags : s.takeFresh.2.pageTags = s.pageTags := rfl
@[simp] theorem takeFresh_frames : s.takeFresh.2.frames = s.frames := rfl
@[simp] theorem takeFresh_badFrames : s.takeFresh.2.badFrames = s.badFrames := rfl
@[simp] theorem takeFresh_places : s.takeFresh.2.places = s.places := rfl
@[simp] theorem takeFresh_images : s.takeFresh.2.images = s.images := rfl
@[simp] theorem takeFresh_charges : s.takeFresh.2.charges = s.charges := rfl
@[simp] theorem takeFresh_orphans : s.takeFresh.2.orphans = s.orphans := rfl
@[simp] theorem takeFresh_cores : s.takeFresh.2.cores = s.cores := rfl
@[simp] theorem takeFresh_tlb2 : s.takeFresh.2.tlb2 = s.tlb2 := rfl
@[simp] theorem takeFresh_walks : s.takeFresh.2.walks = s.walks := rfl
@[simp] theorem takeFresh_shoots : s.takeFresh.2.shoots = s.shoots := rfl
@[simp] theorem takeFresh_blocks : s.takeFresh.2.blocks = s.blocks := rfl
@[simp] theorem takeFresh_clusters : s.takeFresh.2.clusters = s.clusters := rfl
@[simp] theorem takeFresh_grids : s.takeFresh.2.grids = s.grids := rfl
@[simp] theorem takeFresh_graphs : s.takeFresh.2.graphs = s.graphs := rfl
@[simp] theorem takeFresh_pushes : s.takeFresh.2.pushes = s.pushes := rfl
@[simp] theorem takeFresh_ops : s.takeFresh.2.ops = s.ops := rfl
@[simp] theorem takeFresh_rowSets : s.takeFresh.2.rowSets = s.rowSets := rfl
@[simp] theorem takeFresh_rows : s.takeFresh.2.rows = s.rows := rfl
@[simp] theorem takeFresh_redcs : s.takeFresh.2.redcs = s.redcs := rfl
@[simp] theorem takeFresh_contribs : s.takeFresh.2.contribs = s.contribs := rfl
@[simp] theorem takeFresh_colls : s.takeFresh.2.colls = s.colls := rfl
@[simp] theorem takeFresh_faultQ : s.takeFresh.2.faultQ = s.faultQ := rfl
@[simp] theorem takeFresh_merges : s.takeFresh.2.merges = s.merges := rfl
@[simp] theorem takeFresh_chans : s.takeFresh.2.chans = s.chans := rfl
@[simp] theorem takeFresh_defects : s.takeFresh.2.defects = s.defects := rfl
@[simp] theorem takeFresh_badAdders : s.takeFresh.2.badAdders = s.badAdders := rfl
@[simp] theorem takeFresh_padOut : s.takeFresh.2.padOut = s.padOut := rfl

end Sys2Proof.Machine.State
end

