-- ==== Sys2Proof/Tests/Crypto0.lean ====
section
/-! SUPPORT. The published examples of the algorithms that the spec names (R31, R32, R96), and the worked size of a save frame (R128). -/

namespace Sys2Proof.Tests

set_option Elab.async false

open Sys2Proof Sys2Proof.Machine

/-- A number as `n` bytes, most significant first. -/
def bytesBe (n x : Nat) : List Nat := (natLe n x).reverse.map BitVec.toNat

/-- FIPS 180-4's example "abc". -/
theorem test_sha384_abc : beNat (sha384 [0x61, 0x62, 0x63]) =
    0xcb00753f45a35e8bb5a03d699ac65007272c32ab0eded1631a8b605a43ff5bed8086072ba1e7cc2358baeca134c825a7 := by decide +kernel

/-- An example of NIST SP 800-38B for a 256-bit key: one block. -/
theorem test_cmac_block : Aes.cmac (bytesBe 32 0x603deb1015ca71be2b73aef0857d77811f352c073b6108d72d9810a30914dff4)
    (bytesBe 16 0x6bc1bee22e409f96e93d7e117393172a) = bytesBe 16 0x28a7023f452e8f82bd4bf28d8c37c35c := by decide +kernel

/-- IEEE 1619, vector 10: the first block of the data unit 0xFF. -/
theorem test_xts : (Aes.xtsLine (Aes.roundKeys (bytesBe 32 0x2718281828459045235360287471352662497757247093699959574966967627))
    (Aes.roundKeys (bytesBe 32 0x3141592653589793238462643383279502884197169399375105820974944592)) 0xFF (List.range 16)) =
    bytesBe 16 0x1c3b3a102f770386e4836c99e370cf9b := by decide +kernel

/-- R128: 4 warps, VREGS 8, 2 tiles, 64 KiB of scratchpad: 253,440 bytes. -/
theorem test_frame_bytes : frameBytes { Rec.probe with warps := 4, vregs := 8, ztiles := 2, scratch := 65536, cscratch := 0 } 0 2 0 = 253440 := by decide

/-- R143: the word of a barrier whose PHASE is 1, EXPECT 33 and ARRIVED 5. -/
theorem test_barrier_word : Bar.word ⟨true, 33, 5⟩ = 0x80010805 := by decide

end Sys2Proof.Tests
end

