-- ==== Sys2Proof/Tests/Decode0.lean ====
section
/-! SUPPORT. Words written out field by field from the spec's encoding tables (R247 to R258, R262, R281, R299, R317, R336, R361),
each with the instruction it stands for: one word at least for every instruction of the opcode table. -/

namespace Sys2Proof.Tests

set_option Elab.async false

open Sys2Proof

/-- A word by its fields: the lowest bit of each and its value. -/
def word (opc : Nat) (fs : List (Nat × Nat)) : W64 := BitVec.ofNat 64 (fs.foldl (fun n f => n + f.2 * 2 ^ f.1) (opc * 2 ^ 54))

/-- Whether a word of the lane stream (`false`) or of the sequencer's (`true`) decodes to an instruction. -/
def reads (sq : Bool) (w : W64) (i : Instr) : Bool :=
  match decode sq w with
  | .ok j => decide (j = i)
  | .error _ => false

/-- Whether a word is refused. -/
def refuses (sq : Bool) (w : W64) : Bool :=
  match decode sq w with
  | .ok _ => false
  | .error _ => true

/-- Pairs of a word and its instruction. -/
def allRead (sq : Bool) (xs : List (W64 × Instr)) : Bool := xs.all fun x => reads sq x.1 x.2

/-- No guard: NEG 0, PRED 7 (R247). -/
def g7 : Guard := ⟨false, 7⟩
/-- No lookahead and no counter. -/
def l0 : Lat := ⟨0, none⟩
/-- Lookahead 4 and counter d3. -/
def l43 : Lat := ⟨4, some 3⟩

/-! ### The spec's worked encodings -/

theorem test_worked_lane : allRead false
    [(0x075C0140000000A0, .movi g7 .x32 5 2), (0x041C008041401800, .shl g7 .n32 2 1 5),
     (0x801CC20100102711, .ld g7 ⟨3, some 2⟩ .b32 .nc .pkg .none 8 4 64), (0x009C010000805800, .iaddc g7 false none 1 4 0 2),
     (0x009C014040D25800, .iaddc g7 false (some 1) 1 5 1 3), (0x289C830280002440, .sqrt g7 ⟨2, some 0⟩ .rne 12 10),
     (0x601C000000000040, .bra g7 1), (0x61DC0000C0000001, .waitm g7 3 true), (0x83DC008080002440, .stPriv g7 l0 2 2 0),
     (0x821C028103122700, .atom g7 l0 .cas .b32 .pkg 10 4 12)] = true := by decide

theorem test_worked_stores : allRead false
    [(0x82DC000000000102, .fence g7 .rel .pkg), (0x8054040700003700, .st ⟨false, 5⟩ l0 .b128 .nc .pkg .none 16 28 0),
     (0x0818000303C02000, .vwr ⟨false, 6⟩ 12 15), (0xE0DC0401C0000000, .srd g7 .tpc 16), (0xE05C000000000000, .tret g7),
     (0x0688004001401800, .icmp ⟨false, 2⟩ .eq .n32 1 0 5), (0x075C0140000001E0, .movi g7 .x32 5 7)] = true := by decide

theorem test_worked_sequencer : allRead true
    [(0xC09C051400000401, .sadd 5 5 (.imm 8)), (0xC49C000C000BF1C8, .ldq ⟨0, some 1⟩ .line false .own .die 2 3 63),
     (0xCC1C091060000C59, .announce ⟨0, some 3⟩ true false 9 4 6 24), (0xB19C0028B0200448, .mmasE4m3E4m3 ⟨0, some 1⟩ false 0 10 11 128 2),
     (0xCC5C1010A0001558, .withdraw ⟨0, some 3⟩ 16 4 10 42), (0xCCDC1010B0001558, .migrate ⟨0, some 3⟩ 16 4 11 42),
     (0xB4DC0A1512670000, .saread l0 false .bf16 false true .cluster 28 5 17 9)] = true := by decide

/-! ### One word for every instruction -/

/-- R262: the integer and logic opcodes. -/
theorem test_decode_integer : allRead false
    [(word 0x000 [(50, 11), (38, 255), (30, 254), (22, 253), (10, 1), (7, 1)], .iadd ⟨true, 3⟩ .i16 true 255 254 253),
     (word 0x001 [(50, 7), (38, 2), (30, 4), (22, 6), (10, 7)], .isub g7 .n64 false 2 4 6),
     (word 0x002 [(50, 7), (38, 4), (30, 5), (22, 6), (14, 90), (10, 6), (0, 1)], .iaddc g7 true (some 3) 2 4 5 6),
     (word 0x003 [(50, 7), (38, 1), (30, 2), (22, 3), (10, 4)], .imul g7 .n8 1 2 3),
     (word 0x004 [(50, 7), (38, 2), (30, 4), (22, 6), (10, 3)], .imulh g7 .i64 2 4 6),
     (word 0x005 [(50, 7), (38, 1), (30, 2), (22, 3), (14, 4)], .imad g7 .i8 1 2 3 4),
     (word 0x006 [(50, 7), (38, 2), (30, 3), (22, 5), (14, 8), (10, 2)], .imadw g7 .i32 2 3 5 8),
     (word 0x007 [(50, 7), (38, 1), (30, 2), (22, 3), (10, 2)], .imin g7 .i32 1 2 3),
     (word 0x008 [(50, 7), (38, 1), (30, 2), (22, 3), (10, 5)], .imax g7 .n16 1 2 3),
     (word 0x009 [(50, 7), (38, 2), (30, 4), (10, 3), (7, 1)], .iabs g7 .i64 true 2 4),
     (word 0x00A [(50, 7), (38, 1), (30, 2)], .ineg g7 .i8 false 1 2),
     (word 0x00B [(50, 7), (38, 1), (30, 2), (22, 3), (10, 8)], .and g7 .x32 1 2 3),
     (word 0x00C [(50, 7), (38, 2), (30, 4), (22, 6), (10, 7)], .or g7 .n64 2 4 6),
     (word 0x00D [(50, 7), (38, 1), (30, 2), (22, 3), (10, 8)], .xor g7 .x32 1 2 3),
     (word 0x00E [(50, 7), (38, 1), (30, 2), (10, 8)], .not g7 .x32 1 2),
     (word 0x00F [(50, 7), (38, 1), (30, 2), (22, 3), (14, 232), (10, 8)], .lop3 g7 0xE8 1 2 3)] = true := by decide

/-- R262: the shifts, fields, counts, compares, moves and addresses. -/
theorem test_decode_shift : allRead false
    [(word 0x010 [(50, 7), (38, 2), (30, 4), (22, 5), (10, 7)], .shl g7 .n64 2 4 5),
     (word 0x011 [(50, 7), (38, 1), (30, 2), (22, 3), (10, 6)], .shr g7 .n32 1 2 3),
     (word 0x012 [(50, 7), (38, 1), (30, 2), (22, 3), (10, 2)], .sar g7 .i32 1 2 3),
     (word 0x013 [(50, 7), (38, 1), (30, 2), (22, 3), (14, 4), (10, 8), (0, 1)], .fshl g7 true 1 2 3 4),
     (word 0x014 [(50, 7), (38, 1), (30, 2), (22, 3), (14, 4), (10, 8)], .fshr g7 false 1 2 3 4),
     (word 0x015 [(50, 7), (38, 1), (30, 2), (22, 3), (10, 2)], .bfe g7 .i32 1 2 3),
     (word 0x016 [(50, 7), (38, 1), (30, 2), (22, 3), (14, 4), (10, 8)], .bfi g7 .x32 1 2 3 4),
     (word 0x017 [(50, 7), (38, 1), (30, 2), (10, 7)], .popc g7 .n64 1 2),
     (word 0x018 [(50, 7), (38, 1), (30, 3), (10, 8)], .clz g7 .x32 1 3),
     (word 0x019 [(50, 7), (38, 1), (30, 3), (10, 8)], .brev g7 .x32 1 3),
     (word 0x01A [(50, 7), (38, 5), (30, 2), (22, 4), (10, 3), (0, 3)], .icmp g7 .le .i64 5 2 4),
     (word 0x01B [(50, 7), (38, 1), (30, 2), (22, 3), (14, 6), (10, 8)], .sel g7 .x32 1 2 3 6),
     (word 0x01C [(50, 7), (38, 2), (30, 4), (10, 7)], .mov g7 .n64 2 4),
     (word 0x01D [(50, 7), (38, 8), (6, 4294967295), (2, 3)], .movi g7 .i64 8 0xFFFFFFFF),
     (word 0x01E [(50, 7), (38, 2), (30, 4), (22, 5), (14, 31), (10, 6)], .lea g7 .n32 2 4 5 31),
     (word 0x01F [(50, 7), (38, 1), (30, 2), (10, 8)], .vrd g7 1 2),
     (word 0x020 [(50, 7), (30, 2), (22, 3), (10, 8)], .vwr g7 2 3)] = true := by decide

/-- R277, R279, R280: conversions, with the source type in SC. -/
theorem test_decode_conversion : allRead false
    [(word 0x100 [(50, 7), (38, 1), (30, 2), (14, 9), (10, 2), (8, 1)], .cvt g7 l0 .i32 .f32 .rtz false 1 2),
     (word 0x100 [(50, 7), (46, 4), (38, 1), (30, 2), (14, 9), (10, 13), (7, 1), (6, 1), (3, 3)], .cvt g7 l43 .e5m2 .f32 .rne true 1 2),
     (word 0x101 [(50, 7), (46, 4), (38, 1), (30, 2), (22, 3), (14, 9), (10, 12), (6, 1), (3, 3), (0, 1)], .pack g7 l43 .e4m3 .f32 .rne false true 1 2 3),
     (word 0x101 [(50, 7), (38, 1), (30, 2), (22, 3), (14, 2), (10, 5), (7, 1)], .pack g7 l0 .n16 .i32 .rne true false 1 2 3),
     (word 0x102 [(50, 7), (38, 1), (30, 2), (10, 2), (0, 3)], .unpack g7 l0 .i32 .i8 3 1 2)] = true := by decide

/-- R281: the floating-point opcodes. -/
theorem test_decode_float : allRead false
    [(word 0x080 [(50, 7), (38, 1), (30, 2), (22, 3), (10, 9), (8, 3)], .fadd g7 .rdn 1 2 3),
     (word 0x081 [(50, 7), (38, 1), (30, 2), (22, 3), (10, 9), (8, 2)], .fsub g7 .rup 1 2 3),
     (word 0x082 [(50, 7), (38, 1), (30, 2), (22, 3), (10, 9), (8, 1)], .fmul g7 .rtz 1 2 3),
     (word 0x083 [(50, 7), (38, 1), (30, 2), (22, 3), (14, 4), (10, 9)], .ffma g7 .rne 1 2 3 4),
     (word 0x084 [(50, 7), (38, 1), (30, 2), (22, 3), (10, 9), (0, 1)], .fmin g7 true 1 2 3),
     (word 0x085 [(50, 7), (38, 1), (30, 2), (22, 3), (10, 9)], .fmax g7 false 1 2 3),
     (word 0x086 [(50, 7), (38, 5), (30, 2), (22, 3), (10, 9), (0, 7)], .fcmp g7 .or 5 2 3),
     (word 0x087 [(50, 7), (38, 1), (30, 2), (10, 10)], .fclass g7 .f16 1 2),
     (word 0x088 [(50, 7), (38, 1), (30, 2), (10, 9), (8, 2)], .frnd g7 .rup 1 2),
     (word 0x089 [(50, 7), (38, 1), (30, 2), (22, 3), (10, 9)], .fscale g7 .rne 1 2 3),
     (word 0x08A [(50, 7), (38, 1), (30, 2), (22, 3), (10, 11), (7, 1)], .hadd2 g7 .bf16 .rne true 1 2 3),
     (word 0x08B [(50, 7), (38, 1), (30, 2), (22, 3), (10, 10), (8, 1)], .hmul2 g7 .f16 .rtz false 1 2 3),
     (word 0x08C [(50, 7), (38, 1), (30, 2), (22, 3), (14, 4), (10, 10)], .hfma2 g7 .f16 .rne false 1 2 3 4),
     (word 0x08D [(50, 7), (38, 2), (30, 4), (22, 6), (10, 15)], .cmul g7 .rne 2 4 6),
     (word 0x08E [(50, 7), (38, 2), (30, 4), (22, 6), (14, 8), (10, 15), (8, 3)], .cfma g7 .rdn 2 4 6 8)] = true := by decide

/-- R281: the special-function opcodes, with lookahead 4 and counter d3. -/
theorem test_decode_special : allRead false
    [(word 0x0A0 [(50, 7), (46, 4), (38, 2), (30, 3), (10, 9), (8, 1), (6, 1), (3, 3)], .rcp g7 l43 .rtz 2 3),
     (word 0x0A1 [(50, 7), (46, 4), (38, 2), (30, 3), (10, 9), (8, 1), (6, 1), (3, 3)], .rsq g7 l43 .rtz 2 3),
     (word 0x0A2 [(50, 7), (46, 4), (38, 2), (30, 3), (10, 9), (8, 1), (6, 1), (3, 3)], .sqrt g7 l43 .rtz 2 3),
     (word 0x0A3 [(50, 7), (46, 4), (38, 2), (30, 3), (10, 9), (8, 1), (6, 1), (3, 3)], .exp2 g7 l43 .rtz 2 3),
     (word 0x0A4 [(50, 7), (46, 4), (38, 2), (30, 3), (10, 9), (8, 1), (6, 1), (3, 3)], .log2 g7 l43 .rtz 2 3),
     (word 0x0A5 [(50, 7), (46, 4), (38, 2), (30, 3), (10, 9), (8, 1), (6, 1), (3, 3)], .sinpi g7 l43 .rtz 2 3),
     (word 0x0A6 [(50, 7), (46, 4), (38, 2), (30, 3), (10, 9), (8, 1), (6, 1), (3, 3)], .cospi g7 l43 .rtz 2 3),
     (word 0x0A7 [(50, 7), (46, 4), (38, 2), (30, 3), (10, 9), (8, 1), (6, 1), (3, 3)], .sincospi g7 l43 .rtz 2 3),
     (word 0x0A8 [(50, 7), (46, 4), (38, 2), (30, 3), (10, 9), (8, 1), (6, 1), (3, 3)], .tanh g7 l43 .rtz 2 3)] = true := by decide

/-- R299: branches, masks and cross-lane instructions. -/
theorem test_decode_control : allRead false
    [(word 0x180 [(50, 10), (6, 4294967290)], .bra ⟨true, 2⟩ 0xFFFFFFFA),
     (word 0x181 [(50, 7), (30, 4)], .brx g7 4),
     (word 0x182 [(50, 7), (38, 6), (6, 5)], .call g7 6 5),
     (word 0x183 [(50, 7), (30, 6)], .ret g7 6),
     (word 0x184 [(50, 7)], .exit g7),
     (word 0x185 [(50, 7), (30, 3)], .join g7 3),
     (word 0x186 [(50, 7), (30, 11)], .leave g7 11),
     (word 0x187 [(50, 7), (30, 3)], .waitm g7 3 false),
     (word 0x188 [(50, 7), (38, 2), (30, 7)], .mset g7 2 7),
     (word 0x189 [(50, 7), (38, 1), (30, 2), (22, 3), (0, 3)], .mop g7 .andn 1 2 3),
     (word 0x189 [(50, 7), (38, 1), (0, 4)], .mop g7 .act 1 0 0),
     (word 0x18A [(50, 7), (38, 9), (30, 2)], .mget g7 9 2),
     (word 0x18B [(50, 7), (46, 4), (38, 9), (30, 5), (6, 1), (3, 3), (0, 1)], .ballot g7 l43 true 9 5),
     (word 0x18C [(50, 7), (38, 4), (30, 5), (0, 3)], .vote g7 l0 .agree 4 5),
     (word 0x18D [(50, 7), (38, 1), (30, 2), (10, 7)], .matchLanes g7 l0 .n64 1 2),
     (word 0x18E [(50, 7), (38, 1), (30, 2), (22, 3), (14, 5), (10, 8), (0, 2)], .shfl g7 l0 .down 5 1 2 3),
     (word 0x18F [(50, 7), (38, 1), (30, 2), (10, 9), (8, 1)], .redux g7 l0 .add .f32 .rtz 1 2),
     (word 0x190 [(50, 7), (38, 1), (30, 2), (14, 1), (10, 2), (0, 1)], .scan g7 l0 .min .i32 true .rne 1 2)] = true := by decide

/-- R299: traps and system instructions. -/
theorem test_decode_system : allRead false
    [(word 0x380 [(50, 7), (6, 4660)], .trap g7 0x1234),
     (word 0x381 [(50, 7)], .tret g7),
     (word 0x382 [(50, 7)], .bkpt g7),
     (word 0x383 [(50, 7), (38, 3), (30, 12)], .srd g7 .fflags 3),
     (word 0x384 [(50, 7), (30, 7), (22, 4)], .swr g7 .tpc 4),
     (word 0x385 [(50, 7)], .nop g7),
     (word 0x386 [(50, 7)], .yield g7),
     (word 0x387 [(50, 7)], .pdone g7),
     (word 0x388 [(50, 7), (6, 1)], .fetchb g7 true),
     (word 0x389 [(50, 7), (30, 4)], .icinv g7 false 4),
     (word 0x389 [(50, 7), (0, 1)], .icinv g7 true 0)] = true := by decide

/-- R317: loads, stores, atomics, fences and lane queues. -/
theorem test_decode_memory : allRead false
    [(word 0x200 [(50, 7), (38, 8), (30, 4), (14, 65520), (11, 1), (9, 1), (6, 5)], .ld g7 l0 .i8 .wt .dom .none 8 4 0xFFF0),
     (word 0x201 [(50, 7), (46, 4), (38, 8), (30, 4), (14, 16), (11, 6), (9, 2), (6, 6), (3, 3), (0, 1)], .st g7 l43 .b128 .si .sys .none 8 4 16),
     (word 0x202 [(50, 7), (38, 8), (30, 5), (14, 16), (11, 5), (6, 1), (1, 2)], .lds g7 l0 .b64 .take 8 5 16),
     (word 0x203 [(50, 7), (38, 8), (30, 5), (14, 16), (11, 2), (6, 1), (1, 3)], .sts g7 l0 .n16 .fill 8 5 16),
     (word 0x204 [(50, 7), (38, 8), (30, 5), (14, 16), (11, 3), (6, 2), (1, 1)], .ldc g7 l0 .i16 .keep 8 5 16),
     (word 0x205 [(50, 7), (38, 8), (30, 5), (14, 16), (11, 4), (6, 2)], .stc g7 l0 .b32 .none 8 5 16),
     (word 0x206 [(50, 7), (38, 8), (30, 5), (14, 16), (6, 2)], .ldp g7 l0 .n8 .none 8 5 16),
     (word 0x207 [(50, 7), (38, 8), (30, 5), (14, 16), (11, 4), (6, 2), (1, 3)], .stp g7 l0 .b32 .fill 8 5 16),
     (word 0x208 [(50, 7), (38, 10), (30, 4), (14, 3136), (11, 5), (9, 3), (6, 6)], .atom g7 l0 .exch .b64 .sys 10 4 12),
     (word 0x209 [(50, 7), (38, 10), (30, 5), (14, 3152), (11, 4), (6, 1)], .atoms g7 l0 .addF32 .b32 10 5 12),
     (word 0x20A [(50, 7), (30, 4), (14, 3072), (11, 4), (9, 3), (6, 3)], .red g7 l0 .add .b32 .die 4 12),
     (word 0x20B [(50, 7), (6, 4), (1, 3)], .fence g7 .ar .pkg),
     (word 0x20C [(50, 7), (30, 4), (14, 8), (11, 1)], .cctl g7 l0 .wbdrop .warp 4 8),
     (word 0x20D [(50, 7), (30, 4), (14, 8), (11, 1), (9, 3), (6, 5)], .pref g7 l0 true .nc .dom 4 8),
     (word 0x20E [(50, 7), (38, 3), (30, 4), (14, 7), (11, 4), (9, 2), (6, 1)], .ldPriv g7 l0 3 4 7),
     (word 0x20F [(50, 7), (46, 4), (38, 3), (30, 4), (14, 7), (11, 4), (9, 2), (6, 1), (3, 3), (0, 1)], .stPriv g7 l43 3 4 7),
     (word 0x210 [(50, 7), (38, 3), (30, 5)], .popq g7 l0 3 5),
     (word 0x211 [(50, 7), (30, 4), (22, 6)], .pushq g7 l0 6 4)] = true := by decide

/-- R336: the scalar opcodes of the sequencer. -/
theorem test_decode_scalar : allRead true
    [(word 0x300 [(50, 7), (40, 1), (34, 2)], .smov .copy 1 2),
     (word 0x300 [(50, 7), (40, 1), (0, 1)], .smov .readFlags 1 0),
     (word 0x300 [(50, 7), (34, 2), (0, 2)], .smov .writeFlags 0 2),
     (word 0x301 [(50, 7), (40, 5), (32, 2), (0, 2147483648)], .smovi .hi 5 0x80000000),
     (word 0x302 [(50, 7), (40, 1), (34, 2), (28, 3)], .sadd 1 2 (.reg 3)),
     (word 0x303 [(50, 7), (40, 1), (34, 2), (7, 2047), (0, 1)], .ssub 1 2 (.imm 0x7FF)),
     (word 0x304 [(50, 7), (40, 1), (34, 2), (28, 3)], .smul 1 2 (.reg 3)),
     (word 0x305 [(50, 7), (40, 1), (34, 2), (7, 2047), (0, 1)], .sand 1 2 (.imm 0x7FF)),
     (word 0x306 [(50, 7), (40, 1), (34, 2), (28, 3)], .sor 1 2 (.reg 3)),
     (word 0x307 [(50, 7), (40, 1), (34, 2), (7, 2047), (0, 1)], .sxor 1 2 (.imm 0x7FF)),
     (word 0x308 [(50, 7), (40, 1), (34, 2), (28, 3)], .sshl 1 2 (.reg 3)),
     (word 0x309 [(50, 7), (40, 1), (34, 2), (28, 3), (0, 2)], .sshr true 1 2 (.reg 3)),
     (word 0x30A [(50, 7), (40, 1), (34, 2), (18, 9), (7, 5), (0, 1)], .scmp .geu 1 2 (.imm 5)),
     (word 0x30B [(50, 7), (34, 6), (32, 2), (0, 4294967294)], .sbra .nz 6 0xFFFFFFFE),
     (word 0x30E [(50, 7)], .sexit),
     (word 0x310 [(50, 7), (34, 2), (28, 3), (18, 15), (0, 1)], .adef .stride 15 2 3),
     (word 0x311 [(50, 7), (40, 4), (18, 7), (7, 2047), (0, 1)], .astep .done 7 4 2047),
     (word 0x316 [(50, 7), (34, 3), (18, 5), (0, 1)], .bara true 5 3),
     (word 0x317 [(50, 7), (18, 5)], .barw 5),
     (word 0x380 [(50, 7), (0, 7)], .trapSequencer 7),
     (word 0x381 [(50, 7)], .tretSequencer),
     (word 0x387 [(50, 7)], .pdoneSequencer)] = true := by decide

/-- R336: the engine opcodes of the sequencer. -/
theorem test_decode_engine : allRead true
    [(word 0x30C [(50, 7), (46, 4), (40, 1), (34, 2), (18, 3), (7, 2045), (6, 1), (3, 3), (0, 2)], .sld l43 .i32 .nc .dom 1 2 0xFF),
     (word 0x30D [(50, 7), (34, 2), (28, 3), (18, 1), (7, 12), (0, 1)], .sst l0 .n32 .wt .pkg 2 3 1),
     (word 0x312 [(50, 7), (34, 3), (18, 2), (7, 189), (0, 1)], .ldq l0 .gather false .nc .dom 2 3 5),
     (word 0x313 [(50, 7), (34, 3), (18, 2), (7, 2016), (0, 6)], .stq l0 .sline true .own .warp 2 3 63),
     (word 0x314 [(50, 7), (34, 2), (28, 3), (18, 4), (7, 288), (0, 1)], .qpush l0 true 4 2 3 9),
     (word 0x315 [(50, 7), (40, 6), (18, 4), (7, 2027)], .qpop l0 6 4 63 11),
     (word 0x320 [(50, 7), (34, 2), (18, 15)], .chain l0 2 15),
     (word 0x321 [(50, 7), (40, 3), (18, 14)], .cwait l0 false 3 14),
     (word 0x321 [(50, 7), (40, 3), (0, 1)], .cwait l0 true 3 0),
     (word 0x322 [(50, 7), (34, 2), (18, 3)], .coll l0 2 3),
     (word 0x323 [(50, 7), (40, 4), (18, 2)], .ctwait l0 4 2),
     (word 0x324 [(50, 7), (40, 1), (34, 2), (28, 3), (22, 4), (0, 1)], .redc l0 true 1 2 3 4),
     (word 0x325 [(50, 7), (40, 1), (34, 2)], .launch l0 1 2),
     (word 0x326 [(50, 7), (40, 1), (34, 2), (28, 3), (22, 4), (18, 6), (7, 992)], .rqpush l0 1 2 3 4 6 31),
     (word 0x327 [(50, 7), (40, 1), (34, 2), (0, 1)], .rqpop l0 true 1 2),
     (word 0x330 [(50, 7), (40, 9), (34, 4), (28, 6), (7, 24), (0, 3)], .announce l0 true true 9 4 6 24),
     (word 0x331 [(50, 7), (40, 9), (34, 4), (28, 6), (7, 42)], .withdraw l0 9 4 6 42),
     (word 0x332 [(50, 7), (40, 9), (34, 4), (28, 6), (7, 8)], .replicate l0 9 4 6 8),
     (word 0x333 [(50, 7), (40, 9), (34, 4), (28, 6), (7, 63)], .migrate l0 9 4 6 63),
     (word 0x334 [(50, 7), (40, 9), (34, 4), (7, 5)], .rfence l0 .dom 9 4),
     (word 0x20B [(50, 7), (7, 6), (0, 2)], .fenceSequencer l0 .acq .sys)] = true := by decide

/-- R361: the matrix opcodes. -/
theorem test_decode_matrix : allRead true
    [(word 0x2C0 [(50, 7), (43, 2), (40, 5), (34, 3), (28, 4), (14, 15)], .tfetch l0 .si .dom 15 3 4),
     (word 0x2C1 [(50, 7), (14, 7)], .trel l0 false 7),
     (word 0x2C1 [(50, 7), (7, 1)], .trel l0 true 0),
     (word 0x2C2 [(50, 7), (43, 7), (34, 3), (28, 4), (7, 1)], .mmaBf16 l0 true 7 3 4),
     (word 0x2C3 [(50, 7), (46, 4), (43, 1), (34, 3), (28, 4), (6, 1), (3, 3)], .mmaF16 l43 false 1 3 4),
     (word 0x2C4 [(50, 7), (43, 1), (34, 3), (28, 4)], .mmaF32 l0 false 1 3 4),
     (word 0x2C5 [(50, 7), (43, 6), (34, 3), (28, 4)], .mmacCf32 l0 false 6 3 4),
     (word 0x2C6 [(50, 7), (43, 1), (34, 3), (28, 4), (14, 129), (9, 31)], .mmasE4m3E4m3 l0 false 1 3 4 0x81 31),
     (word 0x2C7 [(50, 7), (43, 1), (34, 3), (28, 4), (14, 129), (9, 30), (7, 1)], .mmasE4m3E5m2 l0 true 1 3 4 0x81 30),
     (word 0x2C8 [(50, 7), (43, 1), (34, 3), (28, 4), (14, 1), (9, 1)], .mmasE5m2E4m3 l0 false 1 3 4 1 1),
     (word 0x2C9 [(50, 7), (43, 1), (34, 3), (28, 4)], .mmasE5m2E5m2 l0 false 1 3 4 0 0),
     (word 0x2CA [(50, 7), (43, 5)], .zclr l0 5),
     (word 0x2CB [(50, 7), (43, 5), (40, 4), (34, 3), (28, 4), (14, 14)], .zld l0 .mem .nc .pkg 5 3 4),
     (word 0x2CC [(50, 7), (43, 5), (34, 3), (28, 4), (14, 1)], .zst l0 .cp .own .warp 5 3 4),
     (word 0x2CD [(50, 7), (43, 5), (40, 2), (34, 3), (28, 4), (22, 9), (14, 195), (7, 1)], .zdrain l0 ⟨.row, true, .f32, .own, true, true, .cluster⟩ 5 3 4 9),
     (word 0x2CD [(50, 7), (43, 5), (40, 4), (34, 3), (28, 4), (14, 26)], .zdrain l0 ⟨.mem, false, .f16, .wt, false, false, .pkg⟩ 5 3 4 0)] = true := by decide

/-- R361: the stream accumulator opcodes. -/
theorem test_decode_rows : allRead true
    [(word 0x2D0 [(50, 7), (34, 3), (22, 7), (14, 9), (7, 1)], .saalloc l0 true 9 7 3),
     (word 0x2D1 [(50, 7), (34, 3), (14, 9)], .safree l0 false 9 3),
     (word 0x2D2 [(50, 7), (43, 6), (40, 5), (34, 3), (28, 4), (22, 8), (14, 137)], .saadd l0 .e4m3 true true .dom 9 3 4 8),
     (word 0x2D3 [(50, 7), (43, 1), (34, 3), (28, 4), (22, 8), (14, 62), (7, 1)], .saread l0 true .bf16 false false .warp 62 3 4 8),
     (word 0x2D4 [(50, 7), (34, 3), (28, 4), (22, 8)], .sawait l0 8 3 4),
     (word 0x2D5 [(50, 7), (34, 3), (28, 4), (22, 8)], .saseal l0 8 3 4),
     (word 0x2D6 [(50, 7), (34, 3), (28, 4), (22, 8), (14, 63), (7, 1)], .saevict l0 true 63 3 4 8),
     (word 0x2D7 [(50, 7), (34, 3), (28, 4), (22, 8), (14, 6)], .saload l0 6 3 4 8)] = true := by decide

/-! ### Headers -/

/-- R241: the spec's worked headers, and a header of the other stream, a reserved bit and a barrier in a sequencer's. -/
theorem test_decode_headers :
    ((decodeHeader false 0xA200409380000000).toOption, (decodeHeader false 0xA080000000000000).toOption,
     (decodeHeader true 0xAA00000000000000).toOption, (decodeHeader true 0xAC00000000000000).toOption) =
    (some ⟨1, 1, 2, 4, some 3, true⟩, some ⟨0, 5, 0, 0, none, false⟩, some ⟨5, 1, 0, 0, none, false⟩,
     some ⟨6, 1, 0, 0, none, false⟩) := by decide

theorem test_refuse_headers :
    ([(false, 0xA080000000000001), (true, 0xA080000000000000), (false, 0xAE00000000000000), (true, 0xA800001000000000),
      (false, 0xA000000100000000), (false, 0xB000000000000000)].all fun x =>
        (decodeHeader x.1 (BitVec.ofNat 64 x.2)).toOption.isNone) = true := by decide

/-! ### Words that are refused (R259) -/

theorem test_refuse_lane :
    ([word 0x021 [(50, 7)], word 0x280 [(50, 7)], word 0x000 [(50, 7), (10, 8)], word 0x000 [(50, 7), (10, 7), (38, 1)],
      word 0x000 [(50, 7), (46, 1), (10, 6)], word 0x002 [(50, 7), (14, 7), (10, 6)], word 0x200 [(50, 7), (38, 8), (30, 5), (11, 4)],
      word 0x200 [(50, 7), (38, 8), (30, 4), (11, 7)], word 0x200 [(50, 7), (38, 8), (30, 4), (11, 4), (6, 7)],
      word 0x201 [(50, 7), (38, 8), (30, 4), (11, 1)], word 0x20B [(50, 7)], word 0x185 [(50, 7), (30, 12)],
      word 0x0A0 [(50, 7), (10, 9), (3, 1)], word 0x302 [(50, 7)]].all (refuses false)) = true := by decide

theorem test_refuse_sequencer :
    ([word 0x302 [(50, 6)], word 0x30B [(50, 7), (32, 3)], word 0x30B [(50, 7), (34, 1)], word 0x312 [(50, 7), (18, 8)],
      word 0x2C5 [(50, 7), (43, 1)], word 0x2D3 [(50, 7), (14, 63)], word 0x2CD [(50, 7), (14, 3)], word 0x2CB [(50, 7), (14, 3)],
      word 0x310 [(50, 7), (0, 4)], word 0x000 [(50, 7), (10, 6)]].all (refuses true)) = true := by decide

end Sys2Proof.Tests
end

