-- ==== Sys2Proof/Tests/Slice0.lean ====
section
/-! SUPPORT. Tests of single steps: expected values are worked out by hand from the spec's rules. First, a term for each static check
that the check refuses. -/

namespace Sys2Proof.Tests

set_option Elab.async false

open Sys2Proof Sys2Proof.Machine

/-! ### Ill-formed terms -/

/-- R262: operand types, even registers, the predicate p7 as a destination. -/
theorem test_wf_refuses_integer : ([
    .iadd g7 .f32 false 0 0 0, .iadd g7 .n64 false 1 0 0, .isub g7 .i64 false 0 3 0, .isub g7 .x32 false 0 0 0, .iaddc g7 false none 7 0 0 0,
    .imul g7 .f32 0 0 0, .imin g7 .n64 0 0 1, .imax g7 .cf32 0 0 0, .imulh g7 .n16 0 0 0, .imulh g7 .n64 1 0 0, .imad g7 .i64 0 0 0 1,
    .imad g7 .f16 0 0 0 0, .imadw g7 .n64 0 0 0 0, .imadw g7 .n32 1 0 0 0, .imadw g7 .n32 0 0 0 1, .iabs g7 .n32 false 0 0, .ineg g7 .i64 false 0 1,
    .and g7 .n32 0 0 0, .or g7 .n64 0 1 0, .xor g7 .i32 0 0 0, .not g7 .n32 0 0, .mov g7 .n64 1 0, .brev g7 .f32 0 0, .shl g7 .x32 0 0 0,
    .shr g7 .i32 0 0 0, .shl g7 .n64 1 0 0, .sar g7 .n32 0 0 0, .bfe g7 .x32 0 0 0, .bfe g7 .n64 0 1 0, .bfi g7 .n32 0 0 0 0, .popc g7 .n32 0 0,
    .clz g7 .n64 0 1, .icmp g7 .eq .x32 0 0 0, .icmp g7 .eq .n32 7 0 0, .icmp g7 .eq .n64 0 1 0, .sel g7 .n32 0 0 0 0, .movi g7 .n16 0 0,
    .movi g7 .i64 1 0, .lea g7 .n64 0 0 0 0, .lea g7 .i32 1 0 0 0, .lea g7 .i32 0 1 0 0] : List Instr).all (fun i => !i.wf) = true := by decide

/-- R277, R279 to R281: conversions and floating point. -/
theorem test_wf_refuses_float : ([
    .fcmp g7 .eq 7 0 0, .fclass g7 .e4m3 0 0, .hadd2 g7 .f32 .rne false 0 0 0, .hmul2 g7 .e5m2 .rne false 0 0 0, .hfma2 g7 .f32 .rne false 0 0 0 0,
    .cmul g7 .rne 1 0 0, .cmul g7 .rne 0 0 1, .cfma g7 .rne 0 0 0 1, .cfma g7 .rne 0 1 0 0, .sincospi g7 l0 .rne 1 0,
    .cvt g7 l0 .x32 .f32 .rne false 0 0, .cvt g7 l0 .f32 .x32 .rne false 0 0, .cvt g7 l0 .f32 .f32 .rne false 0 0, .cvt g7 l0 .i32 .i16 .rtz false 0 0,
    .cvt g7 l43 .f32 .f16 .rtz false 0 0, .cvt g7 l0 .i32 .f32 .rne true 0 0, .cvt g7 l43 .e4m3 .f32 .rne true 0 0, .cvt g7 l43 .i32 .f32 .rne false 0 0,
    .cvt g7 l0 .i64 .f32 .rne false 1 0, .cvt g7 l0 .f32 .n64 .rne false 0 1,
    .pack g7 l0 .i8 .f32 .rne false false 0 0 0, .pack g7 l0 .i8 .i32 .rtz false false 0 0 0, .pack g7 l0 .e4m3 .f32 .rne true false 0 0 0,
    .pack g7 l0 .f16 .f32 .rne false true 0 0 0, .pack g7 l43 .n8 .n32 .rne false false 0 0 0, .unpack g7 l0 .n32 .i8 0 0 0,
    .unpack g7 l0 .f32 .f16 2 0 0, .unpack g7 l43 .i32 .i16 0 0 0] : List Instr).all (fun i => !i.wf) = true := by decide

/-- R299: control, cross-lane and system instructions. -/
theorem test_wf_refuses_control : ([
    .brx g7 1, .ret g7 3, .call g7 1 0, .mop g7 .act 0 1 0, .mop g7 .act 0 0 1, .vote g7 l0 .every 7 0, .matchLanes g7 l0 .n32 0 0,
    .matchLanes g7 l0 .n64 0 1, .redux g7 l0 .add .x32 .rne 0 0, .redux g7 l0 .and .n32 .rne 0 0, .redux g7 l0 .add .n32 .rtz 0 0,
    .scan g7 l0 .min .f32 false .rup 0 0, .srd g7 .tpc 1, .srd g7 .blockid 1, .srd g7 .clusterid 3, .srd g7 .ccount 5, .swr g7 .laneid 0,
    .swr g7 .tpc 1, .icinv g7 true 2, .icinv g7 false 1] : List Instr).all (fun i => !i.wf) = true := by decide

/-- R317: memory instructions. -/
theorem test_wf_refuses_memory : ([
    .ld g7 l0 .b64 .nc .pkg .none 1 0 0, .ld g7 l0 .b32 .nc .pkg .none 0 1 0, .ld g7 l0 .b128 .nc .pkg .none 2 0 0, .st g7 l0 .i8 .nc .pkg .none 0 0 0,
    .st g7 l0 .b64 .nc .pkg .none 1 0 0, .st g7 l0 .b32 .nc .pkg .none 0 1 0, .lds g7 l0 .b32 .fill 0 0 0, .ldc g7 l0 .b64 .none 1 0 0,
    .ldp g7 l0 .b32 .fill 0 0 0, .sts g7 l0 .i16 .none 0 0 0, .stc g7 l0 .b32 .keep 0 0 0, .stp g7 l0 .b128 .none 2 0 0,
    .atom g7 l0 .add .n16 .pkg 0 0 0, .atom g7 l0 .addF32 .b64 .pkg 0 0 0, .atom g7 l0 .add .b128 .pkg 0 0 0, .atom g7 l0 .add .b32 .pkg 0 1 0,
    .atom g7 l0 .cas .b32 .pkg 0 0 255, .atoms g7 l0 .exch .b64 1 0 0, .atoms g7 l0 .exch .b64 0 0 1, .red g7 l0 .add .b32 .pkg 1 0,
    .red g7 l0 .add .n8 .pkg 0 0, .cctl g7 l0 .wball .pkg 2 0, .cctl g7 l0 .wbdropall .pkg 0 4, .cctl g7 l0 .wb .pkg 1 0,
    .pref g7 l0 false .nc .pkg 0 0, .pref g7 l0 true .nc .pkg 1 0] : List Instr).all (fun i => !i.wf) = true := by decide

/-- R336, R361: sequencer, matrix and row instructions. -/
theorem test_wf_refuses_sequencer : ([
    .trel l0 true 1, .mmacCf32 l0 false 1 0 0, .zld l0 .row .own .warp 0 0 0, .zst l0 .cp .nc .warp 0 0 0, .zld l0 .sp .own .pkg 0 0 0,
    .zdrain l0 ⟨.row, false, .f32, .own, false, false, .warp⟩ 0 0 0 0, .zdrain l0 ⟨.mem, false, .f32, .own, false, true, .warp⟩ 0 0 0 0,
    .zdrain l0 ⟨.mem, true, .f16, .own, false, false, .warp⟩ 0 0 0 0, .zdrain l0 ⟨.cp, false, .f32, .nc, false, false, .warp⟩ 0 0 0 0,
    .zdrain l0 ⟨.cp, false, .f32, .own, false, false, .pkg⟩ 0 0 0 0, .zdrain l0 ⟨.mem, false, .f32, .own, false, false, .warp⟩ 0 0 0 1,
    .saadd l0 .f32 false false .pkg 0 0 0 0, .saread l0 false .f32 false false .pkg 0 0 0 0, .saread l0 false .f32 false true .pkg 63 0 0 0,
    .smov .readFlags 0 1, .smov .writeFlags 1 0, .sbra .always 1 0, .adef .base 0 0 1, .ldq l0 .line false .own .pkg 0 0 32,
    .ldq l0 .line true .own .pkg 0 0 0, .stq l0 .sline true .nc .warp 0 0 0, .ldq l0 .sline true .own .pkg 0 0 0, .qpush l0 false 0 0 1 0,
    .qpush l0 true 0 0 0 40, .qpop l0 0 0 33 0, .bara false 0 1, .cwait l0 true 0 1, .rqpush l0 0 0 0 0 0 62] : List Instr).all
      (fun i => !i.wf) = true := by decide

/-- Their well-formed neighbours. -/
theorem test_wf_accepts : ([
    .iadd g7 .n64 false 2 0 4, .iaddc g7 false none 6 0 0 0, .imadw g7 .i32 2 1 3 4, .movi g7 .i64 2 0, .cvt g7 l43 .e4m3 .f32 .rtz false 0 0,
    .pack g7 l43 .e4m3 .f32 .rne false true 0 0 0, .unpack g7 l43 .f32 .e5m2 3 0 0, .ld g7 l0 .b128 .nc .pkg .none 4 2 0,
    .atom g7 l0 .cas .b32 .pkg 0 0 254, .icinv g7 true 0, .zdrain l0 ⟨.row, true, .f32, .own, false, true, .pkg⟩ 0 0 0 1,
    .saread l0 false .f32 false true .pkg 62 0 0 0, .ldq l0 .line false .nc .pkg 0 0 63] : List Instr).all Instr.wf = true := by decide

/-! ### Single steps -/

/-- The prepared one-warp block whose next word is `w`, some registers `(register, thread, value)` set first. -/
def lane (w : W64) (rs : List (Nat × Nat × W32)) : State :=
  (State.reset.withWord w).modWarp 0 0 fun x => rs.foldl (fun x r => x.setReg r.1 r.2.1 r.2.2) x

/-- The same with the word in the sequencer's stream and s registers set. -/
def seqr (w : W64) (rs : List (Nat × W64)) : State := (State.reset.withWord w).modSeq 0 fun q => rs.foldl (fun q r => q.put r.1 r.2) q

/-- What a step of a state leaves, if it goes on. -/
def after (s : State) (p : State → Bool) : Bool := match step s with | .next t => p t | .fault _ => false | .refused _ => false

/-- The warp, and the sequencer, after a step. -/
def warpAfter (s : State) (p : Warp → Bool) : Bool := after s fun t => match t.warp? 0 0 with | some w => p w | none => false
def seqAfter (s : State) (p : Seq → Bool) : Bool := after s fun t => match t.block? 0 with | some b => p b.seq | none => false

/-- The value of a register of a thread after a step. -/
def gives (s : State) (r l : Nat) (v : W32) : Bool := warpAfter s fun w => w.reg r l == v

/-- The values that a step's long-latency operation will write. -/
def issues (s : State) (r l : Nat) (v : W64) : Bool := after s fun t => match tget? t.ops 1 with
  | some o => o.dests.contains (r * 32 + l, v)
  | none => false

/-- R263: 0xFFFFFFFF + 2 wraps; i8 127 + 1 saturates; the upper bits of the register are sign bits. -/
theorem test_iadd_wraps : gives (lane (word 0x000 [(50, 7), (38, 1), (30, 2), (22, 3), (10, 6)]) [(2, 5, 0xFFFFFFFF), (3, 5, 2)]) 1 5 1 = true := by
  decide
theorem test_iadd_saturates : gives (lane (word 0x000 [(50, 7), (38, 1), (30, 2), (22, 3), (7, 1)]) [(2, 0, 127), (3, 0, 1)]) 1 0 127 = true := by
  decide
/-- R263: the source is the destination: 0 - 1 in n16 is 0xFFFF, zero-extended. -/
theorem test_isub_in_place : gives (lane (word 0x001 [(50, 7), (38, 2), (30, 2), (22, 3), (10, 5)]) [(3, 1, 1)]) 2 1 0xFFFF = true := by decide
/-- R264: the rule's own example, its two adds. -/
theorem test_iaddc_carries : warpAfter (lane 0x009C010000805800 [(0, 0, 0xFFFFFFFF), (2, 0, 1)]) (fun w => w.reg 4 0 == 0 && w.pred 1 0) = true := by decide +kernel
theorem test_iaddc_takes_carry : warpAfter ((lane 0x009C014040D25800 [(1, 0, 1)]).modWarp 0 0 fun w => w.setPred 1 0 true)
    (fun w => w.reg 5 0 == 2 && !w.pred 1 0) = true := by decide +kernel
/-- R265: the upper half of -1 x 1, and -1 x -1 + 5 as 64 bits. -/
theorem test_imulh_signed : gives (lane (word 0x004 [(50, 7), (38, 1), (30, 2), (22, 3), (10, 2)]) [(2, 0, 0xFFFFFFFF), (3, 0, 1)]) 1 0 0xFFFFFFFF = true := by
  decide
theorem test_imadw_wide : warpAfter (lane (word 0x006 [(50, 7), (38, 2), (30, 4), (22, 5), (14, 6), (10, 2)])
    [(4, 0, 0xFFFFFFFF), (5, 0, 0xFFFFFFFF), (6, 0, 5)]) (fun w => w.reg 2 0 == 6 && w.reg 3 0 == 0) = true := by decide
/-- R267: table 0xE8 is the majority of a, b and the old destination. -/
theorem test_lop3_majority : gives (lane (word 0x00F [(50, 7), (38, 1), (30, 2), (22, 3), (14, 0xE8), (10, 8)]) [(1, 0, 0x0F), (2, 0, 0x33), (3, 0, 0x55)])
    1 0 0x17 = true := by decide
/-- R268: a count of the width shifts everything out; SAR leaves the sign. -/
theorem test_shl_by_width : gives (lane (word 0x010 [(50, 7), (38, 1), (30, 2), (22, 3), (10, 6)]) [(2, 0, 0xFFFFFFFF), (3, 0, 32)]) 1 0 0 = true := by
  decide
theorem test_sar_beyond_width : gives (lane (word 0x012 [(50, 7), (38, 1), (30, 2), (22, 3), (10, 2)]) [(2, 0, 0x80000000), (3, 0, 40)]) 1 0 0xFFFFFFFF =
    true := by decide
/-- R269: position 4, length 8 of 0x00000F80 is 0xF8, signed. -/
theorem test_bfe_signed : gives (lane (word 0x015 [(50, 7), (38, 1), (30, 2), (22, 3), (10, 2)]) [(2, 0, 0xF80), (3, 0, 0x0804)]) 1 0 0xFFFFFFF8 = true := by
  decide +kernel
/-- R270: leading zeros of 1 in 32 bits, of 0 in 64. -/
theorem test_clz_counts : gives (lane (word 0x018 [(50, 7), (38, 1), (30, 3), (10, 8)]) [(3, 0, 1)]) 1 0 31 = true ∧
    gives (lane (word 0x018 [(50, 7), (38, 1), (30, 2), (10, 7)]) []) 1 0 64 = true := by decide
/-- R271: -1 < 1 signed, not unsigned. -/
theorem test_icmp_signed : warpAfter (lane (word 0x01A [(50, 7), (38, 5), (30, 2), (22, 3), (10, 2), (0, 2)]) [(2, 0, 0xFFFFFFFF), (3, 0, 1)])
    (fun w => w.pred 5 0) = true ∧ warpAfter (lane (word 0x01A [(50, 7), (38, 5), (30, 2), (22, 3), (10, 6), (0, 2)]) [(2, 0, 0xFFFFFFFF), (3, 0, 1)])
    (fun w => !w.pred 5 0) = true := by decide +kernel
/-- R272: an i64 immediate is sign-extended into the pair. -/
theorem test_movi_pair : warpAfter (lane (word 0x01D [(50, 7), (38, 8), (6, 4294967294), (2, 3)]) []) (fun w => w.reg 8 31 == 0xFFFFFFFE && w.reg 9 31 == 0xFFFFFFFF) =
    true := by decide
/-- R273: LEA of base 2^32 with index -1 shifted by 3. -/
theorem test_lea_signed : warpAfter (lane (word 0x01E [(50, 7), (38, 2), (30, 4), (22, 6), (14, 3), (10, 2)]) [(5, 0, 1), (6, 0, 0xFFFFFFFF)])
    (fun w => w.reg 2 0 == 0xFFFFFFF8 && w.reg 3 0 == 0) = true := by decide
/-- R247: with p0 false everywhere a guarded word changes nothing. -/
theorem test_guard_stops : gives (lane (word 0x01D [(38, 8), (6, 7), (2, 8)]) [(8, 0, 3)]) 8 0 3 = true := by decide

/-- R283: 1.0 + 2.0; the inexact flag of 1 + 2^-24 and its tie to even. -/
theorem test_fadd_exact : gives (lane (word 0x080 [(50, 7), (38, 1), (30, 2), (22, 3), (10, 9)]) [(2, 0, 0x3F800000), (3, 0, 0x40000000)]) 1 0 0x40400000 =
    true := by decide +kernel
theorem test_fadd_inexact : warpAfter (lane (word 0x080 [(50, 7), (38, 1), (30, 2), (22, 3), (10, 9)]) [(2, 0, 0x3F800000), (3, 0, 0x33800000)])
    (fun w => w.reg 1 0 == 0x3F800000 && bit (w.flagsOf 0) 4) = true := by decide +kernel
/-- R283: infinity times zero is invalid. -/
theorem test_fmul_invalid : warpAfter (lane (word 0x082 [(50, 7), (38, 1), (30, 2), (22, 3), (10, 9)]) [(2, 0, 0x7F800000)])
    (fun w => w.reg 1 0 == 0x7FC00000 && bit (w.flagsOf 0) 0) = true := by decide +kernel
/-- R283: 2 x 3 - 6 is +0 in round-to-nearest. -/
theorem test_ffma_cancels : gives (lane (word 0x083 [(50, 7), (38, 1), (30, 2), (22, 3), (14, 4), (10, 9)])
    [(2, 0, 0x40000000), (3, 0, 0x40400000), (4, 0, 0xC0C00000)]) 1 0 0 = true := by decide +kernel
/-- R290: 1.0 + 1.0 in both f16 halves. -/
theorem test_hadd2_halves : gives (lane (word 0x08A [(50, 7), (38, 1), (30, 2), (22, 3), (10, 10)]) [(2, 0, 0x3C003C00), (3, 0, 0x3C00BC00)]) 1 0 0x40000000 =
    true := by decide +kernel
/-- R277: 2.5 to nearest even, and -1.5 towards zero. -/
theorem test_cvt_rounds : gives (lane (word 0x100 [(50, 7), (38, 1), (30, 2), (14, 9), (10, 2)]) [(2, 0, 0x40200000)]) 1 0 2 = true ∧
    gives (lane (word 0x100 [(50, 7), (38, 1), (30, 2), (14, 9), (10, 2), (8, 1)]) [(2, 0, 0xBFC00000)]) 1 0 0xFFFFFFFF = true := by decide +kernel
/-- R292: the square root of 4 is on its way to v1, exactly 2. -/
theorem test_sqrt_issues : issues (lane (word 0x0A2 [(50, 7), (38, 1), (30, 3), (10, 9)]) [(3, 0, 0x40800000)]) 1 0 0x40000000 = true := by decide +kernel

/-- R305: the ballot of p7 over 32 active threads. -/
theorem test_ballot_all : issues (lane (word 0x18B [(50, 7), (38, 9), (30, 7)]) []) 9 3 0xFFFFFFFF = true := by decide +kernel
/-- R306: shuffle down by 1 in groups of 8: thread 6 reads thread 7, thread 7 itself. -/
theorem test_shfl_down : issues (lane (word 0x18E [(50, 7), (38, 1), (30, 2), (22, 3), (14, 3), (10, 8), (0, 2)])
    [(2, 6, 60), (2, 7, 70), (2, 8, 80), (3, 6, 1), (3, 7, 1)]) 1 6 70 = true ∧ issues (lane (word 0x18E [(50, 7), (38, 1), (30, 2), (22, 3), (14, 3), (10, 8), (0, 2)])
    [(2, 6, 60), (2, 7, 70), (2, 8, 80), (3, 6, 1), (3, 7, 1)]) 1 7 70 = true := by decide +kernel
/-- R302: JOIN sets, and MGET reads, bits of a mask. -/
theorem test_join_sets : warpAfter (lane (word 0x185 [(50, 7), (30, 3)]) []) (fun w => w.mask 3 == 0xFFFFFFFF) = true := by decide
/-- R308, R311: TRAP is cause 10 with its code in %tdst. -/
theorem test_trap_enters : warpAfter (lane (word 0x380 [(50, 7), (6, 0x1234)]) []) (fun w => w.tcause == 10 && w.tdst == 0x1234 && w.tmask == 0xFFFFFFFF &&
    w.handler.isSome) = true := by decide
/-- R310: TRET outside a handler is cause 7. -/
theorem test_tret_illegal : warpAfter (lane (word 0x381 [(50, 7)]) []) (fun w => w.tcause == 7) = true := by decide
/-- R260: an opcode that no table has is ILLEGAL. -/
theorem test_unknown_illegal : warpAfter (lane (word 0x03F [(50, 7)]) []) (fun w => w.tcause == 7) = true := by decide
/-- R313: %laneid. -/
theorem test_srd_laneid : gives (lane (word 0x383 [(50, 7), (38, 3)]) []) 3 17 17 = true := by decide

/-- R150, R322: the bytes of a scratchpad store with .fill, least significant first. -/
theorem test_sts_bytes : after (lane (word 0x203 [(50, 7), (38, 8), (30, 5), (14, 16), (11, 4), (6, 1), (1, 3)]) ((8, 31, 0x04030201) :: (List.range 32).map fun l => (5, l, BitVec.ofNat 32 (4 * l))))
    (fun t => t.rdN 0 (keySpad 0 (16 + 124)) 4 == [1, 2, 3, 4]) = true := by decide +kernel
/-- R320: an access beyond the launch's 4096 bytes is cause 7 for the thread that makes it. -/
theorem test_lds_bounds : warpAfter (lane (word 0x202 [(50, 7), (38, 8), (30, 5), (11, 4), (6, 1)]) [(5, 3, 4093)]) (fun w => w.tcause == 7 && w.tmask == 8) = true := by
  decide
/-- R141: PUSHQ puts the threads' words into the queue. -/
theorem test_pushq_entry : after (lane (word 0x211 [(50, 7), (30, 4), (22, 6)]) [(4, 2, 9)]) (fun t => match t.block? 0 with
    | some b => (tgetD b.queues 6 []).map (fun e => e.data.getD 2 0) == [9]
    | none => false) = true := by decide

/-- R338, R339: scalar moves, adds and compares. -/
theorem test_smovi_hi : seqAfter (seqr (word 0x301 [(50, 7), (40, 5), (32, 2), (0, 0x80000000)]) [(5, 7)]) (fun q => q.get 5 == 0x8000000000000007) = true := by
  decide
theorem test_ssub_borrows : seqAfter (seqr (word 0x303 [(50, 7), (40, 1), (34, 2), (7, 1), (0, 1)]) []) (fun q => q.get 1 == 0xFFFFFFFFFFFFFFFF) = true := by
  decide
theorem test_scmp_unsigned : seqAfter (seqr (word 0x30A [(50, 7), (40, 1), (34, 2), (18, 9), (7, 5), (0, 1)]) [(2, 0xFFFFFFFFFFFFFFFF)]) (fun q => q.get 1 == 1) = true := by
  decide
/-- R253: s0 discards a write. -/
theorem test_s0_discards : seqAfter (seqr (word 0x301 [(50, 7), (40, 0), (32, 1), (0, 5)]) []) (fun q => q.get 0 == 0 && q.s == []) = true := by decide
/-- R341: ASTEP reads the address and then steps. -/
theorem test_astep_steps : seqAfter ((seqr (word 0x311 [(50, 7), (40, 4), (18, 7), (7, 1)]) []).modSeq 0 fun q =>
    { q with gens := [(7, ⟨100, [8, 0, 0, 0], [1, 0, 0, 0], [0, 0, 0, 0], false⟩)] })
    (fun q => q.get 4 == 100 && (q.gen 7).idx == [1, 0, 0, 0]) = true := by decide
/-- R312: the sequencer's TRAP stops it with cause 10. -/
theorem test_sequencer_trap : seqAfter (seqr (word 0x380 [(50, 7), (0, 7)]) []) (fun q => q.trap.isSome) = true := by decide
/-- R370: ZCLR sets a tile to +0. -/
theorem test_zclr_clears : after ((seqr (word 0x2CA [(50, 7), (43, 5)]) []).modBlock 0 fun b => { b with tiles := [(tileKey 5 3 4, 9)] }) (fun t => match t.block? 0 with
    | some b => b.tiles == []
    | none => false) = true := by decide
/-- The word that the host places is the word that runs. -/
theorem test_withFetchWord : warpAfter (State.reset.withFetchWord 64 0x075C0140000000A0) (fun w => w.reg 5 0 == 2) = true := by decide

end Sys2Proof.Tests
end

