-- ==== Sys2Proof/Tests/Witness1.lean ====
section
/-! SUPPORT. For each statement about the instructions of a warp, concrete states and operands that meet its hypotheses, at boundary
values where a hypothesis has a range. -/

namespace Sys2Proof.Tests

set_option Elab.async false

open Sys2Proof Sys2Proof.Machine

/-- What holds of the lane stream that issues. -/
def hereOf (s : State) (f : Here → Bool) : Bool := match s.here? with | some h => f h | none => false
/-- The prepared block of one warp, all 32 threads of which stand at the last word of a clause. -/
def base : State := State.reset.withWord 0
/-- A one-warp block whose threads hold `f thread` in register `r`. -/
def filled (s : State) (r : Nat) (f : Nat → W32) : State :=
  s.modWarp 0 0 fun w => (List.range 32).foldl (fun (w : Warp) l => w.setReg r l (f l)) w
/-- Its block and its warp changed. -/
def withBlock (s : State) (f : Block → Block) : State := s.modBlock 0 f
def withWarp (s : State) (f : Warp → Warp) : State := s.modWarp 0 0 f
/-- A handler that the first eight threads entered. -/
def handler (pre : Bool) : Handler := ⟨pre, 0xFF, [], []⟩
/-- Free to go on with the registers and predicates named. -/
def free (s : State) (g : Guard) (regs : List (Nat × Nat)) (ps : List Nat) : Bool := hereOf s fun h => h.free s g regs ps
/-- A step that goes on. -/
def goesOn (i : Instr) (s : State) : Bool := match exec i s with | .next _ => true | .fault _ => false | .refused _ => false

theorem witness_MemoryStaysCanonical : Memory.wf (lane (word 0x203 [(50, 7), (38, 8), (30, 5), (11, 4), (6, 1), (1, 3)]) [(8, 0, 1)]).mem ∧
    after (lane (word 0x203 [(50, 7), (38, 8), (30, 5), (11, 4), (6, 1), (1, 3)]) [(8, 31, 1)]) (fun t => t.mem != []) = true := by decide +kernel

theorem witness_DecodeEncode : (Instr.wf (.movi g7 .i64 254 0xFFFFFFFF) && (encodeNat (.movi g7 .i64 254 0xFFFFFFFF)).isSome) = true := by decide

theorem witness_DecodedIsCanonical : (match decode true 0xC09C051400000401 with | .ok i => i == .sadd 5 5 (.imm 8) | .error _ => false) = true ∧
    (match decode false 0x075C0140000000A0 with | .ok i => i == .movi g7 .x32 5 2 | .error _ => false) = true := by decide

/-- A word due, a word of a lane clause, of a sequencer's clause, one that no table has, and one that is none of its clause's. -/
theorem witness_StepRunsDecoded :
    ((base.due .sexit).schedule == [] && (base.due .sexit).agenda == [.sexit]) = true ∧
    (let s := withWarp base fun w => { w with pdone := some 0xFF }
     s.schedule == [] && s.agenda == [] && s.derived == [.streamSuspend 0 (.warp 0)]) = true ∧
    ([lane 0x075C0140000000A0 [], lane (word 0x03F [(50, 7)]) [],
      withWarp base fun w => { w with runs := w.runs.map fun r => { r with cls := 1 } }].all fun s =>
      s.schedule == [] && s.agenda == [] && s.derived.isEmpty && s.cur == some (0, .warp 0) && hereOf s fun h =>
        h.b.active && !s.coreOut h.b && !h.wp.suspended && h.wp.pdone.isNone) = true ∧
    hereOf (lane 0x075C0140000000A0 []) (fun h => opClass false (fld h.run.word.toNat 54 10) == some h.run.cls &&
      match decode false h.run.word with | .ok _ => true | .error _ => false) = true ∧
    hereOf (lane (word 0x03F [(50, 7)]) []) (fun h => match decode false h.run.word with | .ok _ => false | .error _ => true) = true ∧
    hereOf (withWarp base fun w => { w with runs := w.runs.map fun r => { r with cls := 1 } }) (fun h =>
      opClass false (fld h.run.word.toNat 54 10) != some h.run.cls) = true ∧
    (let s := seqr (word 0x302 [(50, 7), (40, 1), (34, 2), (28, 3)]) []
     s.schedule == [] && s.agenda == [] && s.derived.isEmpty && s.cur == some (0, .seq) && match s.block? 0, s.seqHere? with
       | some b, some h => b.active && !s.coreOut b && !b.seq.suspended && !b.seq.pdone && b.seq.trap.isNone && !b.seq.sexit && h.run.open &&
           opClass true (fld h.run.word.toNat 54 10) == some h.run.cls
       | _, _ => false) = true := by decide +kernel

/-! ### Computing instructions -/

theorem witness_AddSubtractResults : (free base g7 [opd .n64 254, opd .n64 0, opd .n64 2] [] && free base g7 [opd1 255, opd1 255, opd1 0] [0, 6]) = true := by
  decide
theorem witness_MultiplyResults : (free base g7 [opd .n64 254, opd .n64 0, opd .n64 2] [] && free base g7 [opd2 254, opd1 255, opd1 0, opd2 0] []) = true := by
  decide
theorem witness_LogicResults : (free base ⟨true, 0⟩ [opd .x32 255, opd .x32 0, opd .x32 1] [] && free base g7 [opd1 0, opd1 0, opd1 0] []) = true := by decide
theorem witness_ShiftResults : (free base g7 [opd .i64 254, opd .i64 0, opd1 255] [] && free base g7 [opd1 0, opd1 1, opd1 2, opd1 255] []) = true := by decide
theorem witness_BitFieldResults : (free base g7 [opd .n64 254, opd .n64 0, opd1 255] [] && Ty.n64.w32Set && decide (2 ^ 64 - 1 < 2 ^ Ty.n64.width) &&
    decide (63 < Ty.n64.width)) = true := by decide
theorem witness_CompareMoveResults : (free base g7 [opd .n64 254, opd .n64 0] [6] && free base g7 [opd2 254, opd2 0, opd1 255] []) = true := by decide

/-- With indices 248 + (thread mod 8), the highest register 255; with index 256 at thread 31. -/
theorem witness_IndexedRegisters :
    (hereOf (filled base 2 fun l => BitVec.ofNat 32 (248 + l % 8)) fun h => h.free base g7 [opd1 1, opd1 2] [] == false &&
      h.free (filled base 2 fun l => BitVec.ofNat 32 (248 + l % 8)) g7 [opd1 1, opd1 2] [] && !(h.part g7).isEmpty &&
      (h.part g7).all fun l => decide (h.nat 2 l < 8 * h.b.rcd.vregs) && (tget? h.wp.pend (regKey (h.nat 2 l) l)).isNone) = true ∧
    (hereOf (lane 0 [(2, 31, 256)]) fun h => h.free (lane 0 [(2, 31, 256)]) g7 [opd1 2, opd1 1] [] &&
      (h.part g7).any fun l => decide (8 * h.b.rcd.vregs ≤ h.nat 2 l)) = true := by decide +kernel

theorem witness_FloatResults : (free base g7 [opd1 255, opd1 0, opd1 1, opd1 2] [] && hereOf base (fun h => h.quiet) &&
    free base g7 [opd2 254, opd2 0, opd2 2, opd2 4] [] && free base g7 [opd1 0, opd1 1] [6]) = true := by decide

/-- A thread adds infinities of unlike sign while NV is enabled. -/
theorem witness_FloatTraps :
    (let s := withBlock (lane 0 [(2, 5, 0x7F800000), (3, 5, 0xFF800000)]) fun b => { b with rcd := { b.rcd with flags := 1 } }
     hereOf s fun h => h.free s g7 [opd1 1, opd1 2, opd1 3] [] && h.wp.handler.isNone &&
      fpCause h.b.rcd.flags (h.raised g7 fun l => putRes 1 1 (fpAdd .f32 .rne false (h.nat 2 l) (h.nat 3 l))) == some (1, 32)) = true ∧
    ([(31, Flg.nv)].all fun x => decide (x.1 < 32)) = true := by decide +kernel

/-- Room for a long-latency operation: no counter, or counter d7 at 62, and three in the queue (R144, R145). -/
theorem witness_SpecialFunctions : (free base g7 [(254, 2), opd1 255] [] && hereOf base (fun h => h.room base ⟨7, some 7⟩ 1 && h.b.rcd.flags % 8 == 0) &&
    (let s := withBlock base fun b => { b with rcd := { b.rcd with flags := 7 } }
     hereOf s fun h => h.free s g7 [(254, 2), opd1 255] [] && h.room s l43 1 && h.b.rcd.flags % 8 != 0)) = true := by decide
theorem witness_Conversions : (free base g7 [opd .i64 254, opd .f32 0] [] && hereOf base (fun h => h.quiet && h.room base l43 2) &&
    !(Ty.isNarrow .i64 || Ty.isNarrow .f32) && (Ty.isNarrow .ue4m3 || Ty.isNarrow .f32) && free base g7 [opd1 0, opd1 1, opd1 2] [] &&
    (let s := withBlock base fun b => { b with rcd := { b.rcd with flags := 7 } }
     hereOf s fun h => h.free s g7 [opd .f16 254, opd .f32 0] [] && h.room s l43 2 && h.b.rcd.flags % 8 != 0)) = true ∧
    (let s := withBlock (lane 0 [(2, 0, 0x7F800000)]) fun b => { b with rcd := { b.rcd with flags := 1 } }
     hereOf s fun h => h.free s g7 [opd .i32 1, opd .f32 2] [] && h.wp.handler.isNone &&
       (fpCause h.b.rcd.flags (h.raised g7 fun j => putRes 1 1 (cvt .i32 .f32 .rne false (h.wp.src .f32 2 j)))).isSome) = true := by decide +kernel
theorem witness_FloatRounding : ((Fmt.decode .f32 0x7F800001).isNan && (Fmt.decode .f32 0x7F800001).isSnan && !(Fmt.decode .f32 0x7F800000).isNan &&
    !(Fmt.decode .f32 0x80000000).isNan && !(Fmt.decode .f32 0x80000000).isInf) = true := by decide +kernel
theorem witness_CrossLaneResults : (free base g7 [opd1 255] [6] && free base g7 [] [0, 6] && free base g7 [opd1 0, opd .n64 254] [] &&
    free base g7 [opd1 0, opd1 1, opd1 255] [] && hereOf base fun h => h.room base ⟨7, some 7⟩ 0) = true := by decide
theorem witness_Reductions : (free base g7 [opd1 255, opd1 0] [] && hereOf base (fun h => h.room base l43 0 && h.b.rcd.flags % 8 == 0) &&
    (let s := withBlock base fun b => { b with rcd := { b.rcd with flags := 7 } }
     hereOf s fun h => h.free s g7 [opd1 255, opd1 0] [] && h.room s l43 0 && h.b.rcd.flags % 8 != 0)) = true ∧
    ([2 ^ 32 - 1, 0].all fun y => decide (y < 2 ^ 32)) = true := by decide

/-- Operations in flight: of a lane, of the sequencer, and a load of four bytes. -/
def anOp (st : Stream) (dests : List (Nat × W64)) (fin : Fin') (left : Nat) : Op :=
  { uid := 0, st := st, ctr := some 3, word := 0, pc := 0, dests := dests, flags := [], got := [], fin := fin, left := left, sfu := 0, bad := 0 }
def flying (s : State) (o : Op) : State := { s with next := 2, ops := [(1, o)] }
theorem witness_LongLatencyOperations :
    (let o := anOp (.warp 0) [(64, 7), (8192 + 32, 1)] .plain 0
     let s := withWarp (flying base o) fun w => { w with pend := [(64, 1), (8192 + 32, 1)], ctr := [(3, 1)] }
     tget? s.ops 1 == some o && o.fin == .plain && o.st == .warp 0 && o.left == 0 && (s.warp? 0 0).isSome && decide (o.dests.map Prod.fst).Nodup) = true ∧
    (let o := anOp .seq [(5, 7)] .plain 0
     let s := (flying base o).modSeq 0 fun q => { q with pend := [(5, 1)], ctr := [(3, 1)] }
     tget? s.ops 1 == some o && o.fin == .plain && o.st == .seq && (s.block? o.uid).isSome && decide (o.dests.map Prod.fst).Nodup) = true ∧
    (let o := anOp (.warp 0) [] (.lanes .b32 2 [0, 31]) 0
     tget? (flying base o).ops 1 == some o) = true ∧
    (match (seqr (word 0x302 [(50, 7), (40, 1), (34, 2), (28, 3)]) []).seqHere?, (seqr (word 0x302 [(50, 7), (40, 1), (34, 2), (28, 3)]) []).block? 0 with
      | some h, some b => b.seq.run == some h.run
      | _, _ => false) = true ∧
    (hereOf base fun h => match base.warp? h.uid h.w with | some x => x.run? == some h.run | none => false) = true := by decide

theorem witness_LaneArithmeticFrame : ((laneDests (.iaddc g7 true none 6 255 0 1)).isSome && (laneDests (.cfma g7 .rne 254 0 2 4)).isSome &&
    goesOn (.iaddc g7 true none 6 255 0 1) base && goesOn (.cfma g7 .rne 254 0 2 4) base) = true := by decide +kernel

/-- A block with eight registers a thread; the pair v7 lies across the bound. -/
theorem witness_RegisterBeyondIsIllegal :
    (let s := withBlock base fun b => { b with rcd := { b.rcd with vregs := 1 } }
     hereOf s fun h => (laneOpds (.mov g7 .n64 0 7)).isSome && [opd2 7].any fun rn => decide (8 * h.b.rcd.vregs < rn.1 + rn.2)) = true := by decide

/-! ### Control -/

/-- A word that is a header (R241). -/
def aHeader : W64 := 0xA000000000000000
/-- A header in the instruction cache at the address that BRA +0 names, and a target with a high bit. -/
theorem witness_Branches :
    (let s := base.modCore 0 fun c => { c with icache := [(1, aHeader)] }
     hereOf s fun h => h.free s g7 [] [] && h.run.last && h.run.va == 8 &&
       (let c := (s.checkTargets h ((h.part g7).map fun l => (l, h.run.va))).1
        !c.walk && c.bad == 0)) = true ∧
    (let s := filled base 3 fun _ => 0x2000000
     hereOf s fun h => h.free s g7 [opd2 2] [] && h.run.last &&
       (let c := (s.checkTargets h ((h.part g7).map fun l => (l, BitVec.ofNat 64 (h.pair 2 l)))).1
        !c.walk && c.bad == BitVec.allOnes 32)) = true := by decide +kernel

theorem witness_ThreadsAndMasks : (hereOf base fun h => h.free base g7 [] [] && h.run.last && !(h.part g7).isEmpty && h.free base g7 [opd1 255] [] &&
    h.wp.mask 0 &&& ~~~0 != 0 && (let w := { h.wp with waiters := [(0, 0xFFFFFFFF)] }
      w.mask 0 &&& ~~~(tgetD w.waiters 0 0) == 0 && tgetD w.waiters 0 0 != 0)) = true := by decide +kernel

theorem witness_TrapEntry : (hereOf base fun h => h.wp.handler.isNone && (base.block? 0).isSome && (tget? h.b.warps 0).isSome) = true ∧
    (let s := withWarp base fun w => { w with handler := some (handler false) }
     hereOf s fun h => h.wp.handler.isSome && match tget? s.ctxs h.b.ctx with | some c => c.lost.isNone | none => false) = true ∧
    (let s := (withWarp base fun w => { w with handler := some (handler false) }).modCtx 0 fun c => { c with lost := some 3, later := 0xFFFF }
     hereOf s fun h => match tget? s.ctxs h.b.ctx with | some c => c.lost == some 3 | none => false) = true := by decide

theorem witness_SoftwareTraps : (hereOf base fun h => h.free base g7 [] [] && !(h.part g7).isEmpty && (h.part ⟨true, 7⟩).isEmpty &&
    h.free base ⟨true, 7⟩ [] []) = true := by decide

/-- In a handler that eight threads entered, two of which have exited, RESUMEAT set. -/
theorem witness_TrapReturn :
    (let s := withWarp base fun w => { w with handler := some (handler false), tcause := 0x10A, exited := 0xC0 }
     hereOf s fun h => h.free s g7 [] [] && h.wp.handler.isSome && h.run.last && !(h.part g7).isEmpty && !bit h.wp.tcause 9 &&
       bit (handler false).entered 0 && !bit h.wp.exited 0 && bit h.wp.exited 7 && !bit (handler false).entered 8) = true ∧
    (hereOf base fun h => h.wp.handler.isNone) = true := by decide

theorem witness_SpecialRegisters : (hereOf base fun h => h.free base g7 [(254, 2)] [] && h.free base g7 [opd2 254] [] && h.free base g7 [opd1 255] [] &&
    !(h.part g7).isEmpty && decide (h.nat 255 ((h.part g7).headD 0) ≤ h.b.rcd.privWords) && h.wp.handler.isNone) = true ∧
    (let s := withWarp (lane 0 [(2, 0, 1)]) fun w => { w with handler := some (handler false) }
     hereOf s fun h => h.free s g7 [opd1 2] [] && decide (h.b.rcd.privWords < h.nat 2 ((h.part g7).headD 0)) && h.wp.handler.isSome && h.free s g7 [opd2 2] []) =
    true := by decide

theorem witness_SystemInstructions : (hereOf base fun h => h.free base g7 [] [] && !(h.part g7).isEmpty && !h.b.preempt && h.free base g7 [opd2 2] [] &&
    (h.part g7).all fun l => decide (h.pair 2 l < 2 ^ 57)) = true ∧
    (let s := withBlock (withWarp base fun w => { w with handler := some (handler true) }) fun b => { b with preempt := true }
     hereOf s fun h => h.free s g7 [] [] && h.wp.handler == some (handler true) && h.b.preempt && !(h.part g7).isEmpty) = true ∧
    (let s := lane 0 [(3, 0, 0x2000000)]
     hereOf s fun h => h.free s g7 [opd2 2] [] && (h.part g7).any fun l => decide (2 ^ 57 ≤ h.pair 2 l)) = true := by decide +kernel

end Sys2Proof.Tests
end

