-- ==== Sys2Proof/Tests/Witness2.lean ====
section
/-! SUPPORT. The same for the statements about memory instructions of a warp. -/

namespace Sys2Proof.Tests

set_option Elab.async false

open Sys2Proof Sys2Proof.Machine

/-- A page of 16 KiB at VA 2^30 and RA 2^20 whose home is stack 0 of die 0, with every permission and in the core's TLB. -/
def va0 : Nat := 2 ^ 30
def ra0 : Nat := 2 ^ 20
def home0 : Entry := ⟨ra0 / 2 ^ 14, 42, .active, true, false, mkHolder 0 0 0, 10, .here, 0, 1⟩
def mapped (s : State) : State :=
  { s with cores := [(0, { Core.reset with tlb := [⟨0, va0, 1, ra0, 0x3E, 0⟩] })]
           pkg := { s.pkg with livemap := 0xFF, powered := true }, engines := [(0, ⟨[home0], [], 0, 0, []⟩)] }
/-- The same page in page tables of four levels, for the package's own agents. -/
def tabled (s : State) : State :=
  let ptr := fun (t : Nat) => BitVec.ofNat 64 (2 ^ 63 + t / 2 ^ 10 * 2 ^ 16)
  let t := fun (k : Nat) => 2 ^ 30 + 1024 * k
  ({ mapped s with ptes := [(t 0 / 8, ptr (t 1)), (t 1 / 8 + 4, ptr (t 2)), (t 2 / 8, ptr (t 3)),
      (t 3 / 8, BitVec.ofNat 64 (2 ^ 63 + 2 ^ 62 + ra0 / 2 ^ 14 * 2 ^ 20 + 0x3E * 2 ^ 14))] } : State).modCtx 0 fun c => { c with rootRa := 2 ^ 30 }
/-- One thread's address pair. -/
def pointing (s : State) (r : Nat) (f : Nat → Nat) : State :=
  (filled s r fun l => BitVec.ofNat 32 (f l)).modWarp 0 0 fun w => (List.range 32).foldl (fun (w : Warp) l => w.setReg (r + 1) l (BitVec.ofNat 32 (f l / 2 ^ 32))) w
/-- A request of the core's for bytes of that page. -/
def aReq (acc : Acc) (rt : ReqTy) (ra : Nat) (bs : List Byte) : Req :=
  { acc := acc, agent := .stream 0 (.warp 0), ctx := 0, die := 0, core := some 0, va := va0 + (ra - ra0), ra := ra, len := bs.length, req := rt, wide := false, lane := 0
    bytes := bytesAt ra bs, at' := 0, op := none, aop := none, round := 0, why := .unrouted, noted := false, poison := 0 }
/-- A clean line of that page in the L1, holding its first eight bytes. -/
def aLine : Line :=
  { ty := .si, wide := false, holder := 0, tag := 0, data := bytesAt 0 [1, 2, 3, 4, 5, 6, 7, 8], dirty := 0, own := 0, poison := [] }
def cached (s : State) : State := s.modCore 0 fun c => { c with l1 := [(ra0 / 128, aLine)] }

/-- Sixteen bytes up to the last of the scratchpad, all granules full or all empty. -/
theorem witness_ScratchpadAccesses :
    (let s := (filled base 2 fun _ => 4096 - 16).setFull true [keySpad 0 4080 / 16]
     hereOf s fun h => h.acts s g7 l43 [(4, 4), opd1 2] && h.inPad s .core g7 2 0 16 && h.inPad s .chip g7 2 0 16 && h.inPad s .cluster g7 2 0 16 &&
       s.feReady h.run.fe (grsOf (h.keys s .core g7 2 0 16) 16) true && !s.loading h.uid (.warp h.w) &&
       (grsOf (h.keys s .core g7 2 0 16) 16).all fun k => s.isFull k && tgetD s.poison k 0 == 0) = true ∧
    (let s := filled base 2 fun _ => 4096 - 16
     let u := withWarp s fun w => { w with runs := w.runs.map fun r => { r with relDone := true } }
     let done := fun (x : Except State State) => match x with | .ok _ => true | .error _ => false
     (hereOf s fun h => s.feReady h.run.fe (grsOf (h.keys s .core g7 2 0 16) 16) false && done (s.releaseFirst h false)) &&
       hereOf u fun h => h.acts u g7 l43 [(4, 4), opd1 2] && h.inPad u .chip g7 2 0 16 &&
         u.feReady h.run.fe (grsOf (h.keys u .chip g7 2 0 16) 16) false && done (u.releaseFirst h true)) = true ∧
    (let s := lane 0 [(2, 31, 4081)]
     hereOf s fun h => h.acts s g7 l43 [(4, 4), opd1 2] && !h.inPad s .core g7 2 0 16) = true ∧
    (hereOf base fun h => h.acts base g7 l43 [(4, 4), opd1 2] && h.inPad base .core g7 2 0 16 &&
       (grsOf (h.keys base .core g7 2 0 16) 16).any (fun k => base.isFull k != true) &&
       !base.feReady h.run.fe (grsOf (h.keys base .core g7 2 0 16) 16) true) = true ∧
    (let s := { withWarp base fun w => { w with runs := w.runs.map fun r => { r with fe := some ⟨0, [8], true⟩ } } with full := [(8, true), (9, true)] }
     let m : FeWait := ⟨1, [8, 9], true⟩
     s.feWaiting.any (fun x => decide (x.since < m.since) && x.full && x.grs.any fun k => m.grs.contains k && s.isFull k) &&
       !s.feReady (some m) m.grs true) = true := by decide +kernel

/-- The threads' words up to the last of the page; a high address in one thread; private words 0 to 7, and one beyond. -/
theorem witness_RoutedLoadsAndStores :
    (let s := pointing (mapped base) 2 fun l => va0 + 2 ^ 14 - 4 * (l + 1)
     hereOf s fun h => h.acts s g7 l43 [(4, 1), opd2 2] && ((h.part g7).all fun j => decide (h.eaMod 2 0 j < 2 ^ 57)) &&
       match s.translate 0 (h.who 0) permRd (touchesOf (h.part g7) (h.eaMod 2 0) 4), s.translate 0 (h.who 1) permWr (touchesOf (h.part g7) (h.eaMod 2 0) 4) with
       | .ok l, .ok ras =>
         let each := ((touchesOf (h.part g7) (h.eaMod 2 0) 4).zip l).map fun x => { h.req .load .si false x.1 x.2 with at' := x.1.lane * 16 }
         let rs := storeReqs h (h.part g7) .b32 .nc true 4 (h.eaMod 2 0) ras
         coalesced (h.part g7) (h.eaMod 2 0) 4 && !(s.prepare 0 false (asLine each)).2 && !(s.prepare 0 true rs).2 &&
           rs.all fun r => !(s.prepare 0 true rs).1.unlanded 0 r.ra r.len
       | _, _ => false) = true ∧
    (let s := lane 0 [(3, 31, 0x2000000)]
     hereOf s fun h => h.acts s g7 l43 [(4, 1), opd2 2] && (h.part g7).any fun j => decide (2 ^ 57 ≤ h.eaMod 2 0 j)) = true ∧
    (let s := (filled (mapped base) 2 fun l => BitVec.ofNat 32 (l % 8)).modBlock 0 fun b => { b with
        rcd := { b.rcd with privWords := 8, privBase := BitVec.ofNat 64 va0 }, warps := tmap (fun _ w => { w with stklim := 8 }) b.warps }
     hereOf s fun h => h.acts s g7 l43 [opd1 4, opd1 2] && ((h.part g7).all fun j => h.privIn 2 0 j && decide (h.privEa 2 0 j < 2 ^ 57)) &&
       !(h.part g7).all fun j => h.privIn 2 1 j) = true := by decide +kernel

theorem witness_StoresAndCaches :
    (let s := cached (mapped base)
     let r := aReq .load .si (ra0 + 4) [0, 0, 0, 0]
     match s.line? 0 (r.ra / 128) with
     | some ln => ln.tag == s.tagOf r.ctx && ln.has (r.ra % 128) r.len && ln.poisonIn (r.ra % 128) r.len == 0
     | none => false) = true ∧
    (let s := (mapped base).modCore 0 fun c => { c with l1 := [(ra0 / 128, { aLine with poison := [(0, 7)] })] }
     let r := aReq .load .si (ra0 + 4) [0, 0, 0, 0]
     match s.line? 0 (r.ra / 128) with | some ln => ln.has (r.ra % 128) r.len && ln.poisonIn (r.ra % 128) r.len == 7 | none => false) = true ∧
    (let s := (mapped base).modCore 0 fun c => { c with l1 := [(ra0 / 128, { aLine with tag := 1024 })] }
     let r := aReq .load .own (ra0 + 4) [0, 0, 0, 0]
     match s.line? 0 (r.ra / 128) with | some ln => ln.tag != s.tagOf r.ctx | none => false) = true ∧
    (let s := cached (mapped base)
     let r := aReq .store .si (ra0 + 124) [9, 9, 9, 9]
     s.resolveFor r false true == .toward home0 && !s.promotes home0.holder r.ra && decide (r.bytes.map fun kv => kv.1 % 128).Nodup &&
       decide (0 < s.l1Lines 0) && match tget? s.cores 0 with | some c => c.l1.all (fun kv => kv.2.tag == s.tagOf r.ctx) | none => false) = true ∧
    (let s := mapped base
     let r := aReq .store .nc (ra0 + 2 ^ 14 - 4) [9, 8, 7, 6]
     r.acc == .store && r.aop.isNone && s.resolveFor r false true == .toward home0 && !s.promotes home0.holder r.ra && !s.paused home0.holder r.ra &&
       s.arrival home0 == some home0 && home0.receives && !home0.lock && r.poison == 0 && s.others home0 == [] &&
       (tget? s.locks (r.ra / 128)).isNone && (s.cores.all fun kc => kc.2.l1.isEmpty) && decide (r.bytes.map Prod.fst).Nodup &&
       decide (r.bytes.map fun kv => s.keyAt home0.holder kv.1).Nodup) = true := by decide +kernel

theorem witness_LoadsLeaveMemory :
    (let s := pointing (cached (mapped base)) 2 fun l => va0 + 4 * l
     (s.cores.all fun kc => kc.2.l1.all fun ln => ln.2.dirty == 0 && ln.2.own == 0) && goesOn (.ld g7 l43 .b32 .si .block .none 4 2 0) s) = true := by decide +kernel

theorem witness_Atomics :
    (let s := pointing (mapped base) 2 fun l => va0 + 4 * l
     hereOf s fun h => h.acts s g7 l43 [(4, 1), opd2 2, (6, aopRegs .add .b32)] && highLanes (h.part g7) (h.eaMod 2 0) == 0 &&
       ((h.part g7).all fun j => h.eaMod 2 0 j % 4 == 0) && sameAddr (h.part g7) (h.eaMod 2 0) 4 == 0 &&
       match s.translate 0 (h.who 2) (permRd ||| permWr ||| permAt) ((h.part g7).map fun j => (⟨j, h.eaMod 2 0 j, 4⟩ : Touch)) with
       | .ok ras => ras.all fun ra => !s.unlanded 0 ra 4
       | .error _ => false) = true ∧
    (let s := pointing (mapped base) 2 fun l => va0 + 2 * l
     hereOf s fun h => h.acts s g7 l43 [(4, 1), opd2 2, (6, 1)] && highLanes (h.part g7) (h.eaMod 2 0) == 0 && (h.part g7).any fun j => h.eaMod 2 0 j % 4 != 0) = true ∧
    (let s := pointing (mapped base) 2 fun _ => va0
     hereOf s fun h => h.acts s g7 l43 [(4, 1), opd2 2, (6, 1)] && ((h.part g7).all fun j => h.eaMod 2 0 j % 4 == 0) && sameAddr (h.part g7) (h.eaMod 2 0) 4 != 0) = true ∧
    (let s := pointing (mapped base) 2 fun _ => 2 ^ 57
     hereOf s fun h => h.acts s g7 l43 [(4, 1), opd2 2, (6, 1)] && highLanes (h.part g7) (h.eaMod 2 0) != 0) = true ∧
    (let s := filled base 2 fun l => BitVec.ofNat 32 (4096 - 8 * (l + 1))
     hereOf s fun h => h.acts s g7 l43 [(4, 2), opd1 2, (6, aopRegs .cas .b64)] && h.inPad s .core g7 2 0 8 &&
       ((h.part g7).all fun j => (h.addr 2 0 j).toNat % 8 == 0) && sameAddr (h.part g7) (fun j => (h.addr 2 0 j).toNat) 8 == 0 &&
       (grsOf (h.keys s .core g7 2 0 8) 8).all fun k => tgetD s.poison k 0 == 0) = true := by decide +kernel

theorem witness_LaneFences : (let s := cached (mapped base)
    hereOf s fun h => h.acts s g7 ⟨0, none⟩ [] && !s.loading h.uid (.warp h.w) && !s.streamOut h.b.coreNo h.uid (.warp h.w) && isWide .pkg && !isWide .block &&
      (match tget? s.cores h.b.coreNo with | some c => decide ((c.rels.map fun r => r.round).eraseDups.length < 4) | none => false) &&
      (tget? (s.cleanCore h.b.coreNo).cores h.b.coreNo).isSome) = true ∧
    (let s := mapped base
     let r := backReq 0 0 (bytesAt ra0 [1]) none 0 0
     let s := { s with reqs := [(5, { r with agent := .stream 0 (.warp 0) })] }
     hereOf s fun h => h.acts s g7 ⟨0, none⟩ [] && !s.loading h.uid (.warp h.w) && s.streamOut h.b.coreNo h.uid (.warp h.w)) = true := by decide +kernel

theorem witness_CacheControl : (let s := pointing (cached (mapped base)) 2 fun _ => va0
    hereOf s fun h => h.acts s g7 l43 [] && h.acts s g7 l43 [opd2 2] && s.peek h.b.coreNo h.b.ctx (h.eaMod 2 0 0) == some (ra0, 0x3E) &&
      (s.peek h.b.coreNo h.b.ctx (va0 + 2 ^ 14)).isNone) = true := by decide +kernel

/-- A queue with one broadcast entry, an empty one and a full one. -/
theorem witness_LaneQueues : (let e : QEntry := ⟨1, [], 63, 0, true⟩
    let s := withBlock base fun b => { b with queues := [(3, [e]), (4, List.replicate 16 e)] }
    hereOf s fun h => h.acts s g7 l43 [opd1 255] && !s.loading h.uid (.warp h.w) && !s.streamOut h.b.coreNo h.uid (.warp h.w) && h.b.popFor 3 h.w == some e && e.ready && decide ((tgetD h.b.queues 3 []).length < 16) &&
      (h.b.popFor 15 h.w).isNone && decide (16 ≤ (tgetD h.b.queues 4 []).length)) = true := by decide

end Sys2Proof.Tests
end

