-- ==== Sys2Proof/Tests/Witness3.lean ====
section
/-! SUPPORT. The same for the statements about the sequencer, its engines and the copy engine's chains. -/

namespace Sys2Proof.Tests

set_option Elab.async false

open Sys2Proof Sys2Proof.Machine

/-- The prepared block whose sequencer stands at the last word of a clause, and what holds of it there. -/
def sbase : State := seqr (word 0x302 [(50, 7), (40, 1), (34, 2), (28, 3)]) []
def seqOf (s : State) (f : SHere → Bool) : Bool := match s.seqHere? with | some h => f h | none => false
/-- An s register set. -/
def sreg (s : State) (r : Nat) (v : W64) : State := s.modSeq 0 fun q => q.put r v
/-- A generator set. -/
def sgen (s : State) (k : Nat) (g : Gen) : State := s.modSeq 0 fun q => q.setGen k g

/-- Extents at 32,767; indices at, and one beyond, an extent. -/
theorem witness_SequencerScalars :
    (let s := sgen (sreg (sreg sbase 1 32767) 2 32768) 3 ⟨0, [0, 0, 0, 0], [16383, 0, 0, 0], [0, 0, 0, 0], false⟩
     seqOf s fun h => h.free s [63, 1, 0, 62] && decide (((h.get 1).extractLsb' 0 16).toNat ≤ 32767) && decide (32767 < ((h.get 2).extractLsb' 0 16).toNat) &&
       ([(16383 : BitVec 16), 0, 0, 0].zip (h.b.seq.gen 3).ext).all (fun x => decide (x.1.toNat ≤ x.2.toNat)) &&
       ([(16384 : BitVec 16), 0, 0, 0].zip (h.b.seq.gen 3).ext).any (fun x => decide (x.2.toNat < x.1.toNat)) &&
       (h.b.seq.gen 3).idx == [0, 0, 0, 0]) = true := by decide

/-- Branches taken and not, to a header and to a word that is none; counts of 1,025 and 1,026; a barrier that has one thread to come. -/
theorem witness_SequencerControl :
    (let s := (sreg (sreg sbase 1 1025) 2 1026).modCore 0 fun c => { c with icache := [(1, aHeader), (2, word 0x302 [(50, 7)])] }
     seqOf s fun h => h.free s [1] && h.free s [2] && h.run.last && h.get 0 == 0 && h.get 1 != 0 && decide (1025 < (h.get 2).toNat) && decide ((h.get 1).toNat ≤ 1025) &&
       (match (s.checkSeqTarget h h.run.va).1 with | .ok => true | _ => false) && (match (s.checkSeqTarget h (h.run.va + 1)).1 with | .bad => true | _ => false) &&
       (tget? h.b.seq.arr 3).isNone && !h.b.seq.inPre && !h.b.preempt && s.here?.isNone) = true ∧
    (let s := sbase.modSeq 0 fun q => { q with arr := [(3, true)] }
     seqOf s fun h => h.free s [] && (tget? h.b.seq.arr 3).isSome) = true ∧
    (let b := { Block.probe true 0 4 with bars := [(3, ⟨false, 33, 33⟩), (4, ⟨true, 0, 32⟩)] }
     decide (b.expected 3 ≤ 33) && decide (32 < b.expected 4) && (tget? b.seq.arr 3).isNone) = true ∧
    (let s := mapped sbase
     seqOf s fun h => h.acts s l43 [] && !s.loading h.uid .seq && !s.commandsOut h.uid && !s.streamOut h.b.coreNo h.uid .seq) = true ∧
    (let s := { mapped sbase with reqs := [(5, { backReq 0 0 (bytesAt ra0 [1]) none 0 0 with agent := .stream 0 .seq })] }
     seqOf s fun h => h.acts s l43 [] && h.free s [1] && !s.commandsOut h.uid && s.streamOut h.b.coreNo h.uid .seq) = true ∧
    (let s := { sbase with ops := [(1, anOp .seq [(5, 0)] (.scalar .i32 5) 1)] }
     seqOf s fun h => h.free s [] && (tget? h.b.seq.arr 3).isNone && s.loading h.uid .seq) = true ∧
    (let s := (sbase.modSeq 0 fun q => { q with inPre := true }).modBlock 0 fun b => { b with preempt := true }
     seqOf s fun h => h.free s [] && h.b.seq.inPre && h.run.last && h.b.preempt) = true ∧ (base.here?).isSome = true := by decide +kernel

/-- The last eight bytes of the page; queue 3 with an entry of tag 0, queue 4 full. -/
def queued (s : State) : State := s.modBlock 0 fun b => { b with
  queues := [(3, [⟨1, (List.range 32).map fun i => BitVec.ofNat 32 i, 0, 0, true⟩]), (4, List.replicate 16 ⟨1, [], 63, 0, true⟩)] }
theorem witness_SequencerMemory :
    (let s := sreg (queued (mapped sbase)) 1 (BitVec.ofNat 64 (va0 + 2 ^ 14))
     seqOf s fun h => h.acts s l43 [63, 1] && h.acts s l43 [] && decide (h.ea .n64 1 0xFF < 2 ^ 57) &&
       (match s.translate h.b.coreNo (h.who 0) permRd (seqTouches (h.ea .n64 1 0xFF) 8), s.translate h.b.coreNo (h.who 1) permWr (seqTouches (h.ea .n64 1 0xFF) 8) with
        | .ok l, .ok ras => !(s.prepare h.b.coreNo false (h.loads .load .si .dom ((seqTouches (h.ea .n64 1 0xFF) 8).map fun t => (t, t.va - h.ea .n64 1 0xFF)) l)).2 &&
            ras.all fun ra => !s.unlanded h.b.coreNo ra 8
        | _, _ => false) && !s.streamOut h.b.coreNo h.uid .seq && !s.loading h.uid .seq && !tagBad h.b 0 && !tagBad h.b 63 && decide ((tgetD h.b.queues 3 []).length < 16) && decide (16 ≤ (tgetD h.b.queues 4 []).length) &&
       (match h.b.select 3 63 with | some e => e.ready | none => false) && (h.b.select 5 63).isNone && qRouted .gather && !qRouted .sgather) = true ∧
    (let s := sreg sbase 1 (2 ^ 57)
     seqOf s fun h => decide (2 ^ 57 ≤ h.ea .n64 1 0) && h.acts s l43 [63, 1]) = true ∧
    (let s := sgen (sreg (mapped sbase) 1 0) 3 ⟨BitVec.ofNat 64 va0, [4, 0, 0, 0], [31, 0, 0, 0], [0, 0, 0, 0], false⟩
     seqOf s fun h => (qSpans .gather (h.b.seq.gen 3)).all fun x => decide (x.2.1 < 2 ^ 57)) = true ∧
    (let s := (sgen (queued sbase) 3 ⟨4096 - 128, [0, 0, 0, 0], [0, 0, 0, 0], [0, 0, 0, 0], false⟩).setFull true ((List.range 8).map fun i => (keySpad 0 (4096 - 128)) / 16 + i)
     seqOf s fun h => match s.spanKeys h.b (qSpans .sline (h.b.seq.gen 3)) with
       | some ks =>
         let grs := (ks.flatMap fun x => granules x.2.1 x.2.2).eraseDups
         s.feReady h.run.fe grs true && !s.loading h.uid .seq && !s.streamOut h.b.coreNo h.uid .seq && grs.all fun k => tgetD s.poison k 0 == 0
       | none => false) = true ∧
    (let s := sgen (queued sbase) 3 ⟨4096 - 128, [0, 0, 0, 0], [0, 0, 0, 0], [0, 0, 0, 0], false⟩
     seqOf s fun h => match s.spanKeys h.b (qSpans .sline (h.b.seq.gen 3)) with
       | some ks => s.feReady h.run.fe (ks.flatMap fun x => granules x.2.1 x.2.2).eraseDups false
       | none => false) = true ∧
    (let s := { queued sbase with ops := [(1, anOp .seq [(5, 0)] (.scalar .i32 5) 0), (2, anOp .seq [] (.entry 3 1) 0)] }
     (match tget? s.ops 1 with | some o => !s.queuedBehind 1 o | none => false) && (tget? s.ops 2).isSome && match s.block? 0 with | some b => (tgetD b.queues 3 []).any fun x => x.id == 1 | none => false) = true := by
  decide +kernel

/-- A chain's op and chain. -/
def aChain (running : Bool) : Chain := ⟨64, 0, [], 0, 0, 0, 0, running, 0x5001, 1, false, false, 0, false, []⟩
def chained (s : State) (ch : Chain) (bs got : List Byte) : State :=
  let s := s.wrN 0 (keySpad 0 (ch.base + 64 * ch.idx)) bs
  ({ s with ops := [(1, { anOp .seq [] (.chain 2) 1 with got := bytesAt 0 got })], next := 2 }).modBlock 0 fun b => { b with chains := [(2, ch)] }

/-- A consumer with one of two records popped, its node, a contribution's words and ready flag, a launch record. -/
theorem witness_EngineInstructions :
    (let s := sreg (sreg sbase 1 4032) 2 4096
     seqOf s fun h => h.acts s l43 [1] && h.acts s l43 [2] && h.acts s l43 [63, 1] && (h.get 1).toNat % 64 == 0 && decide ((h.get 1).toNat < h.b.rcd.scratch) &&
       decide (h.b.rcd.scratch ≤ (h.get 2).toNat) && (tget? h.b.chains 2).isNone && (h.b.chains.all fun kv => !kv.2.running) && !s.collBusy h.uid h.b 3 &&
       h.b.consumer.isNone) = true ∧
    (let s := chained sbase (aChain true) [] []
     seqOf s fun h => h.acts s l43 [] && tget? h.b.chains 2 == some (aChain true)) = true ∧
    (let s := chained sbase (aChain false) [] []
     seqOf s fun h => h.acts s l43 [5] && tget? h.b.chains 2 == some (aChain false) && (h.b.chains.all fun kv => !kv.2.running) && (aChain false).status.toNat % 256 != 0) = true ∧
    (let s := sreg (mapped sbase) 1 (BitVec.ofNat 64 (va0 + 2 ^ 14 - 256))
     seqOf s fun h => h.acts s l43 [63, 1] && (h.get 1).toNat % 256 == 0 && decide ((h.get 1).toNat < 2 ^ 57) &&
       [true, false].all (fun cmd => match s.translate h.b.coreNo (h.reader cmd) permRd (seqTouches (h.get 1).toNat 256) with
        | .ok ras => !(s.prepare h.b.coreNo false (h.reads cmd .own ((seqTouches (h.get 1).toNat 256).map fun t => (t, t.va - (h.get 1).toNat)) ras)).2
        | .error _ => false) && (s.relStart h.uid h.b.coreNo true .dom).isSome && !s.loading h.uid .seq) = true ∧
    (let s := sreg (sreg (sreg (sreg (mapped sbase) 1 (2 ^ 32 + 2)) 2 0) 3 (BitVec.ofNat 64 va0)) 4 (BitVec.ofNat 64 (va0 + 2 ^ 14 - 8))
     seqOf s fun h => h.acts s l43 [1, 2, 3, 4] && (h.get 1).toNat % 2 ^ 32 != 0 && decide ((h.get 1).toNat < 2 ^ 44) && (h.get 3).toNat % 128 == 0 && (h.get 4).toNat % 8 == 0 &&
       (match s.translate h.b.coreNo (h.who 2) (permRd ||| permWr ||| permAt) [⟨0xFF, (h.get 3).toNat, 128⟩, ⟨0xFF, (h.get 4).toNat, 8⟩] with
        | .ok ras => ras.length == 2
        | .error _ => false) &&
       (let s0 := s.dropLine h.b.coreNo (ra0 / 128) none
        match s0.padKey h.b .core ((h.get 2).toNat : Int) 128 with
        | some k => s.padKey h.b .core ((h.get 2).toNat : Int) 128 == some k && (s0.rowsPoison [k] 128).isNone && (s0.relStart h.uid h.b.coreNo false .dom).isSome
        | none => false)) = true ∧
    (let s := (({ sbase with ops := [(1, anOp .seq [(5, 0)] (.launch va0) 0)] } : State).modCtx 0 fun c => { c with dlaunch := false })
     (match tget? s.ops 1 with | some o => !s.queuedBehind 1 o | none => false) &&
     (match s.block? 0 with | some b => b.active && (match tget? s.ctxs b.ctx with | some x => !x.dlaunch | none => false) | none => false)) = true ∧
    (let s := sreg (queued (mapped sbase)) 1 (BitVec.ofNat 64 va0)
     seqOf s fun h => h.acts s l43 [5, 1, 2, 3] && !tagBad h.b 63 && !s.under h.uid Fin'.readsTable && !s.loading h.uid .seq &&
       match h.b.select 3 63 with | some e => e.ready && (recordLanes e).all fun x => decide (((h.get 1).toNat + 8 * x.2.1) % 2 ^ 64 < 2 ^ 57) | none => false) = true ∧
    (let n : Node := { kind := 2, waits := 0, rcd := Rec.probe, succ := [], ringVa := BitVec.ofNat 64 va0, ctlVa := 64, slotB := 16, cap := 4, tile := 2, homeDie := 0, pfDest := 0, flush := 0
                       pfLen := 0, pfSrc := 0, pfDst := 0, tokens := 0, started := true, done := false, free := 2, filled := 0, head := 0, tail := 2, used := 2, slots := [], armed := false
                       pfWant := false, pfOp := none, consumers := 1 }
     let s := sreg ({ sbase with graphs := [(7, ⟨0, 0, 0, [(0, n)]⟩)] } : State) 1 64
     let t := s.modBlock 0 fun b => { b with consumer := some ⟨7, 0, 3, 2, 1, 0⟩ }
     let u := s.modBlock 0 fun b => { b with consumer := some ⟨7, 0, 3, 2, 2, 0⟩ }
     seqOf t (fun h => h.acts t l43 [5, 1] && h.b.consumer == some ⟨7, 0, 3, 2, 1, 0⟩ && (match t.node? 7 0 with | some x => x.2.ctlVa == h.get 1 | none => false)) &&
       seqOf u (fun h => h.acts u l43 [5, 1] && h.b.consumer == some ⟨7, 0, 3, 2, 2, 0⟩)) = true := by decide +kernel

/-- Entry bytes by field: byte, length, value. -/
def entry (fs : List (Nat × Nat × Nat)) : List Byte := fs.foldl (fun bs f => bs.take f.1 ++ natLe f.2.1 f.2.2 ++ bs.drop (f.1 + f.2.1)) (List.replicate 64 0)
/-- COPY of one row of 16 bytes from the last 16 of the core scratchpad to the first of the die's; QUANT of 32 words. -/
def copyE : List Byte := entry [(0, 1, 1), (1, 1, 1), (2, 1, 2), (4, 4, 1), (8, 8, 4080), (16, 8, 0), (24, 4, 16)]
def quantE : List Byte := entry [(0, 1, 2), (1, 1, 1), (2, 1, 2), (4, 4, 1), (8, 8, 3968), (16, 8, 0), (24, 4, 128)]
def loopE : List Byte := entry [(0, 1, 3), (4, 2, 0), (8, 4, 2), (16, 8, 16), (24, 8, 16)]
def condE (kind : Nat) : List Byte := entry [(0, 1, 4), (3, 1, 3), (4, 1, kind), (5, 1, 2), (6, 2, 3 * kind), (8, 8, 8), (16, 8, 5), (24, 8, 255)]
def signalE : List Byte := entry [(0, 1, 5), (3, 1, 3), (4, 1, 1), (8, 8, va0 + 2 ^ 14 - 8), (16, 8, 1)]
def atE (s : State) (kind : Nat) (p : Block → Chain → List Byte → Bool) : Bool := match s.chain? 0 2 with
  | some (b, ch) => match s.entryBytes b ch with | some bs => (s.entryPoison b ch).isNone && efld bs 0 1 == kind && p b ch bs | none => false
  | none => false
def rowE (s : State) (quant : Bool) (n m : Nat) : Bool := atE s (if quant then 2 else 1) fun b ch bs =>
  b.copyOk ch bs quant && (match tget? s.ops ch.op with | some o => o.got == [] && o.bad == 0 | none => false) && ch.row == 0 && ch.piece == 0 && !ch.reading && efld bs 4 4 == 1 &&
    efld bs 1 1 != 0 && efld bs 2 1 != 0 && n == efld bs 24 4 && m == rowOut quant n &&
    match s.padKey b (padOf (efld bs 1 1)) ((efld bs 8 8 : Int) + ch.os) n, s.padKey b (padOf (efld bs 2 1)) ((efld bs 16 8 : Int) + ch.od) m with
    | some ks, some kd => ((List.range (n / 16)).all fun j => tgetD s.poison ((ks + 16 * j) / 16) 0 == 0) && (quant || decide (ks + n ≤ kd ∨ kd + m ≤ ks))
    | _, _ => false
theorem witness_ChainEntries :
    (rowE (chained sbase (aChain true) copyE []) false 16 16 && rowE (chained sbase (aChain true) quantE []) true 128 64) = true ∧
    (atE (chained sbase (aChain true) (entry [(0, 1, 1)]) []) 1 fun b ch bs => !b.copyOk ch bs false && ch.row == 0 && ch.piece == 0 && !ch.reading) = true ∧
    (atE (chained sbase (aChain true) (entry [(0, 1, 2)]) []) 2 fun b ch bs => !b.copyOk ch bs true) = true ∧
    (atE (chained sbase { aChain true with idx := 1 } loopE []) 3 fun _ ch bs => loopOk ch bs && decide (tgetD ch.counts ch.idx 0 < efld bs 8 4)) = true ∧
    (atE (chained sbase { aChain true with idx := 1, counts := [(1, 2)] } loopE []) 3 fun b ch bs => loopOk ch bs && decide (efld bs 8 4 ≤ tgetD ch.counts ch.idx 0) &&
      b.entryIn ch (ch.idx + 1)) = true ∧
    (atE (chained sbase (aChain true) loopE []) 3 fun _ ch bs => !loopOk ch bs) = true ∧
    (atE (chained sbase (aChain true) (entry [(0, 1, 4), (5, 1, 9)]) []) 4 fun _ ch bs => !condOk ch bs) = true ∧
    ([([4, 0, 0, 0, 0, 0, 0, 0], 0, false), ([4, 0, 0, 0, 0, 0, 0, 0], 1, false), ([5, 0, 0, 0, 0, 0, 0, 0], 0, true), ([5, 0, 0, 0, 0, 0, 0, 0], 1, true)].all fun x =>
      let s := chained sbase (aChain true) (condE x.2.1) x.1
      atE s 4 fun b ch bs => condOk ch bs && !ch.expired && s.chainGot ch != [] && efld bs 4 1 == x.2.1 && b.entryIn ch (ch.idx + 1) && b.entryIn ch (efld bs 6 2) &&
        waitCond (efld bs 5 1) (leNat ((List.range 8).map fun j => tgetD (s.chainGot ch) j 0) &&& efld bs 24 8) (efld bs 16 8 &&& efld bs 24 8) == x.2.2) = true ∧
    (atE (chained sbase { aChain true with reading := true } (entry [(0, 1, 4), (3, 1, 3), (5, 1, 2), (8, 8, 8), (32, 4, 1)]) []) 4 fun _ ch bs =>
      condOk ch bs && efld bs 4 1 == 0 && efld bs 32 4 != 0 && ch.reading && !ch.expired) = true ∧
    (let s := chained (mapped sbase) (aChain true) signalE []
     atE s 5 fun b ch bs => signalOk bs && b.entryIn ch (ch.idx + 1) && s.chainLanded ch &&
      match (s.latch 0 2 bs).translate b.coreNo (b.engineWho 0 5 ch.word) (permRd ||| permWr ||| permAt) [⟨0xFF, efld bs 8 8, 8⟩] with
      | .ok [ra] => !((s.latch 0 2 bs).dropLine b.coreNo (ra / 128) none).unlanded b.coreNo ra 8
      | _ => false) = true ∧
    (let s := { chained sbase (aChain true) signalE [] with ops := [(1, anOp .seq [] (.chain 2) 2)] }
     atE s 5 fun _ ch _ => !s.chainLanded ch) = true ∧
    (let s := chained sbase (aChain true) (entry []) []
     atE s 0 fun _ ch bs => bs.all (· == 0) && s.chainLanded ch) = true ∧
    (atE (chained sbase (aChain true) (entry [(63, 1, 1)]) []) 0 fun _ _ bs => bs.any (· != 0)) = true := by decide +kernel

/-- A line in the accumulator's store of die 0, a contribution that is the last of two, and a collective of two parts. -/
def aLineState (n : Nat) : RedcLine := ⟨0, 0, 0, n, 1, [], [], ra0⟩
def aPart (rank : Nat) : Part := ⟨0, rank, rank, va0 + 128 * rank, [1, 0, 0, 0], 9, 0⟩
def aColl (parts : List Part) (op : Option Nat) (oper : Nat) : Coll := ⟨0, oper, 2, 4, 0, mkHolder 0 0 0, parts, parts.map Part.rank, none, op⟩
theorem witness_ContributionsAndCollectives :
    ([(2, true), (3, false)].all fun x =>
      let c : Contribution := ⟨0, 0, 0, ra0, 0, x.1, List.replicate 32 0, ra0, 1, 0, 0⟩
      let s := { tabled sbase with contribs := [(1, c)], redcs := [(ra0 / 128, aLineState x.1)], ops := [(1, anOp .seq [] (.redc ra0 ra0 0 x.1) 1)] }
      match s.pieceAt (.engine c.uid) c.ctx c.die 0 c.line 128 true false with
      | (.ok e, s1) => !s1.badAdders.contains (mkHolder s1.pkg.device (holderDie e.holder) 3) && tget? s1.redcs (c.line / 128) == some (aLineState x.1) &&
          decide ((aLineState x.1).n ≤ (aLineState x.1).count + 1) == x.2
      | _ => false) = true ∧
    ((List.replicate 32 (0 : W32)).length == 32) = true ∧
    (let s := { tabled sbase with colls := [(1, aColl [aPart 0, aPart 1] none 0), (2, aColl [aPart 0, aPart 1] none 5), (3, aColl [aPart 0, aPart 1] (some 9) 0), (4, aColl [aPart 0] none 0)] }
     (match tget? s.colls 1 with
      | some c => c.outcome.isNone && c.parts.length == c.npart && c.op.isNone && c.result != [] && (s.reachParts c.ctx (holderDie c.root) c.result.length c.parts []).1.isSome
      | none => false) &&
     (match tget? s.colls 2 with | some c => c.op.isNone && c.result == [] | none => false) && (tget? s.ops 9).isNone &&
     (match tget? s.colls 4 with | some c => decide (c.parts.length < c.npart) && c.parts.any (fun p => p.rank == 0 && p.timeout != 0) | none => false) && (s.block? 0).isSome) = true := by
  decide +kernel

end Sys2Proof.Tests
end

