-- ==== Sys2Proof/Tests/Witness4.lean ====
section
/-! SUPPORT. The same for the statements about routes, tiles and accumulator rows. -/

namespace Sys2Proof.Tests

set_option Elab.async false

open Sys2Proof Sys2Proof.Machine

/-! ### Routes -/

/-- A grant of the page, a quota, all dies and stacks up, and engines as given. s1 points into the page, s2 names stack 1 of die 0. -/
def aGrant : Grant := { va := va0, len := 2 ^ 14, perm := 0x3F, kind := 0, backA := 0, backB := 0, flags := 0, ra := ra0 }
def routed (es : List (Nat × List Entry)) (quota : Nat) : State :=
  let s := (mapped (sreg (sreg sbase 1 (BitVec.ofNat 64 (va0 + 2 ^ 14 - 1))) 2 1)).modCtx 0 fun c => { c with grants := [aGrant], rquota := quota }
  { s with pkg := { s.pkg with livemap := 0xFFFFFF }, engines := es.map fun x => (x.1, ⟨x.2, [], 0, 0, []⟩) }
/-- What a route instruction of length 42 about s1 and s2 finds. -/
def routeOf (s : State) (p : SHere → Nat → Bool) : Bool := seqOf s fun h =>
  h.acts s l43 [63, 1, 2] && decide ((h.get 1).toNat < 2 ^ 57) && decide ((s.rops.filter fun kv => kv.2.uid == some h.uid).length < 8) &&
    match s.translate h.b.coreNo (h.who 6) permRt [⟨0xFF, (h.get 1).toNat, 1⟩] with
    | .ok [ra] => p h ra
    | _ => false
def replica0 (st : EState) : Entry := { home0 with home := false, holder := 1, st := st }
def aRop (kind : RKind) (phase : Nat) (acks : List Nat) : ROp :=
  { kind := kind, uid := none, op := 9, ctx := 0, die := 0, pfx := 64, len := 42, holder := 1, old := 0, lock := false, phase := phase, ver := 1, acks := acks, dst := none, status := 0 }

def s1ok (h : SHere) (ra : Nat) : Bool :=
  let s := routed [] 1
  s.validate h.b.ctx (pfxOf ra 42) 42 (h.get 2) (s.adds (pfxOf ra 42) 42 (h.get 2)) == none && (s.homeNow (pfxOf ra 42) 42).isNone && !s.regenBusy (pfxOf ra 42) 42 && !s.prefixBusy (pfxOf ra 42) 42 &&
    decide (s.topVersion (pfxOf ra 42) 42 < topProgramVersion) && s.hasRoom (h.get 2).toNat 42 && (s.engine 0).longest ra == []

theorem witness_RouteInstructions :
    (routeOf (routed [] 1) fun h ra => s1ok h ra) = true ∧
    (let s := routed [] 0
     routeOf s fun h ra => s.validate h.b.ctx (pfxOf ra 42) 42 (h.get 2) (s.adds (pfxOf ra 42) 42 (h.get 2)) == some 4) = true ∧
    (let s := { routed [(0, [home0])] 2 with regens := [(15, (⟨0, 0, [], 0, false, 0, some 3, 64, 42, 0⟩ : Regen))] }
     routeOf s fun h ra => s.regenBusy (pfxOf ra 42) 42 && s.validate h.b.ctx (pfxOf ra 42) 42 (h.get 2) (s.adds (pfxOf ra 42) 42 (h.get 2)) == none) = true ∧
    (let s := routed [(0, [home0])] 1
     routeOf s fun h ra => s.validate h.b.ctx (pfxOf ra 42) 42 (h.get 2) (s.adds (pfxOf ra 42) 42 (h.get 2)) == none && s.homeNow (pfxOf ra 42) 42 == some home0 &&
       !s.regenBusy (pfxOf ra 42) 42 && (s.entryNow (pfxOf ra 42) 42 (h.get 2).toNat).isNone && holderStore (h.get 2).toNat != 3 && holderStore home0.holder != 3 && !s.prefixBusy (pfxOf ra 42) 42 &&
       decide (s.topVersion (pfxOf ra 42) 42 + 5 ≤ topProgramVersion) && s.hasRoom (h.get 2).toNat 42 && home0.holder != (h.get 2).toNat &&
       s.validate h.b.ctx (pfxOf ra 42) 42 (h.get 0) (s.adds (pfxOf ra 42) 42 (h.get 0)) == none && home0.holder == (h.get 0).toNat) = true ∧
    (let s := { routed [(0, [home0])] 1 with rops := [(1, aRop .withdraw 0 [])] }
     routeOf s fun _ ra => s.prefixBusy (pfxOf ra 42) 42) = true ∧
    ([EState.active, .failed, .filling].all fun st => let s := routed [(0, [home0, replica0 st])] 1
     routeOf s fun h ra => s.validate h.b.ctx (pfxOf ra 42) 42 (h.get 2) 0 == none && s.homeNow (pfxOf ra 42) 42 == some home0 && !s.regenBusy (pfxOf ra 42) 42 &&
       s.entryNow (pfxOf ra 42) 42 (h.get 2).toNat == some (replica0 st) && !s.prefixBusy (pfxOf ra 42) 42) = true ∧
    (let s := routed [(0, [home0])] 1
     routeOf s fun _ ra => (s.engine 0).longest ra == [home0]) = true ∧
    (let s := { routed [] 1 with places := [(placeKey 1 0 8, 6291456)] }
     routeOf s fun h _ => !s.hasRoom (h.get 2).toNat 42) = true := by decide +kernel

/-- A message of a version newer by one, of the same version at no lower cost, with a reserved bit, and one that has been here. -/
def aMsg (ver cost rsv : Nat) (path : List (Nat × Nat)) : Msg := ⟨0, 64, 42, true, false, 0, ver, 0, cost, path, rsv⟩
theorem witness_RouteMessages :
    (let s := routed [(0, [home0])] 1
     s.dieLive 0 && decide (((s.engine 0).standing (aMsg 2 0 0 [(0, 8)])).1 < 2) && !s.dieLive 9 && !((aMsg 2 0 0 [(0, 8)]).path).contains (0, 0) && decide ((s.engine 0).standing (aMsg 1 10 0 []) = (1, 10)) &&
       decide (((aMsg 2 0 0 [(0, 0)]).path).contains (0, 0)) && (s.engine 0).entry? 64 42 0 == some home0 && decide (min (0 + s.hopCost .here) 2046 < home0.cost) &&
       (aMsg 2 0 0 []).ver != home0.ver && (aMsg 2 0 0 []).holder % 8 != 7) = true ∧
    ([3, 19].all fun k =>
      let r : ROp := { aRop .rfence 0 [k] with holder := 0 }
      let m : Msg := { aMsg 1 0 0 [(0, 8), (k / 16, k % 16)] with op := mFack }
      r.kind == .rfence && r.pfx == m.pfx && r.len == m.len && decide (r.ver ≤ m.ver) &&
        (m.path.getD 1 (0, 2 ^ 20)).1 * 16 + (m.path.getD 1 (0, 2 ^ 20)).2 == k) = true ∧
    (let s := routed [(0, [home0])] 1
     (s.engine 0).entries.any (fun e => e.nhop == .here && e.receives) && !(s.neighbours 8).isEmpty) = true := by decide +kernel

/-- An engine's entry marked failed, as HOLDER_FAILURE marks it. -/
def markFailed (s : State) (eng : Nat) (e : Entry) : State :=
  s.setEngine eng { s.engine eng with entries := (s.engine eng).entries.map fun x => if x = e then { e with st := .failed } else x }
def aWr (left : List Nat) : Wr := { agent := .mp 0, core := none, round := 0, ctx := 0, bytes := [(ra0, 1)], holder := 0, left := left, op := none, poison := 0 }
def aLock (acks : List Nat) (applied : Bool) (queue : List Nat) : LineLock := ⟨0, [], acks, applied, some 1, queue⟩
def aHeld (why : Held) (sd : Option Nat) : Req := { aReq .store .nc ra0 [9] with why := why, noted := true, sd := sd }
theorem witness_RouteFailuresAndHeldRequests :
    ([RKind.replicate, .migrate].all fun k =>
      let s := { routed [(0, [home0, replica0 .filling])] 1 with rops := [(1, aRop k 0 [])] }
      s.copies (aRop k 0 [])) = true ∧
    (let s := { routed [(0, [{ home0 with home := false }, { replica0 .active with home := true }])] 1 with rops := [(1, aRop .migrate 2 [])] }
     s.marks (aRop .migrate 2 []) && !s.copies (aRop .migrate 2 []) && !s.marks (aRop .withdraw 0 [])) = true ∧
    (let s := routed [(0, [home0, replica0 .active])] 1
     (s.engine 0).entry? 64 42 1 == some (replica0 .active) && s.authority 64 42 == some 0 && s.dieLive 0 && (s.rops.all fun kv => kv.2.kind != .takeover) && (s.authority 65 42).isNone &&
       (s.engine 0).entries.find? (fun x => x.pfx == 64 && x.len == 42) == some home0 && !s.dieLive 9) = true ∧
    ([(0, [(0, .active)], true, none), (1, [(0, .active), (1, .active)], true, some .active), (1, [(0, .failed), (1, .active)], true, some .failed)].all fun x =>
      let s := routed (x.2.1.map fun y => (y.1, [home0, replica0 y.2])) 1
      let t := markFailed s x.1 (replica0 .active)
      s.homeNow 64 42 == some home0 && t.authorityActs x.1 home0 == x.2.2.1 && (t.authOf home0 == x.1) == x.2.2.2.isNone &&
        (x.2.2.2.isNone || ((t.engine 0).entry? 64 42 1).map Entry.st == x.2.2.2)) = true ∧
    (let s := routed [(0, [replica0 .active])] 1
     (s.engine 0).entry? 64 42 1 == some (replica0 .active) && (s.homeNow 64 42).isNone) = true ∧
    ([[home0, { replica0 .active with holder := mkHolder 0 1 0 }], [home0]].all fun es =>
      let s := { routed [(1, es)] 1 with pkg := { (routed [] 1).pkg with livemap := 0xFFFFFE } }
      let t := markFailed s 1 home0
      s.homeNow 64 42 == some home0 && !t.authorityActs 1 home0 && (t.leastRemaining 1 64 42).isSome == (es.length == 2)) = true ∧
    (let s := routed [(1, [home0])] 1
     s.dieLive 1 && (s.engine 1).entries.find? (fun x => x.pfx == 64 && x.len == 42) == some home0 && s.rops.isEmpty && !s.dieLive 9) = true ∧
    (let s := routed [(0, [replica0 .failed])] 1
     (s.engine 0).entry? 64 42 1 == some (replica0 .failed) && (s.authority 64 42).isNone) = true ∧
    (let s := routed ((List.range 9).map fun k => (k, [home0, replica0 .failed])) 1
     s.authority 64 42 == some 0 && s.converged 0 64 42 && (s.engine 0).entry? 64 42 1 == some (replica0 .failed)) = true ∧
    (let s := { routed [(0, [home0, replica0 .active])] 1 with locks := [(ra0 / 128, aLock [1] false [])] }
     (tget? s.locks (ra0 / 128) == some (aLock [1] false [])) && !s.paused 1 ra0 && !s.paused 2 ra0 && s.lockWaits (aLock [1] false []) 1 == (false, false) && (s.engine (homeEngine 0)).entries.find? (fun x => x.covers (ra0 / 128 * 128) && x.holder == 1) ==
       some (replica0 .active)) = true ∧
    (let s := { routed [(0, [home0])] 1 with reqs := [(1, aHeld .unrouted none), (2, aHeld .cow (some 7)), (3, aHeld .unreachable none)] }
     s.holdRuns (aHeld .unreachable none) && !s.holdRuns (aHeld .unrouted none) && s.replays (aHeld .unrouted none) && s.replays (aHeld .cow (some 7)) && !s.replays (aHeld .unreachable none) && Held.waitsRoute .unreachable && !Held.waitsRoute .cow) = true ∧
    (let s := { routed [] 1 with writes := [(1, aWr [1]), (2, aWr [1, 2])] }
     !s.behind 1 (aWr [1]) 1 && s.behind 2 (aWr [1, 2]) 1 && !s.pausedFor (aWr [1]) 1) = true ∧
    (let s := { routed [] 1 with writes := [(1, aWr [1, 2])] }
     s.lockWaits (aLock [1] true []) 1 == (false, false) && (let l : LineLock := { aLock [1] true [] with write := some 1 }
       let u := { s with next := 9, writes := [(0, aWr [1]), (1, aWr [1])] }
       u.lockWaits l 1 == (true, false))) = true ∧
    (let s := routed [] 1
     let p : PeerStore := ⟨mkHolder 1 0 0, 3, ra0, [9], 0⟩
     let w : Wr := { aWr [1] with ctx := s.domainCtx (p.ra / 2 ^ 46) p.ctx, agent := .mp (s.domainCtx (p.ra / 2 ^ 46) p.ctx), bytes := bytesAt p.ra p.bytes, holder := p.src }
     let t := { s with next := s.next + 1, writes := tset s.writes s.next w }
     holderDev p.src != s.pkg.device && holderDev 1 == s.pkg.device && !t.pausedFor w 1 && !t.behind s.next w 1) = true ∧
    (let s := { routed [(0, [{ home0 with lock := true }, { replica0 .active with lock := true }])] 1 with reqs := [(1, aReq .store .nc ra0 [9])], writes := [(1, aWr [1])] }
     (tget? s.reqs 1).isSome && (tget? s.writes 1).isSome && (((s.engine 0).longest ra0).filter fun f => f.receives && f.holder != 0) != [] && (aLock [] false [1]).queue == [1] &&
       (aLock [1] true [1]).write == some 1) = true := by decide +kernel

/-! ### The matrix engine -/

/-- The unit value of bf16 in every word of 128 rows of 128 bytes at the core scratchpad's start is not needed: any rows will do. -/
def onTiles (s : State) (rs : List SReg) (p : SHere → Bool) : Bool := seqOf s fun h => h.onTiles s l43 rs && p h
theorem witness_MatrixInstructions :
    (let s := sreg (sreg (mapped sbase) 1 (BitVec.ofNat 64 va0)) 2 128
     onTiles s [1, 2] fun h => !s.under h.uid (fun f => f == .pin 15) && (h.get 1).toNat % 128 == 0 && (h.get 2).toNat % 128 == 0 && decide ((h.get 2).toNat < 2 ^ 32) &&
       decide (15 < h.b.pinCount) && (match s.translate h.b.coreNo (h.who 0) permRd ((List.range 128).map fun r => (⟨0xFF, va0 + 128 * r, 128⟩ : Touch)) with
         | .ok ras => ras.length == 128
         | .error _ => false)) = true ∧
    (let s := (sreg sbase 2 64).modBlock 0 fun b => { b with zheld := 1 }
     onTiles s [1, 2] fun h => (h.get 2).toNat % 128 != 0 && decide (h.b.pinCount ≤ 2) && !h.b.holdsTile 1) = true ∧
    (let s := (sreg sbase 1 (2 ^ 62)).modBlock 0 fun b => { b with pins := [(0, ⟨[], 0, true⟩)] }
     onTiles s [1, 1] fun h => h.b.holdsTile 7 && !bit h.b.tileBad 7 && (match s.operand h.b (h.get 1) with | .rows _ => true | _ => false) && decide (31 < h.b.rcd.vregs) &&
       (match s.operand h.b 3 with | .bad => true | _ => false)) = true ∧
    (let s := sreg (sreg (mapped sbase) 1 0) 2 512
     onTiles s [1, 2] fun h => h.b.holdsTile 7 && tileMoveOk (h.get 1) (h.get 2) && spacePad .cp == some .chip && (match s.padRows h.b .chip 0 512 512 with
       | some ks => (s.rowsPoison ks 512).isNone
       | none => false)) = true ∧
    (let s := sreg (sreg (mapped sbase) 1 (BitVec.ofNat 64 va0)) 2 512
     onTiles s [1, 2] fun h => tileMoveOk (h.get 1) (h.get 2) && spacePad .mem == none && (rowTouches (h.get 1) (h.get 2) 512).all fun t => decide (t.1.va < 2 ^ 57)) = true ∧
    (onTiles (sreg sbase 2 496) [1, 2] fun h => !tileMoveOk (h.get 1) (h.get 2)) = true := by decide +kernel

theorem witness_ExactArithmetic :
    ((Fmt.decode .f32 0x7FC00000).isNan && !(Fmt.decode .f32 0x3F800000).isNan && !(Fmt.decode .f32 0x3F800000).isInf &&
      [Fp.nan false 0 false].any Fp.isNan && (List.replicate 8 (Fp.fin false 1 0)).length == 8) = true ∧
    (let r := { Row.zero 0 0 0 0 2 0 with flag := [(1, true)] }
     decide (0 < r.len) && !r.flagged 0 && r.flagged 1 && (toGrid 0 (.inf false)).isNone && (toGrid 0 (.fin false 1 0)).isSome && decide (1 * 2 ^ 47 ≥ 2 ^ 47)) = true := by decide +kernel
theorem witness_ExactArithmetic_exact : (Row.zero 0 0 0 0 1 0).exact := by
  constructor <;> decide +kernel

/-! ### Rows -/

/-- A row set of two rows of four elements at pages 64 and 65, its second row live with COUNT 3. -/
def aRow (st : RowState) : Row := { Row.zero 0 0 0 1 4 0 with st := st, count := 3 }
def aHandle : W64 := handleOf 2 0 64
def rowed (s : State) (st : RowState) : State :=
  sreg { mapped s with rowSets := [(64, ⟨0, aHandle, 2, 1, 4, none⟩)], rows := [(64, aRow .live), (65, aRow st)]
                       engines := [(0, ⟨[{ home0 with holder := mkHolder 0 0 3 }, { home0 with pfx := 65, holder := mkHolder 0 0 3 }], [], 0, 0, []⟩)] } 1 aHandle
def atRow (s : State) (rs : List SReg) (row : Nat) (p : SHere → Nat → Row → Bool) : Bool := seqOf s fun h =>
  h.onRows s l43 rs && match s.rowRef h.b.die (h.get 1) row with
    | .row page => (match tget? s.rows page with | some r => p h page (r.as (s.rowTag h.b.ctx)) | none => false)
    | _ => false

theorem witness_AccumulatorRows :
    (let s := (sreg (sreg (sreg sbase 1 8) 2 9) 3 (BitVec.ofNat 64 (2 ^ 48 + 4 * 2 ^ 20 + 524288))).modBlock 0 fun b => { b with zheld := 0 }
     onTiles s [5, 6, 3] fun h => (h.get 1).toNat == 8 && decide (8 ≤ s.freeTiles h.b) && ((List.range 8).filter fun z => !h.b.zheld.getLsbD z).length == 8 && decide (8 < (h.get 2).toNat) &&
       (let p := (h.get 3).toNat
        decide (p < 2 ^ 56) && p % 2 ^ 20 == 524288 && p / 2 ^ 20 % 2 ^ 16 == 4)) = true ∧
    (onTiles sbase [5, 6, 3] fun h => decide (sbase.freeTiles h.b < 1)) = true ∧
    (let s := (sreg (routed [] 9) 3 (BitVec.ofNat 64 (2 ^ 48 + 4 * 2 ^ 20 + 2)))
     onTiles s [5, 6, 3] fun h => s.maskDies 1 h.b.die != [] && (s.allocRows h.b.ctx (s.maskDies 1 h.b.die) 2 4 0 none).isSome) = true ∧
    (let s := (sreg { mapped sbase with raNext := 2 ^ 32 } 3 (BitVec.ofNat 64 (2 ^ 48 + 32768 * 2 ^ 20 + 524288)))
     onTiles s [5, 6, 3] fun h => (s.allocRows h.b.ctx (s.maskDies 1 h.b.die) 524288 32768 0 none).isNone) = true ∧
    (let s := (sreg (sreg (rowed sbase .live) 2 3) 3 256).modBlock 0 fun b => { b with zgranted := 3 }
     seqOf s fun h => h.onRows s l43 [5, 1] && decide (256 ≤ (h.get 3).toNat) && decide ((h.get 2).toNat < 256) && ((h.get 2).truncate 8 : BitVec 8) &&& ~~~h.b.zgranted == 0 &&
       (h.get 1).toNat / 2 ^ 42 % 8 != 7 && (match tget? s.rowSets ((h.get 1).toNat % 2 ^ 42) with | some rs => rs.handle == h.get 1 && rs.ctx == h.b.ctx && rs.grid.isNone | none => false)) = true ∧
    ([RowState.live, .sealed, .evicted].all fun st => let s := sreg (rowed sbase st) 2 (BitVec.ofNat 64 (1 + 2 ^ 32 * 2 + 2 ^ 48))
     atRow s [5, 1, 2, 3] 1 fun h page rw => page == 65 && rw.st == st && (match rowOpd (h.get 2) with | some o => o.row == 1 && o.first + o.n == 4 && rw.len == 4 | none => false) && !rw.poison &&
       (match s.padKey h.b .core ((h.get 3).toNat : Int) 8 with | some k => (s.rowsPoison [k] 8).isNone && (s.relStart h.uid h.b.coreNo true .dom).isSome | none => false) &&
       !s.badAdders.contains (mkHolder s.pkg.device rw.die 3)) = true ∧
    (let s := rowed sbase .live
     let at' := fun (es : List Entry) (row : Nat) => ({ s with engines := [(0, ⟨es, [], 0, 0, []⟩)] } : State).rowRef 0 aHandle row
     at' [] 2 == .bad && ({ s with rowSets := [] } : State).rowRef 0 aHandle 1 == .gone (65 * 2 ^ 14) && at' [] 1 == .wait (65 * 2 ^ 14) .unrouted &&
       at' [{ home0 with pfx := 65, holder := mkHolder 0 0 3, st := .failed }] 1 == .lost (65 * 2 ^ 14) &&
       seqOf s fun h => h.onRows s l43 [5, 1, 2] && decide ((h.get 2).toNat < 2 ^ 19)) = true ∧
    (let s := sreg (rowed sbase .live) 2 (BitVec.ofNat 64 (1 + 2 ^ 32 * 3 + 2 ^ 48))
     atRow s [5, 1, 2, 3] 1 fun h _ rw => match rowOpd (h.get 2) with | some o => decide (rw.len < o.first + o.n) | none => false) = true ∧
    (let s := sreg (rowed sbase .sealed) 4 0
     atRow s [4, 1, 2, 3] 0 fun h _ rw => (tget? h.b.seq.pend 5).isNone && rw.st != .evicted && (match s.gains h.b ((h.get 4).toNat / 2 ^ 32) 0 4 with | .ok (some _) => true | _ => false) &&
       (s.padKey h.b .core ((h.get 3).toNat : Int) 16).isSome) = true ∧
    (let s := sreg (sreg (sreg (rowed sbase .live) 2 (BitVec.ofNat 64 (1 + 3 * 2 ^ 32))) 3 (BitVec.ofNat 64 (1 + 4 * 2 ^ 32))) 4 (BitVec.ofNat 64 va0)
     atRow s [5, 1, 2] 1 fun h _ rw => decide ((h.get 2).toNat / 2 ^ 32 ≤ rw.count) && decide (rw.count < (h.get 3).toNat / 2 ^ 32) && (h.get 4).toNat % 64 == 0 &&
       decide ((h.get 4).toNat + (rw.image false).length - 1 < 2 ^ 57) && !rw.ovf && !rw.poison && (match s.translate h.b.coreNo (h.reader false) permRd (seqTouches (h.get 4).toNat 64) with
         | .ok ras => !(s.prepare h.b.coreNo false (h.reads false .own ((seqTouches (h.get 4).toNat 64).map fun t => (t, t.va - (h.get 4).toNat)) ras)).2
         | .error _ => false)) = true ∧
    (let s := { rowed sbase .evicted with ops := [(1, anOp .seq [(5, 0)] (.rowLoad 65 va0 false) 0)] }
     (match tget? s.rows 65 with | some r => r.st == .evicted && (s.fitRow r.die (rowBytes r.len)).isSome | none => false) && match s.block? 0 with | some b => b.active | none => false) = true ∧
    (decide ((aRow .live).len ≤ 32768) && (aRow .live).st != .evicted && ((List.range 4).all fun i => !(aRow .live).flagged i) && decide ((aRow .live).count < 2 ^ 32) && !(aRow .live).ovf) = true := by
  decide +kernel

/-- A tile drained to the top of the die's scratchpad, into the page, and into 128 rows. -/
def tall : State := { mapped sbase with
  rowSets := [(128, ⟨0, handleOf 128 0 128, 128, 1, 128, none⟩)], rows := (List.range 128).map fun i => (128 + i, { Row.zero 0 0 0 1 128 0 with count := 0 })
  engines := [(0, ⟨[{ home0 with pfx := 128, len := 35, holder := mkHolder 0 0 3 }], [], 0, 0, []⟩)] }
theorem witness_TileDrains :
    (let s := sreg (sreg (mapped sbase) 1 0) 2 512
     seqOf s fun h => h.onRows s l43 [1, 2] && h.b.holdsTile 7 && !h.b.tileBad.getLsbD 7 && (match s.padRows h.b .chip 0 512 512 with
       | some ks => (s.rowsPoison ks 512).isNone && (s.relStart h.uid h.b.coreNo true .pkg).isSome
       | none => false)) = true ∧
    (let s := (sreg (sreg (mapped sbase) 1 (BitVec.ofNat 64 va0)) 2 512).modCore 0 fun c => { c with tlb := (List.range 4).map fun i => ⟨0, va0 + i * 2 ^ 14, 1, ra0 + i * 2 ^ 14, 0x3E, 0⟩ }
     seqOf s fun h => h.onRows s l43 [1, 2] && ((rowVas (h.get 1) (h.get 2)).all fun v => decide (v + 511 < 2 ^ 57)) &&
       (match s.translate h.b.coreNo (h.b.engineWho h.uid 2 h.run.va) (permRd ||| permWr ||| permAt) ((rowTouches (h.get 1) (h.get 2) 512).map Prod.fst) with
        | .ok _ => true
        | .error _ => false) && (s.relStart h.uid h.b.coreNo true .pkg).isSome) = true ∧
    (let s := sreg tall 1 (handleOf 128 0 128)
     seqOf s fun h => h.onRows s l43 [1, 2, 3] && (match rowOpd (h.get 2) with | some o => o.n == 1 && o.row == 0 && o.first == 0 | none => false) && (h.get 1).toNat / 2 ^ 42 % 8 != 7 &&
       decide (127 < (h.get 1).toNat / 2 ^ 45 + 1) && ((List.range 128).map fun i => s.rowRef h.b.die (h.get 1) i) == ((List.range 128).map fun i => 128 + i).map .row &&
       (match tget? s.rows 128 with | some r => decide (128 ≤ r.len) | none => false)) = true ∧
    (let s := sbase.modBlock 0 fun b => { b with zheld := 0 }
     seqOf s fun h => h.onRows s l43 [1, 2] && !h.b.holdsTile 0) = true := by decide +kernel

end Sys2Proof.Tests
end

