-- ==== Sys2Proof/Tests/Witness5.lean ====
section
/-! SUPPORT. The same for the statements about what happens inside a core and the dispatcher, about the host's requests and packets, and
about errors and the package. -/

namespace Sys2Proof.Tests

set_option Elab.async false

open Sys2Proof Sys2Proof.Machine

/-- The prepared block with its warp or its sequencer changed. -/
def warped (f : Warp → Warp) : State := (mapped base).modWarp 0 0 f
def seqd (f : Seq → Seq) : State := (mapped sbase).modSeq 0 f
def blocked (f : Block → Block) : State := (mapped base).modBlock 0 f
def warpIs (s : State) (p : Block → Warp → Bool) : Bool := match s.block? 0 with
  | some b => b.home.isSome && match tget? b.warps 0 with | some x => p b x | none => false
  | none => false
def headed (x : Warp) : Warp := { x with runs := [], ahead := [(0, [aHeader, 0])] }
def aHeaderSeq : W64 := BitVec.ofNat 64 (0xA * 2 ^ 60 + 4 * 2 ^ 57)
/-- A header that waits for counter 0, one for barrier 3, and one for queue 3. -/
def waitsD : W64 := BitVec.ofNat 64 (0xA * 2 ^ 60 + 2 ^ 45)
def waitsB : W64 := BitVec.ofNat 64 (0xA * 2 ^ 60 + 2 ^ 36 + 3 * 2 ^ 32)
def waitsQ : W64 := BitVec.ofNat 64 (0xA * 2 ^ 60 + 2 ^ 40)
def headerIs (sq : Bool) (w : W64) (p : Header → Bool) : Bool := match decodeHeader sq w with | .ok h => p h | .error _ => false
def pdn (f : Warp → Warp) : State := blocked fun b => { b with preempt := true, rcd := { b.rcd with preSeq := 64 }, warps := tmod b.warps 0 f }
theorem witness_ClauseEvents :
    (let s := (warped headed).modCore 0 fun c => { c with icache := [(codeKey 0 0, aHeader), (codeKey 0 8, 0)] }
     warpIs s fun b x => (match (s.fetchClause b (.stream 0 (.warp 0)) false 0 (x.pcOf 0)).1 with | some ws => ws == ⟨[aHeader, 0], none⟩ | none => false) &&
       headerIs false aHeader fun hd => (s.fetchWords b (.stream 0 (.warp 0)) 0 0 1).1 == some ⟨[aHeader], none⟩ && (s.fetchWords b (.stream 0 (.warp 0)) 0 8 hd.count).1 == some ⟨[0], none⟩) = true ∧
    (let s := warped headed
     warpIs s fun b x => s.groupAt x 0 != 0 && headerIs false aHeader fun h => h.bar.isNone && b.laneWaits 0 x h && (tget? x.badAhead 0).isNone) = true ∧
    (let s := warped fun x => { headed x with badAhead := [(0, (ra0, 1))] }
     warpIs s fun b x => s.groupAt x 0 != 0 && headerIs false aHeader fun h => b.laneWaits 0 x h && tget? x.badAhead 0 == some (ra0, 1)) = true ∧
    ([false, true].all fun came =>
      let s := warped fun x => { headed x with ahead := [(0, [waitsB, 0])], arr := if came then (List.range 32).map fun l => (l * 16 + 3, ⟨0, false⟩) else [] }
      warpIs s fun b x => s.groupAt x 0 != 0 && headerIs false waitsB fun h => h.bar.map Fin.val == some 3 &&
        s.canStart 0 b 0 x (s.groupAt x 0) 0 h == 0 && s.canArrive 0 b 0 x (s.groupAt x 0) 0 h == !came) = true ∧
    (let s := warped fun x => { headed x with ahead := [(0, [waitsB, 0])], arr := (List.range 32).map fun l => (l * 16 + 3, ⟨0, true⟩) }
     (warpIs s fun b x => headerIs false waitsB fun h => s.canStart 0 b 0 x (s.groupAt x 0) 0 h != 0 && !s.loading 0 (.warp 0) && b.laneWaits 0 x h) &&
       ({ s with ops := [(1, anOp (.warp 0) [(64, 7)] .plain 1)] } : State).loading 0 (.warp 0)) = true ∧
    (let s := warped fun x => { headed x with ahead := [(0, [waitsD, 0])], ctr := [(0, 1)] }
     warpIs s fun b x => s.groupAt x 0 != 0 && headerIs false waitsD fun h => h.bar.isNone && !b.laneWaits 0 x h) = true ∧
    (let s := warped fun x => { headed x with ahead := [(0, [0])] }
     warpIs s fun _ x => s.groupAt x 0 != 0 && match decodeHeader false 0 with | .error _ => true | .ok _ => false) = true ∧
    (let s := seqd fun q => { q with run := none, ahead := [(0, [aHeaderSeq, 0])] }
     warpIs s fun b _ => headerIs true aHeaderSeq fun h => b.seqWaits h && tget? b.seq.ahead b.seq.pc.toNat == some [aHeaderSeq, 0] && (tget? b.seq.badAhead 0).isNone) = true ∧
    (let s := seqd fun q => { q with run := none, ahead := [(0, [aHeaderSeq, 0])], badAhead := [(0, (ra0, 1))] }
     warpIs s fun b _ => headerIs true aHeaderSeq fun h => b.seqWaits h && tget? b.seq.badAhead b.seq.pc.toNat == some (ra0, 1)) = true ∧
    ([some 0, none].all fun st =>
      let s := seqd fun q => { q with run := q.run.map fun r => { r with blk := some (.sawait 64 5 1 none st) } }
      match s.block? 0 with
      | some b => b.active && (match b.seq.run with | some r => r.blk == some (.sawait 64 5 1 none st) | none => false)
      | none => false) = true ∧
    (warpIs (queued (warped headed)) fun b x => headerIs false waitsQ fun h => b.laneWaits 0 x h && (tgetD b.queues 3 []).any fun e => e.ready && e.tag == 0) = true ∧
    (let c := { Core.reset with rels := [⟨0, 1, none⟩], sent := [(0, 1)], dests := [(0, true)], arrived := [(0, 1)] }
     c.landed 0 && (c.rels.filter fun r => r.round == 0) == [⟨0, 1, none⟩] && !({ c with arrived := [] } : Core).landed 0) = true ∧
    (let s := pdn id
     warpIs s fun b x => b.preempt && b.active && s.warpPreempts 0 0 x && !s.warpPreempts 0 0 { x with preTaken := true } && b.seq.preempts) = true ∧
    (let s := blocked fun b => { b with seq := { b.seq with trap := some ⟨7, true, 0, false⟩, run := none } }
     warpIs s fun b x => b.delivers && b.firstWarp == some (0, x) && !({ b with seq := { b.seq with trap := none } } : Block).delivers) = true ∧
    (let s := blocked fun b => { b with seq := { b.seq with sexit := true }, warps := tmod b.warps 0 fun w => { w with runs := w.runs.map fun r => { r with blk := some (.mask 1) } } }
     warpIs s fun b _ => s.stalled 0 b && b.warps.length == 1) = true ∧
    (warpIs base fun b x => !base.stalled 0 b && (headed x).runs == [] ) = true := by decide +kernel

/-- A queue of context 0 at a level, with ready work and the packets given. -/
def aQueue (level : Nat) (work : List Work) (pkts : Tab Pkt) : Queue :=
  { fn := 0, ctx := 0, locNo := 0, ring := BitVec.ofNat 64 va0, logN := 1, prio := level, vec := 5, st := .active, code := 0, tail := 1, head := 0, done := 0, pkts := pkts, hold := none
    closer := none, work := work, deficit := 0, level := level, passes := 0, starved := false }
/-- A grid of one block of the record given, of packet 0 of queue 0. -/
def aGrid (r : Rec) : Grid :=
  { ctx := 0, q := 0, rcd := r, owner := .packet 0 0, root := some (0, 0), nextCluster := 0, doneBlocks := 0, handle := 0, hasRows := false, first := 0, count := 0 }
def small : Rec := { Rec.probe with ztiles := 0, cscratch := 0 }
def ready (level : Nat) (r : Rec) : State := { mapped base with queues := [(0, aQueue level [.grid 7] [])], grids := [(7, aGrid r)] }
def cut (f : Block → Block) : State := { blocked f with grids := [(0, aGrid small)], queues := [(0, aQueue 0 [] [])] }
def suspendedW (w : Warp) : Warp := { w with suspended := true }
def aNode (ready : List Bool) (filled : Nat) : Node := { kind := 2, waits := 0, rcd := Rec.probe, succ := [], ringVa := BitVec.ofNat 64 va0, ctlVa := 64, slotB := 16, cap := 4, tile := 2, homeDie := 0, pfDest := 0, flush := 9
                                                         pfLen := 0, pfSrc := 0, pfDst := 0, tokens := 0, started := true, done := false, free := 2, filled := filled, head := 0, tail := 2, used := 2, slots := ready, armed := true
                                                         pfWant := false, pfOp := none, consumers := 0 }
def noded (ready : List Bool) (filled : Nat) : State := { cut id with graphs := [(0, ⟨0, 0, 0, [(1, aNode ready filled)]⟩)] }
theorem witness_SchedulerEvents :
    (base.saveDue.isNone && base.cands.isEmpty) = true ∧
    (let s := ready 5 small
     s.saveDue.isNone && !s.cands.isEmpty && (s.makeRoom s.cands).isNone && (s.placeOne s.cands).isSome) = true ∧
    (let g := { Rec.probe with vregs := 32, warps := 16, ztiles := 8, dieMask := 1 }
     let s := { ready 5 g with cores := (List.range 96).map fun k => (k, { Core.reset with quarantined := decide (0 < k) }) }
     s.saveDue.isNone && !s.cands.isEmpty && (s.makeRoom s.cands).isSome) = true ∧
    (let s := { base with cores := [(0, { Core.reset with quarantined := true })] }
     s.stranded == [0] && (s.clusters.find? fun kv => s.quiet kv.2).isNone && base.stranded == []) = true ∧
    (decide (1 ≤ (aGrid small).nextCluster + 1) && small.clusters == 1) = true ∧
    (let s := cut fun b => { b with preempt := true, seq := { b.seq with sexit := true }, warps := tmod b.warps 0 fun w => { w with pdone := some 0 } }
     let u := cut fun b => { b with warps := tmod b.warps 0 fun w => { w with pdone := some 0 } }
     warpIs s (fun b x => x.pdone.isSome && !s.busy 0 (.warp 0) && (tget? s.clusters b.cluster).isSome) && warpIs u (fun b x => x.pdone.isSome && !u.busy 0 (.warp 0) && match tget? u.clusters b.cluster with | some c => !(u.modWarp 0 0 fun y => { y with suspended := true, pdone := none }).quiet c | none => false) &&
       (let t := s.modWarp 0 0 fun y => { y with suspended := true, pdone := none }
        match tget? t.clusters 0 with | some c => t.quiet c && t.saveDue.isSome | none => false)) = true ∧
    (let s := cut fun b => { b with preempt := true, seq := { b.seq with pdone := true }, warps := tmod b.warps 0 suspendedW }
     warpIs s fun b _ => b.seq.pdone && !s.busy 0 .seq && (let t := s.modSeq 0 fun y => { y with suspended := true, pdone := false }
       match tget? t.clusters b.cluster with | some c => t.quiet c && !s.quiet c | none => false)) = true ∧
    (warpIs (cut fun b => { b with preempt := true }) fun b _ => b.preempt) = true ∧
    (let s := cut fun b => { b with frame := some ⟨5, 2 ^ 32 - 1, 0, 0, [], [], [], [], [], []⟩ }
     match tget? s.clusters 0 with
     | some c => c.resident && c.blocks == [0] && warpIs s fun b _ => b.frame.isSome && c.chipSize == b.rcd.cscratch &&
         (List.range b.rcd.warps).all (fun w => (tget? b.warps w).isSome) && (List.range 8).all fun k => decide ((tgetD b.queues k []).length ≤ 16)
     | none => false) = true ∧
    (decide (2047 < 2 ^ 11)) = true ∧
    (let s := cut fun b => { b with released := true, seq := { b.seq with sexit := true }, warps := tmod b.warps 0 fun w => { w with exited := BitVec.allOnes 32, runs := [] } }
     warpIs s (fun b _ => s.blockDone 0 b && b.released && b.active && b.consumer.isNone && (match tget? s.clusters b.cluster with | some c => c.blocks == [0] | none => false) && match tget? s.grids b.grid with
       | some g => decide (g.rcd.blocks ≤ g.doneBlocks + 1) && !g.hasRows && g.rcd.doneSig == 0
       | none => false) && warpIs (cut id) fun b _ => !(cut id).blockDone 0 b &&
       (let u := { cut id with clusters := tmap (fun (_ : Nat) (c : Cluster) => { c with blocks := [0, 1] }) (cut id).clusters, blocks := [(0, b), (1, { b with rank := 1 })] }
        match u.block? 1, tget? u.clusters 0 with | some z, some c => !z.gone && c.blocks.contains 0 && c.blocks.contains 1 | _, _ => false)) = true ∧
    (let s := { cut id with grids := [(0, aGrid { small with gridX := 2 })] }
     warpIs s fun b _ => match tget? s.grids b.grid with | some g => decide (g.doneBlocks + 1 < g.rcd.blocks) | none => false) = true ∧
    (((cut id).node? 0 1).isNone && (cut id).pushes == []) = true ∧
    (((noded [true] 0).node? 0 1).isSome && (match (noded [true] 0).node? 0 1 with | some (_, n) => n.kind == 2 && !n.done && n.armed && n.filled == 0 | none => false) &&
       match (noded [] 2).node? 0 1 with | some (_, n) => n.filled != 0 | none => false) = true := by decide +kernel

/-- The machine with a request of a function at the start of its ring. -/
def asking (s : State) (fn : Nat) (bs : List Byte) : State := { s.setFn fn { s.fnOf fn with tail := 1 } with mem := bytesAt (keyHost 0) bs }
def asked (s : State) (fn code : Nat) (fs : List (Nat × Nat × Nat)) (fields : List (Nat × Nat)) (p : State → BitVec 512 → Bool) : Bool :=
  let bs := entry ((0, 1, code) :: fs)
  let rq := BitVec.ofNat 512 (leNat bs)
  let s := asking s fn bs
  rqField rq 0 1 == code && rqField rq 1 3 == 0 && s.pendingRequest fn == some (0, rq) && (s.fnOf fn).cur.isNone && rqClean rq fields && p (s.took fn rq) rq
def ownsCtx (t : State) (fn : Nat) (lostToo : Bool) (p : Ctx → Bool) : Bool :=
  match tget? t.ctxs 0 with | some x => x.fn == fn && x.freeing.isNone && (x.lost.isNone || lostToo) && p x | none => false
/-- No block, two contexts' worth of limits. -/
def idle : State := { (tabled base).modCtx 0 (fun c => { c with rootLog := 22, qquota := 2, grants := [aGrant] }) with blocks := [], clusters := [], cur := none, raNext := 2 ^ 20 }
theorem witness_MailboxCommands_1 :
    (decide (255 < 256) && (List.replicate 56 (0 : Byte)).length == 56) = true := by decide +kernel
theorem witness_MailboxCommands_2 :
    ([64, 65536].all fun n => asked idle 0 1 [(8, 1, 63), (9, 1, 3), (10, 2, 1), (12, 2, 15872), (16, 8, 64), (24, 4, n)] [(8, 1), (9, 1), (10, 2), (12, 2), (16, 8), (24, 4), (28, 2), (30, 2)] fun t rq =>
      rqField rq 28 2 == 0 && rqField rq 30 2 == 0 && rqField rq 16 8 % 64 == 0 && rqField rq 24 4 == n && decide (rqField rq 8 1 ≤ t.ceilOf 0) && decide (t.ctxsHeld 0 < t.maxCtxOf 0) &&
        decide (t.quotasHeld 0 + rqField rq 10 2 ≤ t.maxQOf 0) && decide (sumOf Ctx.rquota (tvals t.ctxs) + rqField rq 12 2 ≤ 15872) &&
        (t.takeFresh.2.makeCtx 0 (rqField rq 8 1) (rqField rq 9 1) (rqField rq 10 2) (rqField rq 12 2) (rqField rq 16 8) (rqField rq 24 4) none).isSome) = true := by decide +kernel
theorem witness_MailboxCommands_3 :
    (asked idle 1 1 [(16, 8, 64), (24, 4, 64)] [(8, 1), (9, 1), (10, 2), (12, 2), (16, 8), (24, 4), (28, 2), (30, 2)] fun t rq =>
      decide (t.maxCtxOf 1 ≤ t.ctxsHeld 1) && decide (rqField rq 8 1 ≤ t.ceilOf 1) && rqField rq 16 8 % 64 == 0 && rqField rq 24 4 == 64) = true := by decide +kernel
theorem witness_MailboxCommands_4 :
    (asked { idle with pkg := { idle.pkg with livemap := 0 } } 0 2 [] [(8, 2)] fun t _ => ownsCtx t 0 true fun _ => ((t.beginFree 0 0 0).goFree 0).1) = true ∧
    (let s := idle.modCtx 0 fun c => { c with origin := some (1, 7) }
     match tget? s.ctxs 0 with | some x => x.origin.isSome && x.freeing.isNone | none => false) = true := by decide +kernel
theorem witness_MailboxCommands_5 :
    (asked { idle with reqs := [(1, aReq .store .nc ra0 [9])], rops := [(1, { aRop .withdraw 0 [] with uid := none })] } 0 2 [] [(8, 2)] fun t _ => ownsCtx t 0 true fun _ =>
      !((t.beginFree 0 0 0).goFree 0).1) = true := by decide +kernel
theorem witness_MailboxCommands_6 :
    (let fs := [(8, 2), (10, 1), (11, 1), (16, 8), (24, 8), (32, 8), (40, 8), (48, 1)]
     asked idle 0 3 [(10, 1, 31), (16, 8, 2 ^ 31), (24, 8, 2 ^ 14)] fs (fun t rq => ownsCtx t 0 false fun x =>
        grantOk (rqField rq 10 1) (rqField rq 11 1) (2 ^ 31) (2 ^ 14) 0 0 0 && !x.overlapsGrant (2 ^ 31) (2 ^ 14) && rqField rq 11 1 == 0 && match t.takeFresh.2.makeGrant 0 31 0 (2 ^ 31) (2 ^ 14) 0 0 0 [] with
          | some (_, u) => (u.shoot 0 (2 ^ 31) (2 ^ 14)).2.shootsDone 0 == false
          | none => false) &&
     asked { idle with pkg := { idle.pkg with livemap := 0 } } 0 3 [(10, 1, 31), (16, 8, 2 ^ 31), (24, 8, 2 ^ 14)] fs (fun t _ => ownsCtx t 0 false fun _ =>
        match t.takeFresh.2.makeGrant 0 31 0 (2 ^ 31) (2 ^ 14) 0 0 0 [] with
          | some (_, u) => (u.shoot 0 (2 ^ 31) (2 ^ 14)).2.shootsDone 0
          | none => false) &&
     asked idle 0 3 [(10, 1, 32), (16, 8, 2 ^ 31), (24, 8, 2 ^ 14)] fs (fun t rq => ownsCtx t 0 false fun _ => !grantOk (rqField rq 10 1) 0 (2 ^ 31) (2 ^ 14) 0 0 0) &&
     asked idle 0 3 [(10, 1, 31), (16, 8, va0), (24, 8, 2 ^ 14)] fs (fun t _ => ownsCtx t 0 false fun x => x.overlapsGrant va0 (2 ^ 14))) = true := by decide +kernel
theorem witness_MailboxCommands_7 :
    (let s := { idle.modCtx 0 (fun c => { c with rootRa := 2 ^ 24 }) with ptes := [], raNext := 2 ^ 10 + 2048 }
     decide (2 ^ 24 / 2 ^ 14 + 2048 ≤ s.pkg.device * 2 ^ 32 + s.raNext) && decide (s.raNext + 64 ≤ 2 ^ 32) && (s.makeGrant 0 31 0 (2 ^ 57 - 2 ^ 14) (2 ^ 14) 0 0 0 []).isSome) = true := by decide +kernel
theorem witness_MailboxCommands_8 :
    (asked idle 0 4 [(16, 8, va0)] [(8, 2), (16, 8)] (fun t _ => ownsCtx t 0 true fun x => x.grants.find? (fun g => g.va == va0) == some aGrant && !t.grantBusy 0 aGrant && !(t.revoke 0 aGrant).shootsDone 0 && t.domainDev 0 == 0) &&
     asked { idle with engines := [], pkg := { idle.pkg with livemap := 0 } } 0 4 [(16, 8, va0)] [(8, 2), (16, 8)] (fun t _ => (t.revoke 0 aGrant).shootsDone 0 && !(t.revoke 0 aGrant).withdrawing 0) && aGrant.va % 2 ^ 14 == 0 && aGrant.len % 2 ^ 14 == 0) = true := by decide +kernel
theorem witness_MailboxCommands_9 :
    (asked idle 0 5 [(16, 8, va0 + 2 ^ 14 - 1)] [(8, 2), (16, 8)] (fun t rq => ownsCtx t 0 false fun _ => t.walk 0 (rqField rq 16 8) == some (ra0 + 2 ^ 14 - 1, 0x3E, 1)) &&
     asked idle 0 5 [(16, 8, 2 ^ 57 - 1)] [(8, 2), (16, 8)] (fun t rq => ownsCtx t 0 false fun _ => (t.walk 0 (rqField rq 16 8)).isNone && decide (rqField rq 16 8 < 2 ^ 57))) = true := by decide +kernel
theorem witness_MailboxCommands_10 :
    (asked idle 0 6 [(8, 2, 1023), (16, 8, 2 ^ 28)] [(8, 2), (10, 2), (16, 8)] (fun t rq => ownsCtx t 0 false fun _ => decide (rqField rq 8 2 < t.maxWinOf 0) && (tget? (t.fnOf 0).wins 1023).isNone) &&
     asked (idle.setFn 0 { idle.fnOf 0 with wins := [(3, ⟨0, 0⟩)] }) 0 6 [(8, 2, 3)] [(8, 2), (10, 2), (16, 8)] (fun t rq => ownsCtx t 0 false fun _ => (tget? (t.fnOf 0).wins (rqField rq 8 2)).isSome)) = true := by decide +kernel
theorem witness_MailboxCommands_11 :
    (asked idle 0 7 [] [(8, 2)] (fun t _ => (tget? (t.fnOf 0).wins 0).isNone) &&
     asked (idle.setFn 0 { idle.fnOf 0 with wins := [(3, ⟨0, 0⟩)] }) 0 7 [(8, 2, 3)] [(8, 2)] (fun t _ => (tget? (t.fnOf 0).wins 3).isSome && !(t.setFn 0 { t.fnOf 0 with wins := tdel (t.fnOf 0).wins 3 }).hostBusy 0) &&
     asked { idle.setFn 0 { idle.fnOf 0 with wins := [(3, ⟨0, 0⟩)] } with ops := [(1, anOp .seq [] (.host 0) 1)] } 0 7 [(8, 2, 3)] [(8, 2)] (fun t _ =>
       (tget? (t.fnOf 0).wins 3).isSome && (t.setFn 0 { t.fnOf 0 with wins := tdel (t.fnOf 0).wins 3 }).hostBusy 0)) = true := by decide +kernel
theorem witness_MailboxCommands_12 :
    (asked idle 0 8 [(10, 1, 16), (12, 2, 2047), (16, 8, 64)] [(8, 2), (10, 1), (11, 1), (12, 2), (16, 8)] fun t rq => ownsCtx t 0 false fun x =>
      decide (rqField rq 10 1 ≤ 16) && decide (rqField rq 11 1 ≤ x.ceil) && decide (rqField rq 12 2 < t.maxVecOf 0) && rqField rq 16 8 % 64 == 0 &&
        decide ((t.queues.filter fun kv => decide (kv.1 < 131072) && kv.2.ctx == 0 && kv.2.st != QState.free).length < x.qquota) && decide (t.queuesHeld 0 < t.maxQOf 0) && (tget? t.queues 0).isNone) = true := by decide +kernel
theorem witness_MailboxCommands_13 :
    ([9, 10].all fun code => [Pkt.mk 1 0 false 0 [] true false none false false, Pkt.mk 0 0 false 0 [] true true none false false].all fun p =>
      asked { idle with queues := [(0, aQueue 0 [] [(0, p)])] } 0 code [] [(8, 4)] fun t rq =>
        match t.namedQueue 0 (rqField rq 8 4) with | .ok (q, x) => q == 0 && x.pkts == [(0, p)] && !t.tailPosted 0 q && (p.live == (p.kind == 1)) &&
          (t.setFn 0 { t.fnOf 0 with posted := [.tail q 1] }).tailPosted 0 q | .error _ => false) = true := by decide +kernel
theorem witness_MailboxCommands_14 :
    (let s := { idle with ctxs := [] }
     asked s 1 11 [] [(8, 1), (9, 1), (10, 2), (12, 2), (14, 2), (16, 2)] (fun _ _ => true) &&
     asked s 0 11 [(8, 1, 63), (9, 1, 63), (10, 2, 1024), (12, 2, 16384), (14, 2, 1984), (16, 2, 64)] [(8, 1), (9, 1), (10, 2), (12, 2), (14, 2), (16, 2)] fun t rq =>
       rqField rq 8 1 == 63 && rqField rq 9 1 == 63 && rqField rq 12 2 == 16384 && rqField rq 16 2 == 64 && rqField rq 14 2 + 64 == 2048 && t.ctxs == [] && t.queues == [] &&
       (List.range 256).all (fun v => (t.fnOf v).maxCtx == 0 && (t.fnOf v).maxQ == 0 && (t.fnOf v).maxVec == 0) && (t.fnOf 63).wins == [] && (t.fnOf 0).vec == 0 && (t.fnOf 63).errvec == 0) = true := by decide +kernel
theorem witness_MailboxCommands_15 :
    (asked idle 1 12 [] [(8, 2)] (fun _ _ => true) && [1199, 1200, 3200, 3201].all fun w => asked idle 0 12 [(8, 2, w)] [(8, 2)] fun _ rq => rqField rq 8 2 == w) = true := by decide +kernel
theorem witness_MailboxCommands_16 :
    (let s := asking idle 0 (entry [(0, 1, 13)])
     match s.pendingRequest 0 with | some (0, rq) => rqField rq 0 1 == 13 && (s.fnOf 0).cur.isNone | _ => false) = true := by decide +kernel

/-- A packet by its words; queue 0 with its ring at the page's start, whose first slot holds a packet's words, and the packets taken. -/
def aPkt (kind sop : Nat) (ws : List Nat) : Pkt := pktOf (((kind + sop * 2 ^ 10) :: ws ++ List.replicate (7 - ws.length) 0).flatMap (natLe 8))
def homeC : Entry := { home0 with holder := mkHolder 0 0 2 }
def ringed (ws : List Nat) (pkts : Tab Pkt) (f : Queue → Queue) : State :=
  let k := keyHolder (mkHolder 0 0 2) ra0
  { tabled base with
    engines := [(0, ⟨[homeC], [], 0, 0, []⟩), (8, ⟨[homeC], [], 0, 0, []⟩)], queues := [(0, f (aQueue 0 [] pkts))]
    mem := (bytesAt k (ws.flatMap (natLe 8))).filter fun kv => kv.2 != 0, tags := (List.range 8).map fun i => (k / 128 + i, 1) }
def packetAt (s : State) (kind : Nat) (p : Queue → Pkt → Bool) : Bool := match s.packet? 0 0 kind with | some (x, k) => x.free 0 k && (k.vas.all fun v => s.named x.ctx v) && p x k | none => false
def takesRead (s : State) (p : Queue → List Byte → State → Bool) : Bool := match tget? s.queues 0 with
  | some x => x.takes && x.reading.isNone && match s.pkgRead x.ctx 8 (x.ring.toNat + 64 * (x.head.toNat % 2 ^ x.logN)) 64 with | (.bytes bs, t) => p x bs t | _ => false
  | none => false
def started (p : Pkt) : Pkt := { p with started := true }
/-- A launch record at the page's start with its trap table behind it; a graph of one node behind both. -/
def recWords : List Nat := [va0, va0, va0, 1 + 2 ^ 32 + 2 ^ 48, 1 + 2 ^ 8 + 2 ^ 16, 0, 2 ^ 32, 0, 0, va0, va0, va0 + 256] ++ List.replicate 21 0 ++ List.replicate 11 va0 ++ List.replicate 20 0
def recorded : State := ringed recWords [(0, aPkt 1 0 [va0])] fun x => { x with head := 1, tail := 2 }
def graphed : State := ringed (recWords ++ [1, 0, 0, 0, 0, 0, 0, 0, 1, va0]) [(0, aPkt 2 0 [va0 + 512])] fun x => { x with head := 1, tail := 2 }
theorem witness_PacketEvents :
    (takesRead (ringed [1 + 2 ^ 10 * 0, va0] [] id) fun x bs t => (pktOf bs).valid && (pktOf bs).vas.all fun v => (t.modQueue 0 fun y => { y with head := y.head + 1 }).named x.ctx v) = true ∧
    (takesRead (ringed [] [] id) fun _ bs _ => !(pktOf bs).valid) = true ∧
    (takesRead (ringed [1, 2 ^ 56] [] id) fun x bs t => (pktOf bs).valid && (pktOf bs).vas.any fun v => !(t.modQueue 0 fun y => { y with head := y.head + 1 }).named x.ctx v) = true ∧
    (let s := ringed [] [] fun x => { x with ring := 2 ^ 56 }
     match tget? s.queues 0 with | some x => x.takes && (match s.pkgRead x.ctx 8 (x.ring.toNat + 64 * (x.head.toNat % 2 ^ x.logN)) 64 with | (.denied, _) => true | _ => false) | none => false) = true ∧
    ([va0, 2 ^ 56].all fun ring =>
      let s := ringed [1, va0] [(0, Pkt.inFlight)] fun x => { x with ring := BitVec.ofNat 64 ring, head := 1 }
      match tget? s.queues 0 with
      | some x => x.reading == some 0 && (match s.pkgRead x.ctx 8 (x.ring.toNat + 64 * (0 % 2 ^ x.logN)) 64 with
        | (.bytes _, _) => ring == va0
        | (.denied, _) => ring != va0
        | _ => false)
      | none => false) = true ∧
    (packetAt recorded 1 fun x p => match recorded.readRecord x.ctx 8 (p.word 1).toNat with | (.ok r, _) => r.gridX == 1 | _ => false) = true ∧
    (let s := ringed [] [(0, aPkt 1 0 [va0])] fun x => { x with head := 1, tail := 2 }
     packetAt s 1 fun x p => match s.readRecord x.ctx 8 (p.word 1).toNat with | (.bad, _) => true | _ => false) = true ∧
    (packetAt graphed 2 fun x p => p.op.isNone && match graphed.readGraph x.ctx (p.word 1).toNat with | (.ok ns, _) => ns.length == 1 | _ => false) = true ∧
    (let s := { ringed [] [(0, { aPkt 2 0 [va0] with op := some 5 })] fun x => { x with head := 1, tail := 2 } with graphs := [(9, ⟨0, 0, 0, []⟩)] }
     packetAt s 2 fun _ p => p.op == some 5 && (tget? s.ops 5).isNone) = true ∧
    ([0, 1, 2, 3].all fun c => [6, 7, 8].all fun v =>
      let s := ringed [v] [(0, aPkt 3 0 [va0, 7, 255, c])] fun x => { x with head := 1, tail := 2 }
      packetAt s 3 fun x p => match (((s.setPkt 0 0 (started p)).modQueue 0 fun y => { y with hold := some 0 }).readWords x.ctx [(p.word 1).toNat] []).1 with | .ok [w] => w == BitVec.ofNat 64 v && (p.word 4).toNat % 16 == c | _ => false) = true ∧
    ([0, 1].all fun v =>
      let s := ringed [v] [(0, aPkt 5 0 [va0, 0, va0 + 8])] fun x => { x with head := 1, tail := 2 }
      packetAt s 5 fun x p => match (((s.setPkt 0 0 (started p)).modQueue 0 fun y => { y with hold := some 0 }).readWords x.ctx (p.vas.map Prod.fst) []).1 with | .ok ws => ws == [BitVec.ofNat 64 v, 0] | _ => false) = true ∧
    ([2 ^ 32, 2 ^ 32 - 1].all fun v =>
      let p := started (aPkt 3 0 [va0, 7, 255, v])
      let s := ringed [] [(0, p)] fun x => { x with head := 1, tail := 2, hold := some 0 }
      match tget? s.queues 0 with | some x => x.hold == some 0 && tget? x.pkts 0 == some p && !p.finished && p.kind == 3 && (p.word 4).toNat == v | none => false) = true ∧
    ([1, 2].all fun sop => let s := ringed [] [(0, aPkt 4 sop [va0, 7])] fun x => { x with head := 1, tail := 2 }
     packetAt s 4 fun x p => match s.reachVa (.mp x.ctx) x.ctx 8 (p.word 1).toNat 8 (permRd ||| permWr ||| permAt) true true with | (.ok [_], _) => true | _ => false) = true ∧
    (let p := { started (aPkt 1 0 [va0]) with finished := true }
     let s := ringed [] [(0, p)] fun x => { x with head := 1, tail := 2 }
     s.signalled p && !{ s with ops := [(5, anOp .seq [] .plain 1)] }.signalled { p with op := some 5 } && s.workDone 0 0 && !{ s with grids := [(3, aGrid small)] }.workDone 0 0 &&
       match tget? s.queues 0 with | some x => x.st == .active && x.done.toNat == 0 && x.done != x.head && x.done + 1 == x.head && tget? x.pkts 0 == some p | none => false) = true ∧
    (let s := ringed [] [(0, started (aPkt 1 0 [va0])), (1, { started (aPkt 1 0 [va0]) with finished := true })] fun x => { x with head := 2, tail := 2 }
     match tget? s.queues 0 with | some x => (tget? x.pkts x.done.toNat).isSome && x.done.toNat != 1 && (tget? x.pkts 1).isSome | none => false) = true := by decide +kernel

/-- The device ready, its queue 0 and a BAR4 window over the page. -/
def hosted : State :=
  let s := (ringed [] [] id).modCtx 0 fun c => { c with grants := [aGrant] }
  let s := { s with pkg := { s.pkg with powered := true, bootstat := 1 } }
  s.setFn 0 { s.fnOf 0 with wins := [(3, ⟨0, ra0⟩)] }
def hostOut (s : State) : State := { s with ops := [(1, anOp .seq [] (.host 0) 1)] }
theorem witness_HostAccesses :
    (let s := { hosted with pkg := { hosted.pkg with bootstat := 0 } }
     !s.isReady && s.pkg.powered && hosted.isReady) = true ∧
    ([(0, 256), (0, 257)].all fun x => (256 < ((BitVec.ofNat 32 x.2 : W32) - (hosted.fnOf x.1).done).toNat) == (x.2 == 257) && !hosted.hostWrites x.1) = true ∧
    ((hostOut hosted).hostWrites 0 && hosted.maxVecOf 0 == 2048 && hosted.maxVecOf 1 == 0 && (hosted.fnOf 0).head == (hosted.fnOf 0).done) = true ∧
    (let s := hosted.setFn 0 { hosted.fnOf 0 with head := 1 }
     (s.fnOf 0).head != (s.fnOf 0).done) = true ∧
    (decide (0x3FFC < 0x4000) && 0x3FFC % 4 == 0 && decide (0x4000 ≤ 0x4000) && 0x1FC % 4 == 0) = true ∧
    ((hosted.globalQ 0 1).isNone && hosted.globalQ 0 0 == some 0 && match tget? hosted.queues 0 with
      | some x => x.fn == 0 && x.st == .active && x.tail == 1 && decide (((2 : W32) - x.head).toNat ≤ 2 ^ x.logN) && decide (2 ^ x.logN < ((3 : W32) - x.head).toNat)
      | none => false) = true ∧
    (let s := { hosted with queues := [(0, { aQueue 0 [] [] with st := .error })] }
     s.globalQ 0 0 == some 0 && match tget? s.queues 0 with | some x => x.st != .active | none => false) = true ∧
    ((tget? (hosted.fnOf 0).wins 2).isNone && tget? (hosted.fnOf 0).wins 3 == some ⟨0, ra0⟩ && (tget? { hosted with ctxs := [] }.ctxs 0).isNone) = true ∧
    ([true, false].all fun w => match hosted.hostPieces 0 0 w ((hostParts (ra0 + (2 ^ 14 - 8) % 2 ^ 28) 8).map Prod.snd) with | (.go, _) => true | _ => false) = true ∧
    (hosted.ctxs.all fun kv => kv.2.fn != 5) = true := by decide +kernel

def aWalk (va : Nat) (marked : Bool) : Walk := ⟨0, 0, va, 0, marked, ⟨.stream 0 (.warp 0), 0, 0, 0, 0, 0, 0⟩, [⟨0, va, 8⟩]⟩
def aShoot (dies : List Nat) : Shoot := ⟨0, va0, 2 ^ 14, 1, dies, []⟩
/-- A held request of the page, and the machine that holds it, the page in a grant of a kind, with no route. -/
def held (why : Held) (agent : Agent) : Req := { aReq .load .nc ra0 [] with why := why, agent := agent }
def faulted (kind : Nat) (r : Req) (es : List Entry) : State :=
  let s := (tabled base).modCtx 0 fun c => { c with grants := [{ aGrant with kind := kind }], rquota := 9, rootLog := 22 }
  { s with pkg := { s.pkg with livemap := 0xFFFFFF }, engines := [(0, ⟨es, [], 0, 0, []⟩), (8, ⟨es, [], 0, 0, []⟩)], reqs := [(1, r)] }
def regenE : Entry := { home0 with st := .regen, home := false, holder := 15 }
def aRegen (grid : Option Nat) : Regen := { ctx := 0, lrec := BitVec.ofNat 64 va0, copy := [], param := 5, lock := false, depth := 0, grid := grid, pfx := 64, len := 42, holder := 0 }
def regened (grid : Option Nat) : State := { faulted 2 (held .regen (.stream 0 (.warp 0))) [regenE] with regens := [(15, aRegen grid)] }
theorem witness_PageFaults :
    ([va0, 2 ^ 40].all fun va => let s := { tabled base with walks := [aWalk va false] }
     s.walks == [aWalk va false] && (s.translated 0 0).isEmpty && olderGen 0 1 && !olderGen 1 1 && (s.walk 0 va).isSome == (va == va0) && (aWalk va true).marked) = true ∧
    ((tget? (tabled base).cores 0).isSome && !(aShoot [0]).dies.contains 1 && tget? { tabled base with shoots := [(7, aShoot [0])] }.shoots 7 == some (aShoot [0])) = true ∧
    (let s := { faulted 0 (held .unrouted (.stream 0 (.warp 0))) [] with shoots := [(7, aShoot [0])] }
     s.translated 0 0 == [ra0] && (tgetD s.tlb2 0 []).isEmpty && ([(0, ra0, 2 ^ 14)].any fun e => e.1 == 0 && decide (e.2.1 ≤ ra0) && decide (ra0 < e.2.1 + e.2.2)) &&
       s.resolved (held .unrouted (.stream 0 (.warp 0))) && ((s.engine 0).longest ra0).isEmpty && !s.hopeless (held .unrouted (.stream 0 (.warp 0))) &&
       (s.grantOf ra0 == some (0, aGrant)) && (s.firstTouch 0 42).isSome && decide ((s.engine 8).entries.length < 16384) && (List.range 9).all fun k => ((s.engine k).longest ra0).isEmpty) = true ∧
    (let s := { (faulted 0 (held .unrouted (.stream 0 (.warp 0))) []).modCtx 0 fun c => { c with grants := [] } with shoots := [] }
     s.hopeless (held .unrouted (.stream 0 (.warp 0))) && (tget? s.reqs 1).isSome) = true ∧
    (let s := faulted 1 (held .unrouted (.stream 0 (.warp 0))) []
     match s.grantOf ra0 with | some (c, g) => c == 0 && g.kind == 1 | none => false) = true ∧
    ([none, some 3].all fun g => let r := held .regen (.stream 0 (.warp 0))
     let s := regened g
     tget? s.reqs 1 == some r && !s.hopeless r && (s.note 1 r).regenHandle r.die r.ra == some 15 && match tget? (s.note 1 r).regens 15 with | some x => x.grid == g | none => false) = true ∧
    (tget? (faulted 0 (held .promote (.stream 0 (.warp 0))) [home0]).reqs 1 == some (held .promote (.stream 0 (.warp 0)))) = true ∧
    ([Agent.mp 0, .stream 0 (.warp 0)].all fun a => tget? (faulted 0 (held .cow a) [home0]).reqs 1 == some (held .cow a) && (held .cow a).sd.isNone) = true ∧
    (let s := faulted 0 (held .cow (.mp 0)) [home0]
     let s := s.setLeaf 0 va0 1 ra0 0x2F
     match s.walk 0 va0 with | some (ra, perm, 1) => perm &&& permCow != 0 && decide (s.frameCount (ra / 2 ^ 14 * 2 ^ 14) < 2) | _ => false) = true ∧
    (let s := { recorded with pkg := { recorded.pkg with livemap := 0xFFFFFF } }
     match s.judge 0 8 va0 (match s.pkgRead 0 8 va0 256 with | (.bytes bs, _) => bs | _ => []) with | (.ok _, s1) => (match s1.findRoom [s1.touchDie 0] 42 (s1.stackOf (s1.touchDie 0) 42) with | .here _ => true | _ => false) | _ => false) = true ∧
    (let r := { held .unrouted (.stream 0 (.warp 0)) with op := some 3 }
     let s := { faulted 0 r [] with reqs := [(1, r), (2, { r with why := .locked })] }
     tget? s.reqs 1 == some r && !s.resolved r) = true ∧
    ((tget? (regened (some 3)).grids 3).isNone && (regened (some 3)).regens == [(15, aRegen (some 3))] && (tget? { regened (some 3) with grids := [(3, aGrid small)] }.grids 3).isSome) = true := by decide +kernel

def aRec (code : Nat) (keep : Bool) : ErrRec := ⟨code, true, false, 0, 0, 0, 0, 0, 9, List.replicate 32 0, keep⟩
def erring (r : ErrRec) (b : Byte) : State := (base.modCtx 0 fun c => { c with eqHeld := [r], eqBase := 64, eqN := 64, eqSeq := 2 ^ 32 - 1 }).hostWr (64 + 64 * 63) [b]
def locOf (store : Nat) : ErrLoc := ⟨store, 0, 0, 5, 3, if store = 7 then ra0 else 16, 0⟩
def channel (paused : Bool) : State := { base with chans := [(64 + 5, ⟨paused, 1, 3, 0, []⟩)], reqs := [(1, { aReq .load .nc ra0 [] with why := .channel })] }
theorem witness_ErrorsAndContextLoss :
    ([(aRec 3 false, (0 : Byte)), (aRec 3 true, 1), (aRec 3 false, 1)].all fun x => let s := erring x.1 x.2
     match tget? s.ctxs 0 with | some c => c.eqHeld == [x.1] && (s.hostRd c.eqSlot 1 == [0]) == (x.2 == 0) && x.1.body.length == 32 && x.1.code != 1 | none => false) = true ∧
    ([true, false].all fun e => match tget? (base.modCtx 0 fun c => { c with ended := e, later := 65535 }).ctxs 0 with | some x => x.ended == e && x.lost.isNone | none => false) = true ∧
    (base.poison == [] && base.pushes == [] && base.rowSets == [] && base.regens == [] && twf base.blocks && !base.blocks.isEmpty) = true ∧
    (decide (2 ≤ (locOf 2).store) && (({ base with merges := [⟨locOf 6, 0⟩] } : State).merges.any fun m => m.loc == locOf 6) && base.merges == []) = true ∧
    ([true, false].all fun p => let s := channel p
     match tget? s.chans (1 * 64 + 5) with | some x => x.paused == p && (tget? s.reqs 1).isSome | none => false) = true ∧
    ([0, 1].all fun d => let s := (mapped base).modCore 0 fun c => { c with l1 := [(ra0 / 128, { aLine with dirty := BitVec.ofNat 128 d })] }
     match tget? s.cores (coreNo (locOf 7).die (locOf 7).core) with
     | some c => (match tget? c.l1 ((locOf 7).addr / 128) with | some ln => ln.dirty == BitVec.ofNat 128 d && ln.own == 0 | none => false)
     | none => false) = true := by decide +kernel

/-- A start in which everything passes. -/
def goodEnv : BootEnv := { fuseOk := true, hostWidth := 16, hostGen := 7, badLanes := [], portCosts := [(3, 255), (4, 0)], badSublinks := [], badDies := [], badCores := [(0, 95)], stackBest := [], routesOk := true, badPorts := [], device := 1023 }
def up : State := { base with pkg := { State.reset.pkg with powered := true, bootstat := BitVec.ofNat 32 (3 * 2 ^ 24), islands := firstClocks, livemap := 0xFFFFFF, ports := [(0, ⟨true, false, 16, 0⟩), (1, ⟨false, false, 16, 0⟩)] } }
theorem witness_PackageEvents :
    (up.pkg.powered && !State.reset.pkg.powered && (Pkg.reset.bringUp goodEnv).bootstat.toNat % 2 == 1 && (Pkg.reset.bringUp { goodEnv with fuseOk := false }).bootstat.toNat % 2 == 0) = true ∧
    (let p := Pkg.reset
     let bad : FwImage := { p.slotA with sigOk := false }
     let q := { p with slotA := bad, slotB := bad }
     !q.verifies q.slotA && !q.verifies q.slotB && p.verifies p.slotA && p.verifies p.sched && !({ p with sched := bad } : Pkg).verifies bad) = true ∧
    (decide (255 < 256) && decide (15 < 16) && Pkg.reset.ring.length == 0) = true ∧
    ((tget? up.pkg.islands 7).isSome && decide (3200 ≤ up.pkg.limitInForce) && decide (up.pkg.limitInForce < 3201) && (List.range 8).any (fun j => decide (300 < up.pkg.mhz j)) && (tget? up.pkg.islands 15).isSome) = true ∧
    (let s := { up with pkg := { up.pkg with islands := (List.range 16).map fun k => (k, ⟨if k < 8 then 300 else 2000, 800⟩) } }
     (List.range 8).all fun j => decide (s.pkg.mhz j ≤ 300)) = true ∧
    ([(300, true), (1200, true), (299, false), (1201, false), (310, false)].all fun x => clockOk 7 x.1 850 == x.2) = true ∧
    (let s := { up with pkg := { up.pkg with retired := [(0, 0x7FFF)] } }
     let t := { s with pkg := { s.pkg with retired := [(0, 0xFFFF)] } }
     s.edgeUp 0 && !t.edgeUp 0 && edges[0]?.isSome) = true ∧
    (up.portUp 0 && !up.portUp 1 && (tget? up.pkg.ports 1).isSome) = true ∧
    ([(16, 7), (8, 7), (16, 6)].all fun x => let env := { goodEnv with hostWidth := x.1, hostGen := x.2 }
      let q := Pkg.reset.bringUp env
      (trainedWidth env == 16 && trainedGen env == 7) == (x == (16, 7)) && q.bootstat.toNat / 2 ^ 28 == 7) = true ∧
    (decide (3 ≤ up.pkg.bootstat.toNat / 2 ^ 24 % 16)) = true := by decide +kernel

end Sys2Proof.Tests
end

