-- ==== Sys2Proof/Tests/Witness6.lean ====
section
/-! SUPPORT. The same for the clauses that say where an instruction waits or traps, and for the events of several phases. -/

namespace Sys2Proof.Tests

set_option Elab.async false

open Sys2Proof Sys2Proof.Machine

/-- A load of a stream still on its way, and a write of a stream that has not landed. -/
def loadingBy (s : State) (st : Stream) : State := { s with ops := [(1, anOp st [(5, 0)] .plain 1)] }
def storingBy (s : State) (st : Stream) : State :=
  { s with reqs := [(5, { backReq 0 0 (bytesAt ra0 [1]) none 0 0 with agent := .stream 0 st })] }
def aStore : PadOut := ⟨0, .warp 0, 0, 0, [(keySpad 0 0, 1)]⟩

theorem witness_StepRunsDecoded_stores :
    (let s := { base with padOut := [aStore] }
     s.schedule == [] && s.padOut != [] && ({ base with padOut := [{ aStore with st := .seq }] } : State).padOut.all fun x => x.st != .warp 0) = true := by
  decide +kernel

theorem witness_SystemInstructions_empty : (hereOf base fun h => h.part ⟨true, 7⟩ == [] && h.free base ⟨true, 7⟩ [] [] &&
    h.free base ⟨true, 7⟩ [opd2 2] []) = true := by decide +kernel

/-- A filling store of .cp before its release: a release that can open, and one that must wait for a store still on its way. -/
theorem witness_ScratchpadAccesses_release :
    ([false, true].all fun w =>
      let s := filled (mapped base) 2 fun _ => 4096 - 16
      let s := if w then storingBy s (.warp 0) else s
      hereOf s fun h => h.acts s g7 l43 [(4, 4), opd1 2] && h.inPad s .chip g7 2 0 16 && h.inPad s .core g7 2 0 16 &&
        s.feReady h.run.fe (grsOf (h.keys s .chip g7 2 0 16) 16) false && s.streamOut h.b.coreNo h.uid (.warp h.w) == w && !h.run.relDone) = true := by
  decide +kernel

/-- A private access in bounds whose address is past 2^57. -/
theorem witness_RoutedLoadsAndStores_high :
    (let s := (filled (mapped base) 2 fun _ => 0).modBlock 0 fun b => { b with
        rcd := { b.rcd with privWords := 8, privBase := BitVec.ofNat 64 (2 ^ 57 - 4) }, warps := tmap (fun _ w => { w with stklim := 8 }) b.warps }
     hereOf s fun h => h.acts s g7 l43 [opd1 4, opd1 2] && (h.part g7).any fun j => h.privIn 2 0 j && decide (2 ^ 57 ≤ h.privEa 2 0 j)) = true := by
  decide +kernel

/-- A clean wide line that a wide load hits, an .own store over a line, and a store to two addresses of one line. -/
theorem witness_StoresAndCaches_own :
    (let s := (mapped base).modCore 0 fun c => { c with l1 := [(ra0 / 128, { aLine with wide := true })] }
     let r := { aReq .load .own (ra0 + 4) [0, 0, 0, 0] with wide := true }
     match s.line? 0 (r.ra / 128) with
     | some ln => ln.tag == s.tagOf r.ctx && ln.has (r.ra % 128) r.len && ln.wide && (s.cores.all fun kc => kc.1 == 0) && r.acc != .engineRead
     | none => false) = true ∧
    (let s := cached (mapped base)
     let r := aReq .store .own (ra0 + 124) [9, 9, 9, 9]
     s.resolveFor r false true == .toward home0 && !s.promotes home0.holder r.ra && decide (r.bytes.map fun kv => kv.1 % 128).Nodup &&
       (tget? s.cores 0).isSome && s.cores.all fun kc => kc.1 == 0) = true ∧
    (let s := mapped base
     bit (aLine.dirty ||| aLine.own) 3 == false && !s.unlanded 0 ra0 128 && bit ({ aLine with own := 8 } : Line).own 3) = true ∧
    (let s := { mapped base with engines := [(0, ⟨[{ home0 with lock := true }], [], 0, 0, []⟩)] }
     let r := aReq .store .nc (ra0 + 2 ^ 14 - 4) [9, 8, 7, 6]
     let f : Entry := { home0 with lock := true }
     s.arrival f == some f && f.home && !s.awaitsMarker f && !s.mergesWait (r.ra / 128) r.words r.core && s.resolveFor r false true == .toward f &&
       s.others f == [] && (r.bytes.all fun kv => kv.1 / 128 == r.ra / 128) && decide ((r.bytes.map fun (kv : Nat × Byte) => s.keyAt f.holder kv.1).Nodup)) = true := by
  decide +kernel

/-- ATOMS out of bounds, misaligned, at one address, and of sound addresses; finite words for the sum. -/
theorem witness_Atomics_pad :
    (let s := filled base 2 fun l => BitVec.ofNat 32 (4096 - 4 * l)
     hereOf s fun h => h.acts s g7 l43 [(4, 1), opd1 2, (6, aopRegs .add .b32)] && !h.inPad s .core g7 2 0 4) = true ∧
    (let s := filled base 2 fun l => BitVec.ofNat 32 (2 * l)
     hereOf s fun h => h.acts s g7 l43 [(4, 1), opd1 2, (6, 1)] && h.inPad s .core g7 2 0 4 && (h.part g7).any fun j => (h.addr 2 0 j).toNat % 4 != 0) = true ∧
    (let s := filled base 2 fun _ => 8
     hereOf s fun h => h.acts s g7 l43 [(4, 1), opd1 2, (6, 1)] && h.inPad s .core g7 2 0 4 && ((h.part g7).all fun j => (h.addr 2 0 j).toNat % 4 == 0) &&
       sameAddr (h.part g7) (fun j => (h.addr 2 0 j).toNat) 4 != 0) = true ∧
    (finiteCode .f32 0x3F800000 && finiteCode .f32 0xBF800000 && aopNew ⟨.addF32, 4, 0x3F800000, 0⟩ 0x3F800000 == some 0x40000000) = true := by
  decide +kernel

theorem witness_LaneFences_stores : ({ base with padOut := [{ aStore with st := .seq }] } : State).padOut.all (fun x => x.uid != 0 || x.st != .warp 0) = true := by
  decide

/-- A pop behind a load, of an entry still to be filled, and a push behind a write. -/
theorem witness_LaneQueues_waits : (let e : QEntry := ⟨1, [], 63, 0, true⟩
    let s := withBlock base fun b => { b with queues := [(3, [e]), (4, [{ e with ready := false }])] }
    (hereOf (loadingBy s (.warp 0)) fun h => h.acts (loadingBy s (.warp 0)) g7 l43 [opd1 255] && h.b.popFor 3 h.w == some e && e.ready &&
      (loadingBy s (.warp 0)).loading h.uid (.warp h.w)) &&
    (hereOf s fun h => h.b.popFor 4 h.w == some { e with ready := false }) &&
    hereOf (storingBy s (.warp 0)) fun h => h.acts (storingBy s (.warp 0)) g7 l43 [opd1 255] && decide ((tgetD h.b.queues 3 []).length < 16) &&
      (storingBy s (.warp 0)).streamOut h.b.coreNo h.uid (.warp h.w)) = true := by decide +kernel

/-- A wide release of the sequencer, an acquire behind its load, a release behind its commands, BARA behind its writes, and its run at a
barrier. -/
theorem witness_SequencerControl_waits :
    (let s := mapped sbase
     seqOf s fun h => h.acts s l43 [] && !s.loading h.uid .seq && !s.commandsOut h.uid && isWide .pkg && s.padOut.isEmpty &&
       (match tget? s.cores h.b.coreNo with | some c => decide ((c.rels.map fun r => r.round).eraseDups.length < 4) | none => false) &&
       (tget? (s.cleanCore h.b.coreNo).cores h.b.coreNo).isSome && (s.cleanCore h.b.coreNo).block? h.uid == some h.b) = true ∧
    (let s := loadingBy sbase .seq
     seqOf s fun h => h.acts s l43 [] && s.loading h.uid .seq) = true ∧
    (let s := { sbase with ops := [(1, anOp .seq [] (.chain 2) 1)] }
     seqOf s fun h => h.acts s l43 [] && s.commandsOut h.uid && s.seqOut h.b.coreNo h.uid) = true ∧
    (seqOf sbase fun h => !sbase.seqOut h.b.coreNo h.uid) = true := by decide +kernel

/-- Queue 3 with a ready entry, queue 4 full, queue 5 with one still to be filled. -/
def filling (s : State) : State := (queued s).modBlock 0 fun b => { b with queues := tset b.queues 5 [⟨9, [], 63, 0, false⟩] }
def spanned (s : State) : State := sgen (filling s) 3 ⟨4096 - 128, [0, 0, 0, 0], [0, 0, 0, 0], [0, 0, 0, 0], false⟩
theorem witness_SequencerMemory_waits :
    (let s := mapped (sgen (filling sbase) 3 ⟨BitVec.ofNat 64 (2 ^ 57 - 4), [4, 0, 0, 0], [31, 0, 0, 0], [0, 0, 0, 0], false⟩)
     seqOf s fun h => h.acts s l43 [] && (qSpans .gather (h.b.seq.gen 3)).any fun x => decide (2 ^ 57 ≤ x.2.1)) = true ∧
    (let s := sgen sbase 3 ⟨4096, [0, 0, 0, 0], [0, 0, 0, 0], [0, 0, 0, 0], false⟩
     seqOf s fun h => h.acts s l43 [] && s.spanKeys h.b (qSpans .sline (h.b.seq.gen 3)) == none && !qRouted .sline && tagBad h.b 31) = true ∧
    ((seqOf (spanned sbase) fun h => h.acts (spanned sbase) l43 [] && !tagBad h.b 0 && (match (spanned sbase).spanKeys h.b (qSpans .sline (h.b.seq.gen 3)) with
      | some ks => !(spanned sbase).feReady h.run.fe (ks.flatMap fun x => granules x.2.1 x.2.2).eraseDups true
      | none => false) && !(spanned sbase).seqOut h.b.coreNo h.uid && (tgetD h.b.queues 4 []).length == 16 && h.b.select 5 63 == some ⟨9, [], 63, 0, false⟩ && (h.b.select 6 63).isNone) &&
      (seqOf (storingBy (spanned sbase) .seq) fun h => (storingBy (spanned sbase) .seq).seqOut h.b.coreNo h.uid && decide ((tgetD h.b.queues 3 []).length < 16)) &&
      seqOf (loadingBy (spanned sbase) .seq) fun h => (loadingBy (spanned sbase) .seq).loading h.uid .seq && match h.b.select 3 63 with | some e => e.ready | none => false) = true := by
  decide +kernel

/-- A collective whose instance is new, and one that another rank has begun. -/
theorem witness_ContributionsAndCollectives_parts :
    (let d : Desc := { oper := 0, key := 7, npart := 2, rank := 1, bytes := 4, src := va0, dst := va0, root := mkHolder 0 0 0, anchor := 0, timeout := 0 }
     let s := { tabled sbase with colls := [((tabled sbase).collKey 0 8, aColl [aPart 0] none 0)] }
     (tget? s.colls (s.collKey 0 d.key)).isNone && match tget? s.colls (s.collKey 0 8) with
       | some x => x.outcome.isNone && !x.differs { d with key := 8 } && x.parts.all fun q => q.rank != d.rank
       | none => false) = true := by decide +kernel

/-- An answer to a fence from the one engine that is left, from another device's fence, and from one of two. -/
theorem witness_RouteMessages_answers :
    ([([8], true), ([8, 9], true), ([9], false)].all fun x =>
      let m : Msg := { aMsg 1 0 0 [(0, 0), (0, 8)] with op := mFack }
      let r : ROp := { aRop .rfence 0 x.1 with asker := 0 }
      let el := m.path.getD 1 (0, 2 ^ 20)
      m.path.headD (0, 2 ^ 20) == (base.pkg.device, r.asker) && r.pfx == m.pfx && r.len == m.len && r.ver == m.ver && r.acks.contains (el.1 * 16 + el.2) == x.2) = true := by
  decide +kernel

/-- A peer's fill that can copy, and its move whose marker can pass; a drained MIGRATE; a lock's holder that its home's engine knows. -/
theorem witness_RouteFailuresAndHeldRequests_phases :
    (let s := { routed [(0, [home0, replica0 .filling])] 1 with rops := [(1, aRop .peerFill 0 [])] }
     s.copies (aRop .peerFill 0 []) && !s.copies (aRop .withdraw 0 [])) = true ∧
    (let s := { routed [(0, [{ home0 with home := false }, { replica0 .active with home := true }])] 1 with rops := [(1, aRop .peerFill 2 [])] }
     s.marks (aRop .peerFill 2 [])) = true ∧
    ([aRop .withdraw 0 [], aRop .migrate 3 []].all fun r => r.acks.isEmpty && (routed [(0, [home0])] 1).homeDrained r) = true ∧
    (let s := { routed [(0, [home0, replica0 .active])] 1 with locks := [(ra0 / 128, aLock [1] false [])] }
     let known := fun (h : Nat) => (s.engine (homeEngine 0)).entries.find? fun x => x.covers (ra0 / 128 * 128) && x.holder == h
     holderDev (aLock [1] false []).home == s.pkg.device && (known 1).isSome && (known 2).isNone && !s.paused 1 ra0) = true ∧
    (let s := routed [(0, [replica0 .active])] 1
     s.remains 0 1 && s.leastRemaining 0 64 42 == some (replica0 .active)) = true := by decide +kernel

/-- A poisoned granule under ZLD; an operand with poison in a pin, a poisoned tile. -/
theorem witness_MatrixInstructions_poison :
    (let s := { sreg (sreg (mapped sbase) 1 0) 2 512 with poison := [(keyChip 0 0 / 16, 7)] }
     onTiles s [1, 2] fun h => h.b.holdsTile 7 && tileMoveOk (h.get 1) (h.get 2) && match s.padRows h.b .chip 0 512 512 with
       | some ks => (s.rowsPoison ks 512).isSome
       | none => false) = true := by decide +kernel

/-- A set with an operation still under way, an acquiring read behind a load, a SAWAIT that its count does and does not decide. -/
theorem witness_AccumulatorRows_waits :
    (let s := { rowed sbase .live with ops := [(1, anOp .seq [] (.rowOut 65) 1)] }
     seqOf s fun h => h.onRows s l43 [5, 1] && (h.get 1).toNat % 2 ^ 42 == 64 && match tget? s.rowSets 64 with
       | some rs => rs.grid.isNone && s.under h.uid (Fin'.onSet 64 (rs.nrows * rs.pitch))
       | none => false) = true ∧
    (let s := loadingBy (rowed sbase .live) .seq
     seqOf s fun h => h.onRows s l43 [4, 1, 2, 3] && (tget? h.b.seq.pend 5).isNone && s.loading h.uid .seq) = true ∧
    ([(RowState.live, 3), (.evicted, 3), (.live, 4)].all fun x =>
      let r : Run := { mask := 0, hdr := 0, cls := 4, words := [], idx := 0, yieldBit := false, blk := some (.sawait 65 5 x.2 none none) }
      (r.decided 65 (aRow x.1) != r) == (x.1 == .evicted || decide (x.2 ≤ (aRow x.1).count))) = true := by decide +kernel

/-- A drain whose handle names no rows, of a set; of a poisoned tile; and adding to memory at a multiple of four. -/
theorem witness_TileDrains_gone :
    (let s := sreg (mapped sbase) 1 (BitVec.ofNat 64 (7 * 2 ^ 42))
     seqOf s fun h => h.onRows s l43 [1, 2, 3] && h.b.holdsTile 0 && !h.b.tileBad.getLsbD 0 && (h.get 1).toNat / 2 ^ 42 % 8 == 7 &&
       match rowOpd (h.get 2) with | some o => o.n == 1 | none => false) = true ∧
    (let s := (mapped sbase).modBlock 0 fun b => { b with tileBad := 1 }
     seqOf s fun h => h.onRows s l43 [1, 2] && h.b.holdsTile 0 && h.b.tileBad.getLsbD 0) = true := by decide +kernel

/-- A block done that is yet to release at .sys, whose release can begin, and one whose core has four rounds open; a signal that waits for
its page's copy, and one that does not. -/
theorem witness_SchedulerEvents_release :
    ([false, true].all fun w =>
      let s := cut fun b => { b with seq := { b.seq with sexit := true }, warps := tmod b.warps 0 fun w => { w with exited := BitVec.allOnes 32, runs := [] } }
      let s := if w then s.modCore 0 fun c => { c with rels := (List.range 4).map fun k => ⟨k, k, none⟩ } else s
      warpIs s fun b _ => s.blockDone 0 b && !b.released && (s.beginFence b.coreNo 0 .seq .rel .sys).isNone == w) = true ∧
    ([(0x3E, true), (0x2E ||| permCow, false)].all fun x =>
      let s := { (tabled base).setLeaf 0 va0 1 ra0 x.1 with grids := [(0, aGrid { small with doneSig := BitVec.ofNat 64 va0 })] }
      warpIs s fun b _ => (s.doneSigWaits b).isNone == x.2) = true ∧
    ((noded [true] 0).findPush [] (noded [true] 0).pushes).isNone = true := by decide +kernel

/-- A packet read whose home has failed; control blocks reached, denied, and waited for. -/
theorem witness_PacketEvents_control :
    (let lost := { homeC with st := .failed }
     let s := { ringed [1, va0] [] id with engines := [(0, ⟨[lost], [], 0, 0, []⟩), (8, ⟨[lost], [], 0, 0, []⟩)] }
     match tget? s.queues 0 with
     | some x => (match s.pkgRead x.ctx 8 (x.ring.toNat + 64 * (x.head.toNat % 2 ^ x.logN)) 64 with | (.lost, _) => true | _ => false)
     | none => false) = true ∧
    ([(va0, 0), (2 ^ 40, 1)].all fun x =>
      let n := { aNode [] 0 with ctlVa := BitVec.ofNat 64 x.1 }
      let s := ringed [] [] id
      (match s.reachVa (.mp 0) 0 8 n.ctlVa.toNat 64 permWr false true with | (.ok _, _) => x.2 == 0 | (.denied, _) => x.2 == 1 | _ => false) &&
        (s.reachControls 0 [n] []).1.isSome == (x.2 == 0)) = true ∧
    (let s := { ringed [] [] id with engines := [] }
     (match s.reachVa (.mp 0) 0 8 va0 64 permWr false true with | (.wait, _) => true | _ => false)) = true := by decide +kernel

theorem witness_PageFaults_chains :
    (tget? (faulted 0 (held .cow (.chain 0)) [home0]).reqs 1 == some (held .cow (.chain 0)) && (held .cow (.chain 0)).sd.isNone) = true ∧
    (let r := held .regen (.stream 0 (.warp 0))
     let s := { regened none with regens := [] }
     tget? s.reqs 1 == some r && s.resolved r && s.hopeless r) = true ∧
    (let s := faulted 3 (held .unrouted (.stream 0 (.warp 0))) []
     (match s.grantOf ra0 with | some (c, g) => c == 0 && g.kind == 3 | none => false) && decide (64 / 2 ^ 32 = s.pkg.device)) = true ∧
    (let r := { held .unrouted (.stream 0 (.warp 0)) with noted := true }
     !(faulted 0 r []).hopeless r && r.noted) = true := by decide +kernel

end Sys2Proof.Tests
end

section
/-! SUPPORT. The integer instructions of the lanes (15_integer_instructions.md): when the short and the indexed shape complete, what
the bits of the scalar functions are, and the statements of R265 to R270, R274 and R275. -/

namespace Sys2Proof.Machine

open Sys2Proof

/-! ### The shapes -/

/-- R144: an instruction that runs through the short shape and raises no flags completes as its function says. -/
theorem runsShort_of_shortH {i : Instr} {g : Guard} {regs : List (Nat × Nat)} {ps : List Nat} {fx : Here → Nat → LaneFx} {td : W32}
    (he : ∀ s, exec i s = shortH g regs ps fx td s) (h0 : ∀ h l, (fx h l).fl = 0) : RunsShort i g regs ps fx := fun s h hf =>
  (he s).trans (shortH_run hf (h0 h) fun _ => rfl)

theorem runsShort_typed2 {i : Instr} {g : Guard} {t : Ty} {d a b : VReg} {f : Nat → Nat → Nat} (he : ∀ s, exec i s = typed2 g t d a b f s) :
    RunsShort i g [opd t d, opd t a, opd t b] [] fun h l => putTy t d (f (h.wp.src t a l) (h.wp.src t b l)) :=
  runsShort_of_shortH he fun _ _ => rfl

theorem runsShort_typed1 {i : Instr} {g : Guard} {t : Ty} {d a : VReg} {f : Nat → Nat} (he : ∀ s, exec i s = typed1 g t d a f s) :
    RunsShort i g [opd t d, opd t a] [] fun h l => putTy t d (f (h.wp.src t a l)) :=
  runsShort_of_shortH he fun _ _ => rfl

theorem runsShort_shift {i : Instr} {g : Guard} {t : Ty} {d a b : VReg} {f : Nat → Nat → Nat} (he : ∀ s, exec i s = shift g t d a b f s) :
    RunsShort i g [opd t d, opd t a, opd1 b] [] fun h l => putTy t d (f (h.wp.src t a l) (h.nat b l)) :=
  runsShort_of_shortH he fun _ _ => rfl

theorem runsShort_word3 {i : Instr} {g : Guard} {d a b c : VReg} {f : Nat → Nat → Nat → Nat} (he : ∀ s, exec i s = word3 g d a b c f s) :
    RunsShort i g [opd1 d, opd1 a, opd1 b, opd1 c] [] fun h l => put1 d (f (h.nat a l) (h.nat b l) (h.nat c l)) :=
  runsShort_of_shortH he fun _ _ => rfl

theorem runsShort_count {i : Instr} {g : Guard} {t : Ty} {d a : VReg} {f : Nat → Nat} (he : ∀ s, exec i s = count g t d a f s) :
    RunsShort i g [opd1 d, opd t a] [] fun h l => put1 d (f (h.wp.src t a l)) :=
  runsShort_of_shortH he fun _ _ => rfl

theorem fpTrap_nil (s : State) (h : Here) (td : W32) : s.fpTrap h td [] = s := by
  rw [State.fpTrap, fpCause_zero _ [] (by simp)]
  exact ite_self s

/-! ### Masks of threads -/

theorem getLsbD_foldl_threads (l : Nat) (hl : l < 32) (ls : List Nat) (m : W32) (h : m.getLsbD l = true ∨ l ∈ ls) :
    (ls.foldl (fun m i => m ||| BitVec.ofNat 32 (2 ^ i)) m).getLsbD l = true := by
  induction ls generalizing m with
  | nil => simpa using h
  | cons x xs ih =>
    refine ih _ ?_
    rcases h with h | h
    · exact .inl (by simp [h])
    · rcases List.mem_cons.mp h with rfl | h
      · exact .inl (by rw [BitVec.getLsbD_or, BitVec.getLsbD_ofNat, Nat.testBit_two_pow_self, decide_eq_true hl]; simp)
      · exact .inr h

theorem maskOf_ne_zero {ls : List Nat} {l : Nat} (hl : l < 32) (h : l ∈ ls) : maskOf ls ≠ 0 := fun hz => by
  have hb : (maskOf ls).getLsbD l = true := getLsbD_foldl_threads l hl ls 0 (.inr h)
  simp [hz] at hb

theorem part_lt {h : Here} {g : Guard} {l : Nat} (hl : l ∈ h.part g) : l < 32 :=
  List.mem_range.mp (List.mem_filter.mp (List.mem_filter.mp hl).1).1

/-! ### Indexed registers (R274, R275) -/

theorem badIndex_eq_zero {h : Here} {ls : List Nat} {a : VReg} (hi : ∀ l ∈ ls, h.nat a l < 8 * h.b.rcd.vregs) : badIndex h ls a = 0 := by
  have he : (ls.filter fun l => decide (8 * h.b.rcd.vregs ≤ h.wp.src1 a l)) = [] :=
    List.filter_eq_nil_iff.mpr fun l hl => mt of_decide_eq_true (not_le.mpr (hi l hl))
  rw [badIndex, he]
  rfl

theorem badIndex_ne_zero {h : Here} {g : Guard} {a : VReg} (hi : ∃ l ∈ h.part g, 8 * h.b.rcd.vregs ≤ h.nat a l) :
    badIndex h (h.part g) a ≠ 0 := by
  obtain ⟨l, hl, hb⟩ := hi
  exact maskOf_ne_zero (part_lt hl) (List.mem_filter.mpr ⟨hl, decide_eq_true hb⟩)

theorem indexPending_eq_false {h : Here} {ls : List Nat} {a : VReg} (hp : ∀ l ∈ ls, tget? h.wp.pend (regKey (h.nat a l) l) = none) :
    indexPending h ls a = false :=
  List.any_eq_false.mpr fun l hl => by
    rw [show tget? h.wp.pend (regKey (h.wp.src1 a l) l) = none from hp l hl]
    simp

section
variable {s : State} {h : Here} {g : Guard} {regs : List (Nat × Nat)} {a : VReg} (fx : Warp → Nat → LaneFx) (td : W32)

/-- A stream that is free gets as far as the check of its indices. -/
theorem indexed_free (hf : h.free s g regs [] = true) : indexed g regs a fx td s = .next
    (if badIndex h (h.part g) a ≠ 0 then s.trapAt h 7 (badIndex h (h.part g) a) false
    else if indexPending h (h.part g) a then s.waitFor h ((h.part g).filterMap fun l => tget? h.wp.pend (regKey (h.wp.src1 a l) l))
    else s.wrote h g (fx h.wp)) := by
  obtain ⟨h1, h2, h3, h4, h5⟩ := free_iff.mp hf
  simp [indexed, onLane, h1, h2, h3, h4, compared_free _ h5, spoil_free _ h5, fpTrap_nil, State.wrote]

theorem indexed_run (hf : h.free s g regs [] = true)
    (hi : ∀ l ∈ h.part g, h.nat a l < 8 * h.b.rcd.vregs ∧ tget? h.wp.pend (regKey (h.nat a l) l) = none) :
    indexed g regs a fx td s = .next (s.wrote h g (fx h.wp)) := by
  rw [indexed_free fx td hf, badIndex_eq_zero fun l hl => (hi l hl).1, indexPending_eq_false fun l hl => (hi l hl).2]
  rfl

theorem indexed_trap (hf : h.free s g regs [] = true) (hi : ∃ l ∈ h.part g, 8 * h.b.rcd.vregs ≤ h.nat a l) :
    indexed g regs a fx td s =
      .next (s.trapAt h 7 (maskOf ((h.part g).filter fun l => 8 * h.b.rcd.vregs ≤ h.nat a l)) false) := by
  rw [indexed_free fx td hf, if_pos (badIndex_ne_zero hi)]
  rfl

end

/-! ### Bits of integers -/

/-- A bit of an integer in two's complement, by division. -/
theorem testBit_eq_ediv (x : Int) (k : Nat) : x.testBit k = decide (x / 2 ^ k % 2 = 1) := by
  cases x with
  | ofNat n =>
    rw [Int.testBit, Nat.testBit_eq_decide_div_mod_eq]
    exact decide_eq_decide.mpr (by simp only [Int.ofNat_eq_natCast]; norm_cast)
  | negSucc n =>
    have hd : Int.negSucc n / 2 ^ k = -((n / 2 ^ k : Nat) : Int) - 1 := by
      rw [Int.negSucc_ediv _ (by positivity)]
      push_cast
      rw [Int.div_def]
      ring
    rw [Int.testBit, Nat.testBit_eq_decide_div_mod_eq, hd, ← decide_not]
    exact decide_eq_decide.mpr (by omega)

theorem testBit_ediv (x : Int) (p k : Nat) : (x / 2 ^ p).testBit k = x.testBit (p + k) := by
  rw [testBit_eq_ediv, testBit_eq_ediv, Int.ediv_ediv_of_nonneg (by positivity), pow_add]

/-- A multiple of a higher power leaves the bits below it. -/
theorem testBit_add_mul (x q : Int) {n k : Nat} (hk : k < n) : (x + 2 ^ n * q).testBit k = x.testBit k := by
  obtain ⟨m, rfl⟩ := Nat.exists_eq_add_of_lt hk
  have he : x + 2 ^ (k + m + 1) * q = x + 2 ^ k * (2 * (2 ^ m * q)) := by ring
  rw [testBit_eq_ediv, testBit_eq_ediv, he, Int.add_mul_ediv_left _ _ (by positivity)]
  exact decide_eq_decide.mpr (by omega)

theorem testBit_emod (x : Int) {n k : Nat} (hk : k < n) : (x % 2 ^ n).testBit k = x.testBit k := by
  rw [← testBit_add_mul (x % 2 ^ n) (x / 2 ^ n) hk, Int.emod_add_mul_ediv]

theorem testBit_toNat {x : Int} (hx : 0 ≤ x) (k : Nat) : x.toNat.testBit k = x.testBit k := by
  conv_rhs => rw [← Int.toNat_of_nonneg hx]
  rfl

/-- From its length on a number has the bit of its sign. -/
theorem testBit_of_le {x : Int} {n k : Nat} (hl : -2 ^ n ≤ x) (hu : x < 2 ^ n) (hk : n ≤ k) : x.testBit k = decide (x < 0) := by
  have hp : (2 : Int) ^ n ≤ 2 ^ k := pow_le_pow_right₀ (by norm_num) hk
  rw [testBit_eq_ediv]
  by_cases hx : x < 0
  · have hd : x / 2 ^ k = -1 := by
      rw [Int.ediv_eq_iff_of_pos (by positivity)]
      constructor <;> linarith
    simp [hd, hx]
  · simp [Int.ediv_eq_zero_of_lt (by omega) (hu.trans_le hp), hx]

/-- The top bit of a number of `n` bits. -/
theorem testBit_top {x : Int} {n : Nat} (hl : 0 ≤ x) (hu : x < 2 ^ (n + 1)) : x.testBit n = decide (2 ^ n ≤ x) := by
  have h2 : (2 : Int) ^ (n + 1) = 2 * 2 ^ n := pow_succ' 2 n
  rw [testBit_eq_ediv]
  by_cases hx : 2 ^ n ≤ x
  · have hd : x / 2 ^ n = 1 := by
      rw [Int.ediv_eq_iff_of_pos (by positivity)]
      constructor <;> linarith
    simp [hd, hx]
  · rw [Int.ediv_eq_zero_of_lt hl (not_le.mp hx)]
    simp [hx]

/-- R182, R269: a number of `n` bits extended from its top bit where `s` is set, with zeros where it is not. -/
def extend (s : Bool) (n : Nat) (x : Int) : Int := if s && decide (2 ^ (n - 1) ≤ x) then x - 2 ^ n else x

theorem testBit_extend (s : Bool) {n : Nat} {x : Int} (hn : n ≠ 0) (hl : 0 ≤ x) (hu : x < 2 ^ n) (k : Nat) :
    (extend s n x).testBit k = if k < n then x.testBit k else s && x.testBit (n - 1) := by
  obtain ⟨m, rfl⟩ := Nat.exists_eq_add_one_of_ne_zero hn
  have hp : (0 : Int) < 2 ^ (m + 1) := by positivity
  rw [extend, Nat.add_sub_cancel, testBit_top hl hu]
  split
  · next hs =>
    split
    · next hk =>
      rw [← testBit_add_mul x (-1) hk]
      congr 1
      ring
    · next hk =>
      rw [testBit_of_le (n := m + 1) (by linarith) (by linarith) (by omega), hs]
      simpa using hu
  · next hs =>
    split
    · rfl
    · next hk =>
      rw [testBit_of_le (n := m + 1) (by linarith) hu (by omega)]
      simpa [Bool.eq_false_iff.mpr hs] using hl

theorem width_ne_zero (t : Ty) : t.width ≠ 0 := by cases t <;> decide

theorem toInt_eq_extend (t : Ty) (a : Nat) : t.toInt a = extend t.signed t.width (a % 2 ^ t.width : Nat) := by
  simp only [Ty.toInt, extend]
  norm_cast

/-- R182: the bits of the integer that a raw value reads as: those of the value, then its sign or zeros. -/
theorem testBit_toInt (t : Ty) (a i : Nat) :
    (t.toInt a).testBit i = if i < t.width then a.testBit i else t.signed && a.testBit (t.width - 1) := by
  have hb : ∀ j, ((a % 2 ^ t.width : Nat) : Int).testBit j = (decide (j < t.width) && a.testBit j) := Nat.testBit_mod_two_pow a t.width
  have hu : ((a % 2 ^ t.width : Nat) : Int) < 2 ^ t.width := by exact_mod_cast Nat.mod_lt a (by positivity)
  have ht : t.width - 1 < t.width := Nat.sub_one_lt (width_ne_zero t)
  rw [toInt_eq_extend, testBit_extend _ (width_ne_zero t) (by positivity) hu, hb, hb, decide_eq_true ht, Bool.true_and]
  split
  · next hi => rw [decide_eq_true hi, Bool.true_and]
  · rfl

theorem w32Set_width {t : Ty} (ht : t.w32Set = true) : 32 * t.regs = t.width := by
  simp only [Ty.w32Set, Bool.or_eq_true, beq_iff_eq] at ht
  rcases ht with ((rfl | rfl) | rfl) | rfl <;> rfl

/-- R182: an integer put into a type of whole registers keeps its bits. -/
theorem testBit_ofInt {t : Ty} (ht : t.w32Set = true) (x : Int) {k : Nat} (hk : k < t.width) : (t.ofInt x).testBit k = x.testBit k := by
  have ho : t.ofInt x = (x % 2 ^ t.width).toNat := by simp [Ty.ofInt, w32Set_width ht]
  rw [ho, testBit_toNat (Int.emod_nonneg _ (by positivity)), testBit_emod x hk]

/-! ### Bits of the scalar functions -/

theorem bfe_eq (t : Ty) (a f : Nat) : Scalar.bfe t a f = if Scalar.fieldLen f = 0 then 0
    else t.ofInt (extend t.signed (Scalar.fieldLen f) (t.toInt a / 2 ^ Scalar.fieldPos f % 2 ^ Scalar.fieldLen f)) := rfl

/-- R269: BFE takes the field's bits, extended from the highest. -/
theorem testBit_bfe {t : Ty} (ht : t.w32Set = true) (a f : Nat) {k : Nat} (hk : k < t.width) : (Scalar.bfe t a f).testBit k =
    if Scalar.fieldLen f = 0 then false
    else if k < Scalar.fieldLen f then (t.toInt a).testBit (Scalar.fieldPos f + k)
    else t.signed && (t.toInt a).testBit (Scalar.fieldPos f + Scalar.fieldLen f - 1) := by
  rw [bfe_eq]
  generalize Scalar.fieldPos f = pos, Scalar.fieldLen f = len
  by_cases h0 : len = 0
  · simp [h0]
  · have hp : (0 : Int) < 2 ^ len := by positivity
    rw [if_neg h0, if_neg h0, testBit_ofInt ht _ hk,
      testBit_extend _ h0 (Int.emod_nonneg _ hp.ne') (Int.emod_lt_of_pos _ hp), Nat.add_sub_assoc (Nat.one_le_iff_ne_zero.mpr h0)]
    split
    · next hl => rw [testBit_emod _ hl, testBit_ediv]
    · rw [testBit_emod _ (Nat.sub_one_lt h0), testBit_ediv]

/-- Three pieces of a number, one above the other, bit by bit. -/
theorem testBit_pieces (x y z : Nat) {lo hi : Nat} (h : lo ≤ hi) (k : Nat) :
    (x / 2 ^ hi * 2 ^ hi + y % 2 ^ (hi - lo) * 2 ^ lo + z % 2 ^ lo).testBit k =
      if k < lo then z.testBit k else if k < hi then y.testBit (k - lo) else x.testBit k := by
  have hz : z % 2 ^ lo < 2 ^ lo := Nat.mod_lt _ (by positivity)
  have hy : 2 ^ lo * (y % 2 ^ (hi - lo)) + z % 2 ^ lo < 2 ^ hi := by
    have hm : y % 2 ^ (hi - lo) + 1 ≤ 2 ^ (hi - lo) := Nat.mod_lt _ (by positivity)
    calc 2 ^ lo * (y % 2 ^ (hi - lo)) + z % 2 ^ lo < 2 ^ lo * (y % 2 ^ (hi - lo) + 1) := by rw [mul_add, mul_one]; omega
      _ ≤ 2 ^ lo * 2 ^ (hi - lo) := Nat.mul_le_mul_left _ hm
      _ = 2 ^ hi := by rw [← pow_add, Nat.add_sub_cancel' h]
  rw [add_assoc, mul_comm (x / _), mul_comm (y % _), Nat.testBit_two_pow_mul_add _ hy, Nat.testBit_two_pow_mul_add _ hz,
    Nat.testBit_mod_two_pow, Nat.testBit_mod_two_pow, Nat.testBit_div_two_pow]
  by_cases h1 : k < lo
  · simp [h1, h1.trans_le h]
  · by_cases h2 : k < hi
    · simp [h1, h2, show k - lo < hi - lo by omega]
    · simp [h1, h2, Nat.sub_add_cancel (not_lt.mp h2)]

/-- R269: BFI replaces the field's bits below the width. -/
theorem testBit_bfi (t : Ty) (a b f : Nat) {k : Nat} (hk : k < t.width) : (Scalar.bfi t a b f).testBit k =
    if Scalar.fieldPos f ≤ k ∧ k < Scalar.fieldPos f + Scalar.fieldLen f then a.testBit (k - Scalar.fieldPos f) else b.testBit k := by
  simp only [Scalar.bfi]
  generalize Scalar.fieldPos f = pos, Scalar.fieldLen f = len
  split
  · next ht => rw [if_neg (by omega)]
  · next ht =>
    rw [testBit_pieces b a b (by omega)]
    by_cases h1 : k < pos
    · rw [if_pos h1, if_neg (by omega)]
    · by_cases h2 : k < pos + len
      · rw [if_neg h1, if_pos (by omega), if_pos (by omega)]
      · rw [if_neg h1, if_neg (by omega), if_neg (by omega)]

theorem popcGo_eq (a n : Nat) : Scalar.popcGo a n = ((List.range n).filter fun k => a.testBit k).length := by
  induction n generalizing a with
  | zero => rfl
  | succ n ih =>
    have hs : ((List.range n).map Nat.succ).filter (fun k => a.testBit k) =
        ((List.range n).filter fun k => (a / 2).testBit k).map Nat.succ := by
      rw [List.filter_map]
      exact congrArg _ (List.filter_congr fun k _ => Nat.testBit_succ a k)
    rw [Scalar.popcGo, ih, List.range_succ_eq_map, List.filter_cons, hs, Nat.testBit_zero]
    rcases Nat.mod_two_eq_zero_or_one a with h | h <;> simp [h, add_comm]

/-- R270: CLZ names the highest one bit. -/
theorem clz_spec (t : Ty) {a : Nat} (ha : a < 2 ^ t.width) : Scalar.clz t a ≤ t.width ∧ (a = 0 → Scalar.clz t a = t.width) ∧
    (a ≠ 0 → a.testBit (t.width - 1 - Scalar.clz t a) = true) ∧ ∀ k, t.width - Scalar.clz t a ≤ k → a.testBit k = false := by
  by_cases h0 : a = 0
  · simp [Scalar.clz, h0]
  · have hl : a.log2 < t.width := (Nat.log2_lt h0).mpr ha
    have hc : Scalar.clz t a = t.width - 1 - a.log2 := if_neg h0
    refine ⟨by omega, fun h => absurd h h0, fun _ => ?_, fun k hk => ?_⟩
    · rw [show t.width - 1 - Scalar.clz t a = a.log2 by omega]
      exact Nat.testBit_log2 h0
    · exact Nat.testBit_lt_two_pow ((Nat.log2_lt h0).mp (by omega))

/-- BREV moves the low bits of `a`, reversed, in below `r`. -/
theorem testBit_brevGo (a n r k : Nat) :
    (Scalar.brevGo a n r).testBit k = if k < n then a.testBit (n - 1 - k) else r.testBit (k - n) := by
  induction n generalizing a r with
  | zero => rfl
  | succ n ih =>
    rw [Scalar.brevGo, ih]
    rcases lt_trichotomy k n with hk | rfl | hk
    · rw [if_pos hk, if_pos (by omega), Nat.testBit_div_two, show n - 1 - k + 1 = n + 1 - 1 - k by omega]
    · simp [Nat.testBit_zero]
    · obtain ⟨m, rfl⟩ := Nat.exists_eq_add_of_lt hk
      rw [if_neg (by omega), if_neg (by omega), show n + m + 1 - n = m + 1 by omega, Nat.testBit_succ,
        show (2 * r + a % 2) / 2 = r by omega, show n + m + 1 - (n + 1) = m by omega]

/-- R267: the index into LOP3's table that bit `k` of its inputs makes. -/
def lutIndex (a b d k : Nat) : Nat := (a.testBit k).toNat + 2 * (b.testBit k).toNat + 4 * (d.testBit k).toNat

theorem lop3Go_succ (lut a b d n k : Nat) :
    Scalar.lop3Go lut a b d (n + 1) k = (lut.testBit (lutIndex a b d k)).toNat * 2 ^ k + Scalar.lop3Go lut a b d n (k + 1) := by
  simp only [Scalar.lop3Go, lutIndex, Nat.toNat_testBit]

theorem two_pow_dvd_lop3Go (lut a b d n k : Nat) : 2 ^ k ∣ Scalar.lop3Go lut a b d n k := by
  induction n generalizing k with
  | zero => exact dvd_zero _
  | succ n ih =>
    rw [lop3Go_succ]
    exact dvd_add (dvd_mul_left _ _) ((pow_dvd_pow 2 k.le_succ).trans (ih (k + 1)))

theorem testBit_lop3Go (lut a b d n k j : Nat) :
    (Scalar.lop3Go lut a b d n k).testBit j = (decide (k ≤ j ∧ j < k + n) && lut.testBit (lutIndex a b d j)) := by
  induction n generalizing k with
  | zero => simp [Scalar.lop3Go, show ¬(k ≤ j ∧ j < k) by omega]
  | succ n ih =>
    have hr := ih (k + 1)
    rw [lop3Go_succ]
    obtain ⟨z, hz⟩ := two_pow_dvd_lop3Go lut a b d n (k + 1)
    rw [hz] at hr ⊢
    generalize hc : lut.testBit (lutIndex a b d k) = c
    have he : c.toNat * 2 ^ k + 2 ^ (k + 1) * z = 2 ^ k * (2 * z + c.toNat) := by ring
    have hd : (2 * z + c.toNat) / 2 = z := by have := c.toNat_lt; omega
    rw [he, Nat.testBit_two_pow_mul]
    rcases lt_trichotomy j k with hj | rfl | hj
    · simp [show ¬k ≤ j by omega]
    · cases c <;> simp [hc, Nat.testBit_zero]
    · obtain ⟨m, rfl⟩ := Nat.exists_eq_add_of_lt hj
      rw [show k + m + 1 - k = m + 1 by omega, Nat.testBit_succ, hd]
      rw [Nat.testBit_two_pow_mul, show k + m + 1 - (k + 1) = m by omega] at hr
      have hw : (k ≤ k + m + 1 ∧ k + m + 1 < k + (n + 1)) ↔ k + 1 ≤ k + m + 1 ∧ k + m + 1 < k + 1 + n := by omega
      rw [decide_eq_decide.mpr hw, ← hr]
      exact congrArg (· && z.testBit m) (decide_eq_decide.mpr (by omega))

/-- R267: LOP3 takes each bit from its table. -/
theorem testBit_lop3 (lut a b d : Nat) {k : Nat} (hk : k < 32) : (Scalar.lop3 lut a b d).testBit k = lut.testBit (lutIndex a b d k) := by
  rw [Scalar.lop3, testBit_lop3Go, decide_eq_true (by omega), Bool.true_and]

/-! ### The statements -/

/-- Settles O9: each form is the short shape over its scalar function. -/
theorem multiplyResults : Obligations.MultiplyResults :=
  ⟨fun g t d a b => runsShort_typed2 (f := Scalar.imul t) (exec_imul g t d a b),
   fun g t d a b => runsShort_typed2 (f := Scalar.imulh t) (exec_imulh g t d a b),
   fun g t d a b c => runsShort_of_shortH (exec_imad g t d a b c) fun _ _ => rfl,
   fun g t d a b c => runsShort_of_shortH (exec_imadw g t d a b c) fun _ _ => rfl⟩

/-- Settles O10: each form is the short shape over its scalar function, and LOP3's bits follow by induction on how many are left. -/
theorem logicResults : Obligations.LogicResults :=
  ⟨fun g t d a b => runsShort_typed2 (f := Nat.land) (exec_and g t d a b),
   fun g t d a b => runsShort_typed2 (f := Nat.lor) (exec_or g t d a b),
   fun g t d a b => runsShort_typed2 (f := Nat.xor) (exec_xor g t d a b),
   fun g t d a => runsShort_typed1 (f := Scalar.not t) (exec_not g t d a),
   fun g lut d a b => runsShort_of_shortH (exec_lop3 g lut d a b) fun _ _ => rfl,
   fun lut a b d _ hk => testBit_lop3 lut a b d hk⟩

/-- Settles O11: each form is the short shape over its scalar function. -/
theorem shiftResults : Obligations.ShiftResults :=
  ⟨fun g t d a b => runsShort_shift (f := Scalar.shl t) (exec_shl g t d a b),
   fun g t d a b => runsShort_shift (f := Scalar.shr t) (exec_shr g t d a b),
   fun g t d a b => runsShort_shift (f := Scalar.sar t) (exec_sar g t d a b),
   fun g cl d a b c => runsShort_word3 (f := Scalar.fshl cl) (exec_fshl g cl d a b c),
   fun g cl d a b c => runsShort_word3 (f := Scalar.fshr cl) (exec_fshr g cl d a b c)⟩

/-- Settles O12: the forms by the short shape; the functions bit by bit, BFE through the bits of the integer that its source reads as. -/
theorem bitFieldResults : Obligations.BitFieldResults := by
  refine ⟨fun g t d a f => runsShort_shift (f := Scalar.bfe t) (exec_bfe g t d a f), fun g t d a b f => runsShort_of_shortH (exec_bfi g t d a b f) fun _ _ => rfl,
    fun g t d a => runsShort_count (f := Scalar.popc t) (exec_popc g t d a), fun g t d a => runsShort_count (f := Scalar.clz t) (exec_clz g t d a),
    fun g t d a => runsShort_typed1 (f := Scalar.brev t) (exec_brev g t d a), fun t a f k ht _ hk => ?_, fun t a b f k _ _ hk => testBit_bfi t a b f hk,
    fun t a => popcGo_eq a t.width, fun t a ha => clz_spec t ha, fun t a k hk => ?_⟩
  · rw [testBit_bfe ht a f hk, testBit_toInt, testBit_toInt]
    rfl
  · rw [Scalar.brev, testBit_brevGo, if_pos hk]

/-- Settles O14: the index check decides between the write and the trap; VRD and VWR differ in what a thread writes. -/
theorem indexedRegisters : Obligations.IndexedRegisters := fun g a s _ =>
  ⟨fun d hf => ⟨fun hi => (exec_vrd g d a s).trans (indexed_run _ _ hf hi), fun hi => (exec_vrd g d a s).trans (indexed_trap _ _ hf hi)⟩,
   fun b hf => ⟨fun hi => (exec_vwr g a b s).trans (indexed_run _ _ hf hi), fun hi => (exec_vwr g a b s).trans (indexed_trap _ _ hf hi)⟩⟩

end Sys2Proof.Machine
end

section
/-! SUPPORT. The votes and shuffles (17_control_and_lane_instructions.md): when a long shape without flags issues, what VOTE answers
and where SHFL reads, and the statement of R305 and R306. -/

namespace Sys2Proof.Machine

open Sys2Proof

/-- R144: an instruction that runs through the long shape and raises no trap of its flags issues as its function says. -/
theorem runsLong_of_long {i : Instr} {g : Guard} {l : Lat} {sfu : Nat} {regs : List (Nat × Nat)} {ps : List Nat}
    {fx fx' : Here → List Nat → List (Nat × LaneFx)} {td : W32} (he : ∀ s, exec i s = long g l sfu false regs ps fx td s)
    (hfx : ∀ h ls, fx h ls = fx' h ls) : RunsLong i g l sfu regs ps fx' := fun s h hf hr => by
  rw [he, long_issued fx td hf hr (.inl rfl), hfx]

/-! ### VOTE (R305) -/

section
variable {α : Type} (p : α → Bool) (ls : List α)

theorem voteVal_every : voteVal .every (ls.map p) = decide (∀ j ∈ ls, p j = true) := by
  simp [voteVal, List.all_eq]

theorem voteVal_some : voteVal .some (ls.map p) = decide (∃ j ∈ ls, p j = true) := by
  simp [voteVal, List.any_eq]

theorem voteVal_none : voteVal .none (ls.map p) = decide (∀ j ∈ ls, p j = false) := by
  simp [voteVal, List.any_eq, ← decide_not]

/-- The values agree where all of them are true or none is. -/
theorem voteVal_agree : voteVal .agree (ls.map p) = decide (∀ j ∈ ls, ∀ j' ∈ ls, p j = p j') := by
  have hv : voteVal .agree (ls.map p) = (voteVal .every (ls.map p) || voteVal .none (ls.map p)) := rfl
  rw [hv, voteVal_every, voteVal_none, ← Bool.decide_or]
  refine decide_eq_decide.mpr ⟨?_, fun h => ?_⟩
  · rintro (h | h) j hj j' hj' <;> rw [h j hj, h j' hj']
  · by_cases ha : ∀ j ∈ ls, p j = true
    · exact .inl ha
    · push Not at ha
      obtain ⟨k, hk, hp⟩ := ha
      exact .inr fun j hj => (h j hj k hk).trans (Bool.eq_false_iff.mpr hp)

end

/-! ### SHFL (R306) -/

/-- R306: the thread that SHFL names for thread `l` in segments of `w` threads; thread `l` itself where the offset leaves its segment. -/
def shflFrom (op : ShflOp) (w l k : Nat) : Nat :=
  match op with
  | .idx => l - l % w + k % w
  | .up => if k ≤ l - (l - l % w) then l - k else l
  | .down => if k < l - l % w + w - l then l + k else l
  | .xor => l ^^^ (k % w)

theorem shflSrc_getD (op : ShflOp) (w l k : Nat) : (shflSrc op w l k).getD l = shflFrom op w l k := by
  cases op with
  | idx | xor => rfl
  | up | down =>
    simp only [shflSrc, shflFrom]
    split <;> rfl

/-- R306: a thread reads from the one that SHFL names if that one participates, and from itself otherwise. -/
theorem runsLong_shfl (g : Guard) (l : Lat) (op : ShflOp) (logw : Fin 6) (d a b : VReg) :
    RunsLong (.shfl g l op logw d a b) g l 0 [opd1 d, opd1 a, opd1 b] [] fun h ls => ls.map fun j =>
      let src := shflFrom op (2 ^ logw.val) j (h.nat b j)
      (j, ⟨[(d.val, h.wp.reg a.val (if ls.contains src then src else j))], [], 0⟩) := by
  refine runsLong_of_long (exec_shfl g l op logw d a b) fun h ls => List.map_congr_left fun j _ => ?_
  simp only [← shflSrc_getD, Here.nat]
  cases shflSrc op (2 ^ logw.val) j (h.wp.src1 b j) with
  | none => rw [Option.getD_none, ite_self]
  | some k => rfl

/-! ### The statement -/

/-- Settles O20: each form issues through the long shape; VOTE's answer by its four cases, SHFL's source by the thread that it names. -/
theorem crossLaneResults : Obligations.CrossLaneResults := by
  refine ⟨fun g l inv d p => runsLong_of_long (exec_ballot g l inv d p) fun _ _ => rfl, fun g l op pd ps => ?_,
    fun g l t d a => runsLong_of_long (exec_matchLanes g l t d a) fun _ _ => rfl, fun g l op logw d a b => ?_⟩
  · refine runsLong_of_long (exec_vote g l op pd ps) fun h ls => ?_
    cases op with
    | every => rw [voteVal_every, allFx]
    | some => rw [voteVal_some, allFx]
    | none => rw [voteVal_none, allFx]
    | agree => rw [voteVal_agree, allFx]
  · exact runsLong_shfl g l op logw d a b

end Sys2Proof.Machine
end
